-- ==== Sys2Proof/Word.lean ====
section
/-! DEFINITION. The words, bytes and indices of the part (chapter 00, Conventions; R1, R38, R102). -/

namespace Sys2Proof

/-- A byte of memory. -/
abbrev Byte := BitVec 8

/-- A 32-bit word of memory or of the option store. -/
abbrev Word := BitVec 32

/-- A byte address on the C-port or the M-port (24 bits). -/
abbrev Addr := BitVec 24

/-- A locker index, 0 to 63 (R38). Also a record index of the locker table window (R4). -/
abbrev Locker := Fin 64

/-- A heat channel number, 0 to 15 (R102). -/
abbrev Chan := Fin 16

end Sys2Proof
end

