-- ==== Sys2Proof/Syntax.lean ====
section
/-! DEFINITION. The commands of the part: one constructor for each row of spec/opcode_table.json. The table gives its
rows no operands and no bits; the operands below are what the step needs from outside the part (log 1). -/

namespace Sys2Proof

/-- The two hatches of a locker; their codes in report data are 0 front, 1 rear (R62). -/
inductive Hatch where
  | front
  | rear
deriving DecidableEq, Repr

/-- The two command paths of a locker (chapter 07). -/
inductive PathKind where
  | heat
  | latch
deriving DecidableEq, Repr

/-- A word placed in memory from its second port, the scanner's (R18). -/
structure PortWrite where
  addr : Addr
  data : Word
deriving DecidableEq, Repr

/-- A command of the part: a step of the opcode table with what it takes from outside.

A controller transaction is given by its start address as the bus carries it. A COMMAND word is given by its tag,
class and remaining bits (bits 31 to 15, which hold the outcome field and bits of no field); its kind is the row's.
A read that completes carries `port2`, the words that the memory's second port has written since the last read
completed, oldest first, and the parity fault of each beat (log 5). -/
inductive Instr where
  | cPortRead (addr : Addr) (lanes : BitVec 4) (len : Nat)
  | assign (addr : Addr) (tag : BitVec 8) (cls : BitVec 3) (hi : BitVec 17)
  | cancel (addr : Addr) (tag : BitVec 8) (cls : BitVec 3) (hi : BitVec 17)
  | load (addr : Addr) (tag : BitVec 8) (cls : BitVec 3) (hi : BitVec 17)
  | collect (addr : Addr) (tag : BitVec 8) (cls : BitVec 3) (hi : BitVec 17)
  | clear (addr : Addr) (tag : BitVec 8) (cls : BitVec 3) (hi : BitVec 17)
  | unknownKind (addr : Addr) (kind : BitVec 4) (tag : BitVec 8) (cls : BitVec 3) (hi : BitVec 17)
  | codeWrite (addr : Addr) (data : Word)
  | orderWrite (addr : Addr) (data : Word)
  | readIndexWrite (addr : Addr) (data : Word)
  | statusWrite (addr : Addr) (data : Word)
  | attentionWrite (addr : Addr) (data : Word)
  | controllerWrite (addr : Addr) (lanes : BitVec 4) (data : List Word)
  | mportGrant
  | fwdWriteLand
  | fwdReadComplete (port2 : List PortWrite) (faults : BitVec 8)
  | mrwWriteLand
  | probeComplete (port2 : List PortWrite) (fault : Bool)
  | probeTimeout (locker : Locker) (path : PathKind)
  | probeInterval
  | frameStart
  | secondsEvent (latchesFirst : Bool)
  | expiry (locker : Locker)
  | lockoutEnd (locker : Locker)
  | openWaitExpiry (locker : Locker) (hatch : Hatch)
  | hatchHeld (locker : Locker) (hatch : Hatch)
  | framePollComplete (port2 : List PortWrite) (fault : Bool)
  | fastPollComplete (port2 : List PortWrite) (fault : Bool)
  | feedCrossing (feed : Nat) (elapsed : Nat)
  | shedTrip
  | cutTrip
  | shedRelease
  | cutRelease
  | ringRecordLand
  | writeIndexLand
  | statusLand
  | powerOnReset
  | logicBrownout
  | resetPin
  | resetRelease
  | validationDone
  | restoreReadComplete (port2 : List PortWrite) (fault : Bool)
  | ringRestoreRead (port2 : List PortWrite) (fault : Bool)
  | restoreEnd
  | maintRead (index : BitVec 8)
  | maintWrite (prog : Bool) (index : BitVec 8) (data : Word)
  | maintErase (prog : Bool) (index : BitVec 8)
  | maintInvalid (op : BitVec 8) (index : BitVec 8)
  | readCellZeroLand
deriving DecidableEq, Repr

end Sys2Proof
end

