-- ==== Sys2Proof/Decode.lean ====
section
/-! DEFINITION. What words spell: no row of spec/opcode_table.json gives bits, so a word spells no command. The one
encoding the spec gives is the maintenance-line frame of R36, read here from its bytes. -/

namespace Sys2Proof

/-- The command that a word of the table's bits spells: none, since no row gives bits (log 28). -/
def decodeTableWord (_nbits _w : Nat) : Option Instr := none

/-- The command that a whole maintenance-line frame gives, from its bytes in the order they are sent, with the level
of PROG when its last byte has been received (R36, R181). A frame whose operation byte is not 1, 2 or 3 ends with its
second byte. A byte string that is no whole frame gives none. -/
def decodeFrame (prog : Bool) : List Byte → Option Instr
  | [op, index] =>
    if op = 1 then some (.maintRead index)
    else if op = 3 then some (.maintErase prog index)
    else if op = 2 then none
    else some (.maintInvalid op index)
  | [op, index, b3, b2, b1, b0] => if op = 2 then some (.maintWrite prog index (b3 ++ b2 ++ b1 ++ b0)) else none
  | _ => none

/-- The bytes of the frame that a maintenance command stands for, most significant byte of the data first (R36). -/
def frameBytes : Instr → Option (List Byte)
  | .maintRead index => some [1, index]
  | .maintWrite _ index data =>
    some [2, index, data.extractLsb' 24 8, data.extractLsb' 16 8, data.extractLsb' 8 8, data.extractLsb' 0 8]
  | .maintErase _ index => some [3, index]
  | .maintInvalid op index => some [op, index]
  | .cPortRead .. | .assign .. | .cancel .. | .load .. | .collect .. | .clear .. | .unknownKind .. | .codeWrite ..
  | .orderWrite .. | .readIndexWrite .. | .statusWrite .. | .attentionWrite .. | .controllerWrite ..
  | .mportGrant | .fwdWriteLand | .fwdReadComplete .. | .mrwWriteLand | .probeComplete .. | .probeTimeout ..
  | .probeInterval | .frameStart | .secondsEvent .. | .expiry .. | .lockoutEnd .. | .openWaitExpiry ..
  | .hatchHeld .. | .framePollComplete .. | .fastPollComplete .. | .feedCrossing .. | .shedTrip | .cutTrip
  | .shedRelease | .cutRelease | .ringRecordLand | .writeIndexLand | .statusLand | .powerOnReset | .logicBrownout
  | .resetPin | .resetRelease | .validationDone | .restoreReadComplete .. | .ringRestoreRead .. | .restoreEnd
  | .readCellZeroLand => none

end Sys2Proof
end

