-- ==== Sys2Proof/Config.lean ====
section
/-! DEFINITION. What this implementation fixes: the constants the spec states, and the contents that the model names
where the spec gives none. The spec leaves no result of a step undefined, so there is no free value. -/

namespace Sys2Proof.Config

/-- What a byte of the locker memory reads as before anything has written it.
DESIGN CHOICE (log 6, unsafe): the spec gives memory no initial contents. -/
def unlistedByte : Byte := 0

/-- An erased word of the option store (R181: "a word is erased while it holds all ones"). -/
def erasedWord : Word := 0xFFFFFFFF

/-- FEED at the model's first state, in hundredths of a percent of nominal: 100 %.
DESIGN CHOICE (log 8, unsafe): FEED is an input. -/
def initialFeed : Nat := 10000

/-- The probe interval in ms (R144). -/
def probeIntervalMs : Nat := 8

/-- The seconds event's period in ms (R144). -/
def secondMs : Nat := 1000

/-- The dwell of the two trip timers in ms (R164). -/
def tripDwellMs : Nat := 20

/-- The dwell of the two release timers in ms (R164). -/
def releaseDwellMs : Nat := 2000

/-- The NAK count that makes an error (R135). -/
def nakLimit : Nat := 32

/-- The error count, and final-attempt count, at which a command has failed (R137). -/
def errorLimit : Nat := 3

/-- Implausible frame polls in a row that quarantine a locker (R151). -/
def implausibleLimit : Nat := 3

/-- Saturation of hold-elapsed and cold-dwell (R156). -/
def countMax : Nat := 65535

/-- Saturation of the lost count (R173). -/
def lostMax : Nat := 255

/-- Records the append queue holds (R174). -/
def queueMax : Nat := 4

/-- The temperatures a plausible sample may have, in half-degrees (R151). -/
def tempMin : Int := -40
def tempMax : Int := 300

/-- Level codes select shed trip and shed release points, in hundredths of a percent (R163). -/
def shedPoints (code : Fin 4) : Nat × Nat :=
  match code with
  | 0 => (9400, 9700)
  | 1 => (9200, 9500)
  | 2 => (9000, 9300)
  | 3 => (8800, 9100)

/-- Level codes select cut trip and cut release points, in hundredths of a percent (R163). -/
def cutPoints (code : Fin 4) : Nat × Nat :=
  match code with
  | 0 => (8500, 8900)
  | 1 => (8200, 8600)
  | 2 => (8000, 8400)
  | 3 => (7800, 8200)

/-- The frame length of each frame length code, in ms (R37). -/
def frameLength (code : Fin 4) : Nat :=
  match code with
  | 0 => 125
  | 1 => 250
  | 2 => 500
  | 3 => 1000

end Sys2Proof.Config
end

