-- ==== Sys2Proof/Machine/State.lean ====
section
/-! DEFINITION. The state of the part, block by block (chapter 00, Block diagram), the locker memory beside it, and the
queue of waiting commands; the faults and refusals of a step; the state after reset. -/

namespace Sys2Proof.Machine

/-- Why a step can stop. Each names a step that the spec says cannot arise in the state, or an operand that the row
cannot carry; no event of the spec ends in one (log 2, safe). -/
inductive Fault where
  /-- Raised by the C-port rows: a transaction is presented while CPI is not IDLE, which the bus form does not allow
  (R2). Safe. -/
  | busBusy
  /-- Raised by grants, landings, completions, time events and mode events: nothing stands in the state that this
  event could be the end of (no request, no such transaction on the M-port, a stopped phase, another mode). Safe. -/
  | noSuchEvent
  /-- Raised by C_PORT_READ, CONTROLLER_WRITE, UNKNOWN_KIND and MAINT_INVALID on operands that are not well formed.
  Safe. -/
  | malformed
deriving DecidableEq, Repr

/-- Why a step can be refused. -/
inductive Refusal where
  /-- A command with no meaning yet: raised by no arm of exec. Safe. -/
  | notModelled (mnemonic : String)
deriving DecidableEq, Repr

/-! ### Locker engine (R38) -/

/-- The nine lifecycle states (R33, R38). -/
inductive Lifecycle where
  | vacant | assigned | loadable | loading | holding | collecting | expired | clearing | quarantine
deriving DecidableEq, Repr

/-- The twelve reasons (R33, R41). -/
inductive Reason where
  | none | holdLimit | coldDwell | restart | forced | stale | implausible | overtemp
  | heatActuator | latchActuator | notCleared | channelLost
deriving DecidableEq, Repr

/-- The return state of a sequence (R38). -/
inductive ReturnState where
  | none | loadable | holding | expired | quarantine
deriving DecidableEq, Repr

/-- The two reasons of an expiry (R53); as a collection expiry, `none` is no expiry (R38). -/
inductive ExpiryReason where
  | holdLimit | coldDwell
deriving DecidableEq, Repr

/-- A locker context (R38). -/
structure Context where
  life : Lifecycle
  reason : Reason
  cls : Fin 8
  customer : Word
  order : BitVec 24
  presCode : Word
  presOrder : BitVec 24
  attempts : Nat
  lockedOut : Bool
  lockoutLeft : Nat
  hold : Nat
  cold : Nat
  ret : ReturnState
  collExp : Option ExpiryReason
deriving DecidableEq, Repr

/-- The context after every reset (R38, third column). -/
def Context.reset : Context :=
  { life := .vacant, reason := .none, cls := 0, customer := 0, order := 0, presCode := 0, presOrder := 0, attempts := 0,
    lockedOut := false, lockoutLeft := 0, hold := 0, cold := 0, ret := .none, collExp := Option.none }

/-! ### Latch controller (R83) -/

/-- The seven latch states (R33, R83). -/
inductive LatchState where
  | latched | haltWait | unlatchPending | openWait | opened | relatchPending | failed
deriving DecidableEq, Repr

/-- Why a latch is being re-engaged (R83). -/
inductive RelatchKind where
  | none | opened | notOpened | restore
deriving DecidableEq, Repr

/-- A latch record (R83). -/
structure LatchRec where
  st : LatchState
  kind : RelatchKind
  tray : Bool
  openWait : Nat
  hatchHeld : Nat
  note : Bool
deriving DecidableEq, Repr

/-- The latch record after every reset (R83, third column). -/
def LatchRec.reset : LatchRec :=
  { st := .latched, kind := .none, tray := false, openWait := 0, hatchHeld := 0, note := false }

/-- The front and the rear record of one locker. -/
structure LatchPair where
  front : LatchRec
  rear : LatchRec
deriving DecidableEq, Repr

/-! ### Heat scheduler (R102, R105, R106, R113) -/

/-- The state of a channel with its locker, which FREE and LOST have not (R102). -/
inductive ChanState where
  | free
  | onPending (locker : Locker)
  | on (locker : Locker)
  | offPending (locker : Locker)
  | lost
deriving DecidableEq, Repr

/-- A channel record (R102). -/
structure Channel where
  st : ChanState
  stamp : BitVec 32
deriving DecidableEq, Repr

/-- The heat scheduler's state. -/
structure Hsc where
  chans : Vector Channel 16
  grants : BitVec 32
  capacity : Nat
  hq : List Locker
  wq : List Locker
  overrun : Bool
deriving DecidableEq, Repr

/-! ### Actuator handshake unit (R128) -/

/-- Where the current command of a path stands (R129). -/
inductive PathState where
  | idle | writing | probing
deriving DecidableEq, Repr

/-- The fields that both paths of a locker have (R128). -/
structure PathRec where
  seq : BitVec 4
  st : PathState
  probes : Nat
  naks : Nat
  errs : Nat
  fin : Nat
deriving DecidableEq, Repr

/-- A path after every reset (R128, third column). -/
def PathRec.reset : PathRec := { seq := 0, st := .idle, probes := 0, naks := 0, errs := 0, fin := 0 }

/-- The two paths of one locker with their images (R128). -/
structure PathPair where
  heatOn : Bool
  heat : PathRec
  relFront : Bool
  relRear : Bool
  latch : PathRec
deriving DecidableEq, Repr

/-- The actuator handshake unit's state. `req` is the locker whose probe request stands (R132). -/
structure Ahu where
  paths : Vector PathPair 64
  due : Vector Bool 64
  probePos : Locker
  req : Option Locker
deriving DecidableEq, Repr

/-! ### Sampler (R146 to R149) -/

/-- The two kinds of poll (R147, R148). -/
inductive PollKind where
  | frame | fast
deriving DecidableEq, Repr

/-- A sampler record (R146). -/
structure SamplerRec where
  latest : Option Int
  lastSeq : Option (BitVec 8)
  stale : Nat
  implausible : Nat
deriving DecidableEq, Repr

/-- A sampler record after every reset (R146, third column). -/
def SamplerRec.reset : SamplerRec := { latest := none, lastSeq := none, stale := 0, implausible := 0 }

/-- The sampler's state. `sweep` is none when no sweep runs, else the lockers of its list not yet read, passed over
or gone VACANT, the one being read included (R147; log 22). `req` is the poll whose request stands (R149). -/
structure Smp where
  recs : Vector SamplerRec 64
  sweep : Option (List Locker)
  owed : Bool
  fastPoll : Vector Bool 64
  fastDue : Vector Bool 64
  fastPos : Locker
  toggle : PollKind
  req : Option (PollKind × Locker)
deriving DecidableEq, Repr

/-! ### Timebase (R144) and supply monitor (R162) -/

/-- The timebase. A phase is none while stopped, else the ms since its last event as far as the timebase's own events
have shown it (log 17). -/
structure Tmb where
  seconds : BitVec 32
  probe : Option Nat
  frame : Option Nat
  second : Option Nat
deriving DecidableEq, Repr

/-- The supply states; their codes are 0, 1, 2 (R168). -/
inductive Supply where
  | normal | shed | cut
deriving DecidableEq, Repr

/-- The supply monitor: its state and its four dwell timers, none when clear, else the elapsed ms (R162, R164). -/
structure Sup where
  st : Supply
  shedTrip : Option Nat
  cutTrip : Option Nat
  shedRelease : Option Nat
  cutRelease : Option Nat
deriving DecidableEq, Repr

/-! ### Mirror writer (R24, R26, R28) -/

/-- The five marked cells (R24). -/
inductive MarkCell where
  | heat | latch | state | hold | codeZero
deriving DecidableEq, Repr

/-- The dirty marks of one locker (R24). -/
structure Marks where
  heat : Bool
  latch : Bool
  state : Bool
  hold : Bool
  codeZero : Bool
deriving DecidableEq, Repr

/-- No mark stands. -/
def Marks.none : Marks := { heat := false, latch := false, state := false, hold := false, codeZero := false }

/-- The mirror writer. `turn` is the locker being served with the cell last granted in the turn; `promo` is the
promotion list and `promoLast` the cell last granted for its head since the order was last begun; `req` is the request
that stands. -/
structure Mrw where
  marks : Vector Marks 64
  lastServed : Locker
  turn : Option (Locker × Option MarkCell)
  promo : List Locker
  promoLast : Option MarkCell
  req : Option (Locker × MarkCell)
deriving DecidableEq, Repr

/-! ### Report writer (R173) -/

/-- The report kinds (chapter 10, section 10.7). -/
inductive ReportKind where
  | restored | supplyState | holdOverrun | holdOverrunEnd | ready | loaded | loadEmpty | collected | notTaken
  | collectWithdrawn | openTimeout | hatchHeld | forced | expired | quarantined | cleared | lockout | lockoutEnd
  | channelLost | writeRefused | parity
deriving DecidableEq, Repr

/-- A report record (R35). `locker` is 255 for none. -/
structure Record where
  kind : ReportKind
  locker : BitVec 8
  detail : BitVec 16
  order : BitVec 24
  time : BitVec 32
  data : Word
deriving DecidableEq, Repr

/-- Where RPW's ring operation stands (R175): none; STATUS requested or granted; the head record's write requested or
granted; the WRITE index's write requested or granted, with the kind of the record it ends. -/
inductive RingOp where
  | idle
  | statusReq
  | statusFly
  | recordReq
  | recordFly
  | indexReq (kind : ReportKind)
  | indexFly (kind : ReportKind)
deriving DecidableEq, Repr

/-- Where the ring's part of the restore stands (R186). -/
inductive RingStage where
  | off | readWrite | readRead | readAttention | zeroWrite | zeroRead | zeroStatus | done
deriving DecidableEq, Repr

/-- The report writer. `keptWrite` and `keptRead` are the WRITE and READ words the restore has read, none where the
read had a parity fault or is still to come (R186). -/
structure Rpw where
  adopted : Bool
  write : Nat
  read : Nat
  lost : Nat
  overrun : Bool
  statusMark : Bool
  attention : Bool
  mask : Word
  queue : List Record
  quarantined : Nat
  lostChannels : Nat
  op : RingOp
  stage : RingStage
  keptWrite : Option Word
  keptRead : Option Word
deriving DecidableEq, Repr

/-! ### C-port and M-port interfaces (R1, R2, R16, R17) -/

/-- A C-port transaction (R1). `data` holds one word a beat for a write. -/
structure Txn where
  write : Bool
  addr : Addr
  lanes : BitVec 4
  len : Nat
  data : List Word
deriving DecidableEq, Repr

/-- What RPW takes when a forwarded write lands (R7). -/
inductive LandEffect where
  | none | readIndex | status | attention
deriving DecidableEq, Repr

/-- CPI with the one transaction in progress (R2). ANSWERING is passed inside the step that gives the answer (log 4). -/
inductive Cpi where
  | idle
  | held (txn : Txn) (start mirror ring : Bool)
  | waiting (txn : Txn) (land : LandEffect)
  | carrying (txn : Txn) (land : LandEffect)
deriving DecidableEq, Repr

/-- An answer on the C-port (R1). -/
inductive Answer where
  | done (data : List Word)
  | refused
deriving DecidableEq, Repr

/-- The five requesters, in the order of the circle (R16). -/
inductive Requester where
  | fwd | mrw | ahu | smp | rpw
deriving DecidableEq, Repr

/-- What a transaction on the M-port is for. -/
inductive MTag where
  | fwd
  | mirror (locker : Locker) (cell : MarkCell) (seq : BitVec 4)
  | probe (locker : Locker)
  | poll (kind : PollKind) (locker : Locker)
  | restoreRead
  | ringRecord
  | ringWriteIndex
  | ringStatus
  | ringReadCell
  | ringRestoreRead
deriving DecidableEq, Repr

/-- A transaction on the M-port, its content fixed at the grant (R17). -/
structure MTxn where
  tag : MTag
  txn : Txn
deriving DecidableEq, Repr

/-- The M-port interface: the arbiter pointer and the transaction being carried (R16). -/
structure Mpi where
  pointer : Requester
  port : Option MTxn
deriving DecidableEq, Repr

/-! ### Option store, modes and restore (R170, R181 to R187) -/

/-- The modes (chapter 00, Modes of the part), with the two times in which the part is in none of them (R183). -/
inductive Mode where
  | inReset | validating | unconfigured | restoring | operating
deriving DecidableEq, Repr

/-- The reset causes; their codes are 1, 2, 3 (R170). -/
inductive ResetCause where
  | powerOn | brownout | pin
deriving DecidableEq, Repr

/-- A guard window as copied from the store; base and mask are address bits 23 to 2 in place (R4, R37). -/
structure GuardWindow where
  base : Addr
  mask : Addr
  enabled : Bool
deriving DecidableEq, Repr

/-- A staff entry (R71). -/
structure StaffEntry where
  code : Word
  mask : Word
  enabled : Bool
deriving DecidableEq, Repr

/-- The options of a meal class (R37): limits in half-degrees, hold limit in minutes, cold-dwell limit in seconds. -/
structure ClassOpts where
  lower : Int
  upper : Int
  load : Int
  holdMin : Nat
  coldLimit : Nat
deriving DecidableEq, Repr

/-- The copies that the blocks take from the option store at validation (R184), in one place. -/
structure Copies where
  lockerCount : Nat
  frameMs : Nat
  ringSize : Nat
  cmax : Nat
  cshed : Nat
  ltBase : Addr
  rgBase : Addr
  g0 : GuardWindow
  g1 : GuardWindow
  shedCode : Fin 4
  cutCode : Fin 4
  ackLimit : Nat
  staleLimit : Nat
  lockoutAttempts : Nat
  openWait : Nat
  hatchHeld : Nat
  overtempC : Nat
  lockoutMin : Nat
  classes : Vector ClassOpts 8
  staff : Vector StaffEntry 4
deriving DecidableEq, Repr

/-- No copies held: staff entries disabled with code and mask 0 (R71), everything else 0 (log 9). -/
def Copies.reset : Copies :=
  { lockerCount := 0, frameMs := 0, ringSize := 0, cmax := 0, cshed := 0, ltBase := 0, rgBase := 0,
    g0 := { base := 0, mask := 0, enabled := false }, g1 := { base := 0, mask := 0, enabled := false },
    shedCode := 0, cutCode := 0, ackLimit := 0, staleLimit := 0, lockoutAttempts := 0, openWait := 0, hatchHeld := 0,
    overtempC := 0, lockoutMin := 0,
    classes := Vector.replicate 8 { lower := 0, upper := 0, load := 0, holdMin := 0, coldLimit := 0 },
    staff := Vector.replicate 4 { code := 0, mask := 0, enabled := false } }

/-- The cells of a locker that the restore reads, in their order (R185). -/
inductive RestoreCell where
  | state | heat | latch
deriving DecidableEq, Repr

/-- Where the lockers' part of the restore stands: the locker whose cells are being read, the cell to read next, and
the words read so far, none where the read had a parity fault (R185). -/
structure Restore where
  next : Nat
  cell : RestoreCell
  stateWord : Option Word
  heatWord : Option Word
deriving DecidableEq, Repr

/-- An answer on the maintenance line (R36). -/
inductive MaintAnswer where
  | ok (data : Option Word)
  | refused
deriving DecidableEq, Repr

/-- The locker memory: bytes at byte addresses, in the canonical form of `Memory.wf`. -/
abbrev Memory := List Host.Cell

/-! ### The whole state -/

/-- The state of the part, of the memory behind it, and of the queue of commands. -/
structure State where
  pending : List Instr
  mode : Mode
  cause : ResetCause
  store : Vector Word 64
  restore : Restore
  copies : Copies
  cpi : Cpi
  answer : Option Answer
  lke : Vector Context 64
  ltc : Vector LatchPair 64
  hsc : Hsc
  ahu : Ahu
  smp : Smp
  tmb : Tmb
  sup : Sup
  feed : Nat
  mrw : Mrw
  rpw : Rpw
  mpi : Mpi
  maint : Option MaintAnswer
  mem : Memory
deriving DecidableEq, Repr

def Hsc.reset : Hsc :=
  { chans := Vector.replicate 16 { st := .free, stamp := 0 }, grants := 0, capacity := 0, hq := [], wq := [],
    overrun := false }

def Ahu.reset : Ahu :=
  { paths := Vector.replicate 64
      { heatOn := false, heat := PathRec.reset, relFront := false, relRear := false, latch := PathRec.reset },
    due := Vector.replicate 64 false, probePos := 0, req := none }

def Smp.reset : Smp :=
  { recs := Vector.replicate 64 SamplerRec.reset, sweep := none, owed := false, fastPoll := Vector.replicate 64 false,
    fastDue := Vector.replicate 64 false, fastPos := 0, toggle := .fast, req := none }

def Tmb.reset : Tmb := { seconds := 0, probe := none, frame := none, second := none }

def Sup.reset : Sup := { st := .normal, shedTrip := none, cutTrip := none, shedRelease := none, cutRelease := none }

def Mrw.reset : Mrw :=
  { marks := Vector.replicate 64 Marks.none, lastServed := 63, turn := none, promo := [], promoLast := none,
    req := none }

def Rpw.reset : Rpw :=
  { adopted := false, write := 0, read := 0, lost := 0, overrun := false, statusMark := false, attention := false,
    mask := 0, queue := [], quarantined := 0, lostChannels := 0, op := .idle, stage := .off, keptWrite := none,
    keptRead := none }

def Mpi.reset : Mpi := { pointer := .fwd, port := none }

def Restore.reset : Restore := { next := 0, cell := .state, stateWord := none, heatWord := none }

/-- The machine right after reset: every block at its reset values (R183), reset still asserted by the power-on source,
the option store erased, FEED at 100 %, memory with nothing listed, no command waiting (log 8). -/
def State.reset : State :=
  { pending := [], mode := .inReset, cause := .powerOn, store := Vector.replicate 64 Config.erasedWord,
    restore := Restore.reset, copies := Copies.reset, cpi := .idle, answer := none,
    lke := Vector.replicate 64 Context.reset,
    ltc := Vector.replicate 64 { front := LatchRec.reset, rear := LatchRec.reset },
    hsc := Hsc.reset, ahu := Ahu.reset, smp := Smp.reset, tmb := Tmb.reset, sup := Sup.reset,
    feed := Config.initialFeed, mrw := Mrw.reset, rpw := Rpw.reset, mpi := Mpi.reset, maint := none, mem := [] }

end Sys2Proof.Machine
end

