-- ==== Sys2Proof/Machine/Operands.lean ====
section
/-! DEFINITION. The words the part reads and writes, field by field (R19, R22, R33 to R37): the codes of states,
reasons, kinds and causes; the cells of a locker record; report records; the fields of the option store. -/

namespace Sys2Proof.Machine

/-- A value placed in `w` bits from bit `lo` of a word. -/
def fld (lo w v : Nat) : Word := ((BitVec.ofNat w v).zeroExtend 32) <<< lo

/-- A flag placed at bit `lo` of a word. -/
def flag (lo : Nat) (b : Bool) : Word := fld lo 1 b.toNat

/-- The field of `w` bits from bit `lo`, as a number. -/
def bits (word : Word) (lo w : Nat) : Nat := (word.extractLsb' lo w).toNat

/-- The field of `w` bits from bit `lo`, as a two's complement number. -/
def sbits (word : Word) (lo w : Nat) : Int := (word.extractLsb' lo w).toInt

/-! ### Codes -/

/-- Lifecycle codes of STATE (R33). -/
def Lifecycle.code : Lifecycle → Nat
  | .vacant => 0 | .assigned => 1 | .loadable => 2 | .loading => 3 | .holding => 4 | .collecting => 5
  | .expired => 6 | .clearing => 7 | .quarantine => 8

/-- Reason codes of STATE (R33). -/
def Reason.code : Reason → Nat
  | .none => 0 | .holdLimit => 1 | .coldDwell => 2 | .restart => 3 | .forced => 4 | .stale => 5 | .implausible => 6
  | .overtemp => 7 | .heatActuator => 8 | .latchActuator => 9 | .notCleared => 10 | .channelLost => 11

/-- Latch state codes of STATE (R33). -/
def LatchState.code : LatchState → Nat
  | .latched => 0 | .haltWait => 1 | .unlatchPending => 2 | .openWait => 3 | .opened => 4 | .relatchPending => 5
  | .failed => 6

/-- The lifecycle state a return state names, VACANT standing for none (R38). -/
def ReturnState.life : ReturnState → Lifecycle
  | .none => .vacant | .loadable => .loadable | .holding => .holding | .expired => .expired
  | .quarantine => .quarantine

/-- The reason that an expiry sets (R41, R53). -/
def ExpiryReason.reason : ExpiryReason → Reason
  | .holdLimit => .holdLimit
  | .coldDwell => .coldDwell

/-- The expiry that an EXPIRED locker's reason names (R54). -/
def Reason.expiry : Reason → Option ExpiryReason
  | .holdLimit => some .holdLimit
  | .coldDwell => some .coldDwell
  | .none | .restart | .forced | .stale | .implausible | .overtemp | .heatActuator | .latchActuator | .notCleared
  | .channelLost => Option.none

/-- Hatch codes of report data (R62, R100). -/
def hatchCode : Hatch → Nat
  | .front => 0
  | .rear => 1

/-- Supply state codes (R168). -/
def Supply.code : Supply → Nat
  | .normal => 0 | .shed => 1 | .cut => 2

/-- Reset cause codes (R170). -/
def ResetCause.code : ResetCause → Nat
  | .powerOn => 1 | .brownout => 2 | .pin => 3

/-- Report kind codes (section 10.7). -/
def ReportKind.code : ReportKind → Nat
  | .restored => 1 | .supplyState => 2 | .holdOverrun => 3 | .holdOverrunEnd => 4 | .ready => 5 | .loaded => 6
  | .loadEmpty => 7 | .collected => 8 | .notTaken => 9 | .collectWithdrawn => 10 | .openTimeout => 11 | .hatchHeld => 12
  | .forced => 13 | .expired => 14 | .quarantined => 15 | .cleared => 16 | .lockout => 17 | .lockoutEnd => 18
  | .channelLost => 19 | .writeRefused => 20 | .parity => 21

/-! ### Command words (R22, R33) -/

/-- The five command kinds (R33). -/
inductive CmdKind where
  | assign | cancel | load | collect | clear
deriving DecidableEq, Repr

/-- The kind field's codes (R33); other values are unknown kinds. -/
def CmdKind.ofCode (k : BitVec 4) : Option CmdKind :=
  if k = 1 then some .assign else if k = 2 then some .cancel else if k = 3 then some .load
  else if k = 4 then some .collect else if k = 5 then some .clear else none

/-- The outcomes of a command; their codes in the outcome field (R33). NONE is never written by the part (R22). -/
inductive CmdOutcome where
  | accepted | state | busy | code | locked | expired | cls | unknown
deriving DecidableEq, Repr

def CmdOutcome.toCode : CmdOutcome → BitVec 4
  | .accepted => 1 | .state => 2 | .busy => 3 | .code => 4 | .locked => 5 | .expired => 6 | .cls => 7 | .unknown => 8

/-- A COMMAND word from its fields: tag 7:0, kind 11:8, class 14:12, the rest 31:15 (R33). -/
def commandWord (tag : BitVec 8) (kind : BitVec 4) (cls : BitVec 3) (hi : BitVec 17) : Word :=
  (hi ++ cls ++ kind ++ tag : BitVec 32)

/-- The tag, kind and class fields of a COMMAND word (R33). -/
def cmdTag (w : Word) : BitVec 8 := w.extractLsb' 0 8
def cmdKind (w : Word) : BitVec 4 := w.extractLsb' 8 4
def cmdClass (w : Word) : BitVec 3 := w.extractLsb' 12 3

/-- The word that CPI forwards for an evaluated command: tag, kind and class as written, the outcome in bits 19:16,
every other bit 0 (R22, R65). -/
def forwardedWord (w : Word) (out : CmdOutcome) : Word :=
  ((0 : BitVec 12) ++ out.toCode ++ (0 : BitVec 1) ++ cmdClass w ++ cmdKind w ++ cmdTag w : BitVec 32)

/-! ### The cells the part writes (R25, R33) -/

/-- The STATE cell: the context, both latch states, whether a channel is attached, both error counts (R25, R33). -/
def stateWord (c : Context) (p : LatchPair) (held : Bool) (a : PathPair) : Word :=
  fld 0 4 c.life.code ||| fld 4 4 c.reason.code ||| fld 8 3 c.cls.val ||| fld 11 3 p.front.st.code
    ||| fld 14 3 p.rear.st.code ||| flag 17 held ||| fld 18 4 c.attempts ||| flag 22 c.lockedOut
    ||| fld 23 2 a.heat.errs ||| fld 25 2 a.latch.errs

/-- Hold-elapsed in the low half and cold-dwell in the high half: the HOLD cell and several reports (R33, R62). -/
def countsWord (c : Context) : Word := fld 0 16 c.hold ||| fld 16 16 c.cold

/-- The HEAT cell (R33). -/
def heatWord (a : PathPair) : Word := flag 0 a.heatOn ||| fld 4 4 a.heat.seq.toNat

/-- The LATCH cell (R33). -/
def latchWord (a : PathPair) : Word := flag 0 a.relFront ||| flag 1 a.relRear ||| fld 4 4 a.latch.seq.toNat

/-- The sequence field of a HEAT or LATCH cell (R33). -/
def cellSeq (w : Word) : BitVec 4 := w.extractLsb' 4 4

/-- A STATE cell reads as VACANT when its lifecycle is VACANT and every field is within its list (R33, R40). The class,
attempts, flags and error counts have no value outside their lists. -/
def readsVacant (w : Word) : Bool :=
  bits w 0 4 = 0 && bits w 4 4 ≤ 11 && bits w 11 3 ≤ 6 && bits w 14 3 ≤ 6

/-- The class field of a STATE cell (R33, R40). -/
def stateClass (w : Word) : Fin 8 := ⟨bits w 8 3, (w.extractLsb' 8 3).isLt⟩

/-! ### The cells the scanner writes (R19, R33) -/

/-- The fields of a SENSE cell (R19). -/
structure Sense where
  temp : Int
  seq : BitVec 8
  frontClosed : Bool
  rearClosed : Bool
  tray : Bool
deriving DecidableEq, Repr

def senseOf (w : Word) : Sense :=
  { temp := sbits w 0 12, seq := w.extractLsb' 12 8, frontClosed := w.getLsbD 20, rearClosed := w.getLsbD 21,
    tray := w.getLsbD 22 }

/-- The codes of an acknowledgement (R19). -/
inductive AckCode where
  | none | ack | nak | fault
deriving DecidableEq, Repr

def AckCode.ofBits (b : BitVec 2) : AckCode :=
  if b = 0 then .none else if b = 1 then .ack else if b = 2 then .nak else .fault

/-- The sequence and code of a path's half of the ACK cell (R19, R33). -/
def ackSeq (p : PathKind) (w : Word) : BitVec 4 :=
  match p with
  | .heat => w.extractLsb' 0 4
  | .latch => w.extractLsb' 8 4

def ackCode (p : PathKind) (w : Word) : AckCode :=
  match p with
  | .heat => AckCode.ofBits (w.extractLsb' 4 2)
  | .latch => AckCode.ofBits (w.extractLsb' 12 2)

/-! ### Report records and STATUS (R34, R35) -/

/-- The four words of a record (R35). -/
def Record.words (r : Record) : List Word :=
  [fld 0 8 r.kind.code ||| fld 8 8 r.locker.toNat ||| fld 16 16 r.detail.toNat, r.order.zeroExtend 32, r.time, r.data]

/-- The STATUS word of a lost count and an overrun flag (R34). -/
def statusWord (lost : Nat) (overrun : Bool) : Word := fld 0 8 lost ||| flag 8 overrun

/-- The mask bits that the part keeps of an ATTENTION word: bits 1 to 21 (R34, R178). -/
def maskOf (w : Word) : Word := w &&& 0x003FFFFE

/-- Whether a mask has the bit of a kind (R34). -/
def maskHas (mask : Word) (k : ReportKind) : Bool := mask.getLsbD k.code

/-! ### Maintenance answers (R36) -/

/-- The bytes that answer a frame: the status, then the word of a READ answered OK (R36). -/
def MaintAnswer.bytes : MaintAnswer → List Byte
  | .ok none => [0]
  | .ok (some w) => [0, w.extractLsb' 24 8, w.extractLsb' 16 8, w.extractLsb' 8 8, w.extractLsb' 0 8]
  | .refused => [1]

/-! ### The option store (R37, R184) -/

/-- The fields of a class from its two words (R37). -/
def classOpts (w0 w1 : Word) : ClassOpts :=
  { lower := sbits w0 0 12, upper := sbits w0 16 12, load := sbits w1 0 12, holdMin := bits w1 12 8,
    coldLimit := bits w1 20 10 }

/-- The two bits from bit `lo` of a word. -/
def bits2 (w : Word) (lo : Nat) : Fin 4 := ⟨bits w lo 2, (w.extractLsb' lo 2).isLt⟩

/-- Address bits 23 to 2 of a word, in place (R37). -/
def addrField (w : Word) : Addr := w.extractLsb' 2 22 ++ (0 : BitVec 2)

/-- The ring size of a ring size code; codes 0 to 4 are valid (R37, R184). -/
def ringSizeOf (code : Nat) : Nat := 16 * 2 ^ code

/-- The options as the store's words give them (R37). -/
def storeCopies (st : Vector Word 64) : Copies :=
  { lockerCount := bits st[0] 0 7, frameMs := Config.frameLength (bits2 st[0] 8),
    ringSize := ringSizeOf (bits st[0] 12 3), cmax := bits st[0] 16 5, cshed := bits st[0] 24 5,
    ltBase := st[1].extractLsb' 0 24, rgBase := st[2].extractLsb' 0 24,
    g0 := { base := addrField st[3], mask := addrField st[4], enabled := st[7].getLsbD 0 },
    g1 := { base := addrField st[5], mask := addrField st[6], enabled := st[7].getLsbD 1 },
    shedCode := bits2 st[7] 4, cutCode := bits2 st[7] 8, ackLimit := bits st[7] 12 4, staleLimit := bits st[7] 16 4,
    lockoutAttempts := bits st[7] 20 4, openWait := bits st[8] 0 6, hatchHeld := bits st[8] 16 10,
    overtempC := bits st[9] 0 8, lockoutMin := bits st[9] 8 6,
    classes := Vector.ofFn fun c : Fin 8 => classOpts st[10 + 2 * c.val] st[11 + 2 * c.val],
    staff := Vector.ofFn fun e : Fin 4 =>
      { code := st[26 + 2 * e.val], mask := st[27 + 2 * e.val], enabled := st[34].getLsbD e.val } }

/-- The sum of words 0 to 61, modulo 2³² (R37). -/
def integritySum (st : Vector Word 64) : Word := (st.toList.take 62).foldl (· + ·) 0

/-- The temperatures that a limit may have (R184). -/
def tempOk (t : Int) : Bool := Config.tempMin ≤ t && t ≤ Config.tempMax

/-- The tests of one class (R184). -/
def classOk (overtempC : Nat) (c : ClassOpts) : Bool :=
  tempOk c.lower && tempOk c.upper && c.lower < c.upper && tempOk c.load && c.load ≤ c.upper && c.holdMin ≤ 240
    && c.coldLimit ≤ 900 && c.upper < 2 * (overtempC : Int)

/-- The bytes of the locker table window and of the ring window (R4). -/
def ltwBytes : Nat := 4096
def rgwBytes (ringSize : Nat) : Nat := 16 + 16 * ringSize

/-- Validation: every test of R184. -/
def storeValid (st : Vector Word 64) : Bool :=
  let c := storeCopies st
  let lt := c.ltBase.toNat
  let rg := c.rgBase.toNat
  st[63] = integritySum st
    && (1 ≤ c.lockerCount && c.lockerCount ≤ 64)
    && bits st[0] 12 3 ≤ 4
    && (1 ≤ c.cmax && c.cmax ≤ 16) && c.cshed ≤ c.cmax
    && lt % 4096 = 0
    && rg % 16 = 0 && rg + rgwBytes c.ringSize - 1 ≤ 0xFFFFFF
    && (lt + ltwBytes ≤ rg || rg + rgwBytes c.ringSize ≤ lt)
    && (2 ≤ c.ackLimit && c.ackLimit ≤ 15) && (4 ≤ c.staleLimit && c.staleLimit ≤ 15)
    && (1 ≤ c.lockoutAttempts && c.lockoutAttempts ≤ 15)
    && (5 ≤ c.openWait && c.openWait ≤ 60) && (30 ≤ c.hatchHeld && c.hatchHeld ≤ 600)
    && (1 ≤ c.lockoutMin && c.lockoutMin ≤ 60)
    && (60 ≤ c.overtempC && c.overtempC ≤ 150)
    && c.classes.toList.all (classOk c.overtempC)

end Sys2Proof.Machine
end

