-- ==== Sys2Proof/Machine/Ops.lean ====
section
/-! DEFINITION. The named operations over memory and over the blocks' state. Every change of a context, a latch
record, a path or a channel goes through the one operation here that also makes what R24, R39, R97 and R109 tie to
that change: dirty marks, the quarantine count, the fast-poll set, the withdrawal of queue entries. -/

namespace Sys2Proof.Machine

/-! ### The locker memory (R18) -/

/-- The byte at an address; an address that is not listed reads as `Config.unlistedByte` (log 6). -/
def Memory.readByte : Memory → Nat → Byte
  | [], _ => Config.unlistedByte
  | (k, b) :: rest, a => if k = a then b else Memory.readByte rest a

/-- One byte written, keeping the canonical form. -/
def Memory.writeByte : Memory → Nat → Byte → Memory
  | [], a, b => if b = Config.unlistedByte then [] else [(a, b)]
  | (k, x) :: rest, a, b =>
    if a < k then if b = Config.unlistedByte then (k, x) :: rest else (a, b) :: (k, x) :: rest
    else if a = k then if b = Config.unlistedByte then rest else (a, b) :: rest
    else (k, x) :: Memory.writeByte rest a b

/-- Addresses strictly rise from `lo` and stay within 24 bits; no entry equals what an unlisted address reads as. -/
def Memory.wfFrom : Nat → Memory → Bool
  | _, [] => true
  | lo, (k, b) :: rest => lo ≤ k && k < 2 ^ 24 && b ≠ Config.unlistedByte && Memory.wfFrom (k + 1) rest

/-- The canonical form of the memory. -/
def Memory.wf (m : Memory) : Bool := Memory.wfFrom 0 m

/-- A word address: bits 1 and 0 taken as zero (R1). -/
def wordAddr (a : Addr) : Addr := a &&& 0xFFFFFC

/-- The byte address of byte lane `i` of the word at `a`. -/
def laneAddr (a : Addr) (i : Nat) : Nat := (wordAddr a).toNat + i

/-- The little-endian word at a word address (chapter 00, Conventions). -/
def Memory.readWord (m : Memory) (a : Addr) : Word :=
  m.readByte (laneAddr a 3) ++ m.readByte (laneAddr a 2) ++ m.readByte (laneAddr a 1) ++ m.readByte (laneAddr a 0)

/-- Byte lane `i` written when its enable is set. -/
def Memory.writeLane (m : Memory) (a : Addr) (lanes : BitVec 4) (w : Word) (i : Nat) : Memory :=
  if lanes.getLsbD i then m.writeByte (laneAddr a i) (w.extractLsb' (8 * i) 8) else m

/-- A beat written: the enabled lanes of the word at a word address (R1). -/
def Memory.writeWord (m : Memory) (a : Addr) (lanes : BitVec 4) (w : Word) : Memory :=
  (((m.writeLane a lanes w 0).writeLane a lanes w 1).writeLane a lanes w 2).writeLane a lanes w 3

/-- The address of beat `k` (from 0): 4 beyond the beat before it, wrapping at 16 MiB (R1). -/
def Txn.beatAddr (t : Txn) (k : Nat) : Addr := wordAddr t.addr + BitVec.ofNat 24 (4 * k)

/-- The word addresses that a transaction touches, in beat order (R1). -/
def Txn.beats (t : Txn) : List Addr := (List.range t.len).map t.beatAddr

/-- The words written to consecutive word addresses. -/
def Memory.writeBeats (m : Memory) (a : Addr) (lanes : BitVec 4) : List Word → Memory
  | [] => m
  | w :: ws => (m.writeWord a lanes w).writeBeats (wordAddr a + 4) lanes ws

/-- What a transaction leaves in memory when it is complete (R2). -/
def Memory.complete (m : Memory) (t : Txn) : Memory :=
  if t.write then m.writeBeats (wordAddr t.addr) t.lanes t.data else m

/-- The words that a read returns, whole words whatever its lanes (R1, R31; log 5). -/
def Memory.readBeats (m : Memory) (t : Txn) : List Word := t.beats.map m.readWord

/-- The words that the second port has written (R18). -/
def Memory.port2 (m : Memory) (ws : List PortWrite) : Memory :=
  ws.foldl (fun m w => m.writeWord w.addr 0xF w.data) m

/-- A read of one word. -/
def readTxn (a : Addr) : Txn := { write := false, addr := a, lanes := 0xF, len := 1, data := [] }

/-- A full write of words from an address. -/
def writeTxn (a : Addr) (ws : List Word) : Txn := { write := true, addr := a, lanes := 0xF, len := ws.length, data := ws }

/-! ### Indices -/

/-- The lockers below a locker count, in ascending index. -/
def lockersBelow (n : Nat) : List Locker := (List.finRange 64).filter fun l => l.val < n

/-- The lockers that take part (R38). -/
def State.lockers (s : State) : List Locker := lockersBelow s.copies.lockerCount

/-- The 16 channel records. -/
def allChans : List Chan := List.finRange 16

/-- The first locker of an ascending list at or after a position, wrapping to the start (R26, R132, R148). -/
def searchFrom (ls : List Locker) (start : Nat) (p : Locker → Bool) : Option Locker :=
  (ls.find? fun l => start ≤ l.val && p l).or (ls.find? fun l => l.val < start && p l)

/-- The locker after one, as a search position: past the last it wraps by `searchFrom`. -/
def locSucc (l : Locker) (n : Nat) : Locker := if h : l.val + 1 < n ∧ l.val + 1 < 64 then ⟨l.val + 1, h.2⟩ else 0

/-- The address of a cell of a locker record (R33). -/
def State.cellAddr (s : State) (l : Locker) (word : Nat) : Addr := s.copies.ltBase + BitVec.ofNat 24 (64 * l.val + 4 * word)

/-- The address of a control word of the ring (R34). -/
def State.ringCtl (s : State) (word : Nat) : Addr := s.copies.rgBase + BitVec.ofNat 24 (4 * word)

/-- The address of a record slot (R34). -/
def State.ringSlot (s : State) (slot : Nat) : Addr := s.copies.rgBase + BitVec.ofNat 24 (16 + 16 * slot)

/-! ### Accessors -/

def State.ctx (s : State) (l : Locker) : Context := s.lke[l.val]
def State.latches (s : State) (l : Locker) : LatchPair := s.ltc[l.val]
def State.paths (s : State) (l : Locker) : PathPair := s.ahu.paths[l.val]
def State.marks (s : State) (l : Locker) : Marks := s.mrw.marks[l.val]
def State.sampler (s : State) (l : Locker) : SamplerRec := s.smp.recs[l.val]
def State.chan (s : State) (i : Chan) : Channel := s.hsc.chans[i.val]

/-- The options of a locker's class (R155: the class is that of the locker's context). -/
def State.opts (s : State) (l : Locker) : ClassOpts := s.copies.classes[(s.ctx l).cls.val]

def LatchPair.get (p : LatchPair) : Hatch → LatchRec
  | .front => p.front
  | .rear => p.rear

def LatchPair.set (p : LatchPair) (h : Hatch) (r : LatchRec) : LatchPair :=
  match h with
  | .front => { p with front := r }
  | .rear => { p with rear := r }

def State.latch (s : State) (l : Locker) (h : Hatch) : LatchRec := (s.latches l).get h

def PathPair.get (p : PathPair) : PathKind → PathRec
  | .heat => p.heat
  | .latch => p.latch

def PathPair.set (p : PathPair) (k : PathKind) (r : PathRec) : PathPair :=
  match k with
  | .heat => { p with heat := r }
  | .latch => { p with latch := r }

/-! ### Dirty marks (R24) -/

def Marks.has (m : Marks) : MarkCell → Bool
  | .heat => m.heat
  | .latch => m.latch
  | .state => m.state
  | .hold => m.hold
  | .codeZero => m.codeZero

def Marks.put (m : Marks) (c : MarkCell) (b : Bool) : Marks :=
  match c with
  | .heat => { m with heat := b }
  | .latch => { m with latch := b }
  | .state => { m with state := b }
  | .hold => { m with hold := b }
  | .codeZero => { m with codeZero := b }

def Marks.any (m : Marks) : Bool := m.heat || m.latch || m.state || m.hold || m.codeZero

/-- A mark set or cleared. -/
def putMark (l : Locker) (c : MarkCell) (b : Bool) (s : State) : State :=
  { s with mrw := { s.mrw with marks := s.mrw.marks.set l.val ((s.marks l).put c b) } }

/-- A mark set when a condition holds. -/
def markIf (cond : Bool) (l : Locker) (c : MarkCell) (s : State) : State := if cond then putMark l c true s else s

/-! ### Reports (R174, R176) -/

/-- A dropped record counted: the lost count saturates at 255, the overrun is set, and the STATUS mark is set when
either has changed (R176). -/
def Rpw.countLoss (r : Rpw) : Rpw :=
  { r with
    lost := min Config.lostMax (r.lost + 1), overrun := true,
    statusMark := r.statusMark || decide (r.lost < Config.lostMax) || !r.overrun }

/-- A record handed to RPW: it joins the append queue, or it is dropped and counted when the queue holds 4 (R174). -/
def Rpw.hand (r : Rpw) (rec : Record) : Rpw :=
  if r.queue.length < Config.queueMax then { r with queue := r.queue ++ [rec] } else r.countLoss

def handRecord (rec : Record) (s : State) : State := { s with rpw := s.rpw.hand rec }

/-- A record about a locker, with its order reference and the seconds counter as they stand (R62, R174). -/
def lockerRecord (s : State) (k : ReportKind) (l : Locker) (detail : Nat) (data : Word) : Record :=
  { kind := k, locker := BitVec.ofNat 8 l.val, detail := BitVec.ofNat 16 detail, order := (s.ctx l).order,
    time := s.tmb.seconds, data := data }

/-- A record about no locker: locker field 255, order reference 0 (section 10.7). -/
def plainRecord (s : State) (k : ReportKind) (detail : Nat) (data : Word) : Record :=
  { kind := k, locker := 255, detail := BitVec.ofNat 16 detail, order := 0, time := s.tmb.seconds, data := data }

/-! ### Queue entries (R106, R109) -/

/-- Both latches of a locker are LATCHED. -/
def State.bothLatched (s : State) (l : Locker) : Bool :=
  (s.latches l).front.st = .latched && (s.latches l).rear.st = .latched

/-- A locker qualifies for an HQ entry while HOLDING with both latches LATCHED (R109). -/
def State.qualifiesHq (s : State) (l : Locker) : Bool := (s.ctx l).life = .holding && s.bothLatched l

/-- A locker qualifies for a WQ entry while ASSIGNED or LOADABLE with both latches LATCHED (R109). -/
def State.qualifiesWq (s : State) (l : Locker) : Bool :=
  ((s.ctx l).life = .assigned || (s.ctx l).life = .loadable) && s.bothLatched l

/-- An entry taken out of the hold queue, wherever it stands (R106). -/
def dropHq (l : Locker) (s : State) : State := { s with hsc := { s.hsc with hq := s.hsc.hq.filter (· ≠ l) } }

/-- An entry taken out of the warm-up queue, wherever it stands (R106). -/
def dropWq (l : Locker) (s : State) : State := { s with hsc := { s.hsc with wq := s.hsc.wq.filter (· ≠ l) } }

/-- The notice of a lifecycle or latch change: HSC removes the entry that the locker no longer qualifies for (R109). -/
def hscNotice (l : Locker) (s : State) : State :=
  let s := if s.qualifiesHq l then s else dropHq l s
  if s.qualifiesWq l then s else dropWq l s

/-! ### Contexts (R24, R38, R39, R179) -/

/-- The quarantine count after a lifecycle change: entries add 1, exits take 1 (R179). -/
def countQuarantine (old new : Lifecycle) (s : State) : State :=
  if old ≠ .quarantine ∧ new = .quarantine then { s with rpw := { s.rpw with quarantined := s.rpw.quarantined + 1 } }
  else if old = .quarantine ∧ new ≠ .quarantine then
    { s with rpw := { s.rpw with quarantined := s.rpw.quarantined - 1 } }
  else s

/-- A field of the context that STATE gathers differs (R24). -/
def stateFieldsDiffer (o n : Context) : Bool :=
  o.life ≠ n.life || o.reason ≠ n.reason || o.cls ≠ n.cls || o.attempts ≠ n.attempts || o.lockedOut ≠ n.lockedOut

/-- A context changed: STATE and HOLD marks (R24), the quarantine count (R179), the notice to HSC (R39, R109). -/
def putCtx (l : Locker) (c : Context) (s : State) : State :=
  let o := s.ctx l
  let s := { s with lke := s.lke.set l.val c }
  let s := markIf (stateFieldsDiffer o c) l .state s
  let s := markIf (o.hold ≠ c.hold || o.cold ≠ c.cold) l .hold s
  let s := countQuarantine o.life c.life s
  if o.life ≠ c.life then hscNotice l s else s

/-! ### Latches (R83, R97, R109) -/

/-- A latch is in a sequence (R83). -/
def LatchState.inSeq : LatchState → Bool
  | .haltWait | .unlatchPending | .openWait | .opened | .relatchPending => true
  | .latched | .failed => false

/-- A locker is in the fast-poll set while either of its latches is in a sequence (R97). -/
def LatchPair.inSeq (p : LatchPair) : Bool := p.front.st.inSeq || p.rear.st.inSeq

/-- LTC tells SMP the membership of a locker; a locker that leaves the fast-poll set leaves the fast-due set
(R97, R148; log 21). -/
def setFastPoll (l : Locker) (b : Bool) (s : State) : State :=
  { s with
    smp := { s.smp with
      fastPoll := s.smp.fastPoll.set l.val b,
      fastDue := if b then s.smp.fastDue else s.smp.fastDue.set l.val false } }

/-- A latch record changed; a change of its state sets the STATE mark, keeps the fast-poll set, and is noticed by HSC
(R83, R97, R109). -/
def putLatch (l : Locker) (h : Hatch) (r : LatchRec) (s : State) : State :=
  let o := s.latch l h
  let s := { s with ltc := s.ltc.set l.val ((s.latches l).set h r) }
  let s := markIf (o.st ≠ r.st) l .state s
  let s := setFastPoll l (s.latches l).inSeq s
  if o.st ≠ r.st then hscNotice l s else s

/-! ### Paths, sampler records and channels (R24, R128) -/

/-- The paths of a locker changed; a change of an error count sets the STATE mark (R128). -/
def putPaths (l : Locker) (p : PathPair) (s : State) : State :=
  let o := s.paths l
  let s := { s with ahu := { s.ahu with paths := s.ahu.paths.set l.val p } }
  markIf (o.heat.errs ≠ p.heat.errs || o.latch.errs ≠ p.latch.errs) l .state s

/-- A locker's sampler record changed (R146). -/
def putSampler (l : Locker) (r : SamplerRec) (s : State) : State :=
  { s with smp := { s.smp with recs := s.smp.recs.set l.val r } }

/-- A locker leaves the list of the running sweep, for this sweep whole: the sweep has read it, or it has entered VACANT
before its turn (R147; log 22). -/
def leaveSweep (l : Locker) (s : State) : State :=
  { s with smp := { s.smp with sweep := s.smp.sweep.map (·.filter (· ≠ l)) } }

/-- The locker that a channel is attached to (R102). -/
def ChanState.attached : ChanState → Option Locker
  | .onPending l | .on l | .offPending l => some l
  | .free | .lost => none

/-- The locker of an energised channel (R102). -/
def ChanState.energised : ChanState → Option Locker
  | .onPending l | .on l => some l
  | .free | .offPending _ | .lost => none

/-- The STATE mark of a locker that has been attached or detached. -/
def markAttach (l : Option Locker) (s : State) : State :=
  match l with
  | some l => putMark l .state true s
  | none => s

/-- A channel record changed; attachment and detachment set the STATE mark of the locker (R102). -/
def putChan (i : Chan) (c : Channel) (s : State) : State :=
  let o := s.chan i
  let s := { s with hsc := { s.hsc with chans := s.hsc.chans.set i.val c } }
  if o.st.attached = c.st.attached then s else markAttach c.st.attached (markAttach o.st.attached s)

/-- The channel attached to a locker, if any (R102: at most one). -/
def State.attachedChan (s : State) (l : Locker) : Option Chan :=
  allChans.find? fun i => (s.chan i).st.attached = some l

end Sys2Proof.Machine
end

