-- ==== Sys2Proof/Machine/Flags.lean ====
section
/-! DEFINITION. The output lines ATTN and FAULT, and the lock of the option store, as functions of the state. -/

namespace Sys2Proof.Machine

/-- RPW knows a ring: the modes in which ATTN can be asserted (R178). -/
def State.ringKnown (s : State) : Bool := (s.mode = .restoring || s.mode = .operating) && s.rpw.adopted

/-- The ATTN line: asserted while attention-pending is set; deasserted in reset, in UNCONFIGURED and in RESTORING before
adoption (R178). -/
def State.attnLine (s : State) : Bool := s.ringKnown && s.rpw.attention

/-- The FAULT line: asserted in UNCONFIGURED, while a locker is in QUARANTINE, and while a channel is LOST; deasserted
otherwise, in reset and during validation too (R179, R183). -/
def State.faultLine (s : State) : Bool :=
  match s.mode with
  | .inReset | .validating => false
  | .unconfigured => true
  | .restoring | .operating => 0 < s.rpw.quarantined || 0 < s.rpw.lostChannels

/-- The store is locked while word 62 holds 0 (R182). -/
def State.storeLocked (s : State) : Bool := s.store[62] = 0

end Sys2Proof.Machine
end

