-- ==== Sys2Proof/Machine/Ahu.lean ====
section
/-! DEFINITION. The actuator handshake unit: issuing, re-issuing, zeroing and landing of commands (R128 to R131, R137,
R140), and its probe request (R132). What a probe's answer hands on is in Handshake.lean. -/

namespace Sys2Proof.Machine

/-- A command issued on a path: the next sequence, WRITING, probe, NAK and final-attempt counts 0; the error count
stands (R130, R138). -/
def PathRec.issue (p : PathRec) : PathRec := { p with seq := p.seq + 1, st := .writing, probes := 0, naks := 0, fin := 0 }

/-- A command re-issued: the next sequence, WRITING, probe and NAK counts 0; the final-attempt count stands (R137). -/
def PathRec.reissue (p : PathRec) : PathRec := { p with seq := p.seq + 1, st := .writing, probes := 0, naks := 0 }

/-- A heat command issued for a locker: image, issue, HEAT mark (R130). -/
def issueHeat (l : Locker) (on : Bool) (s : State) : State :=
  let p := s.paths l
  putMark l .heat true (putPaths l { p with heatOn := on, heat := p.heat.issue } s)

/-- A latch command issued for a locker: image, issue, LATCH mark (R130). -/
def issueLatch (l : Locker) (front rear : Bool) (s : State) : State :=
  let p := s.paths l
  putMark l .latch true (putPaths l { p with relFront := front, relRear := rear, latch := p.latch.issue } s)

/-- The mark of the cell that carries a path's commands (R24). -/
def pathMark : PathKind → MarkCell
  | .heat => .heat
  | .latch => .latch

/-- LKE asks for the error counts to be 0 when a locker enters VACANT: both error counts and both final-attempt counts;
the rest of the paths stands (R140). -/
def zeroErrors (l : Locker) (s : State) : State :=
  let p := s.paths l
  putPaths l { p with heat := { p.heat with errs := 0, fin := 0 }, latch := { p.latch with errs := 0, fin := 0 } } s

/-- MRW reports the landing of a HEAT or LATCH write: a WRITING path whose current sequence it carried begins probing
(R131). -/
def pathLanded (l : Locker) (k : PathKind) (seq : BitVec 4) (s : State) : State :=
  let p := s.paths l
  let r := p.get k
  if r.st = .writing ∧ r.seq = seq then putPaths l (p.set k { r with st := .probing, probes := 0 }) s else s

/-- A locker has a path in PROBING (R132). -/
def State.probing (s : State) (l : Locker) : Bool :=
  (s.paths l).heat.st = .probing || (s.paths l).latch.st = .probing

/-- The probe-interval event at AHU: each locker with a path in PROBING is due (R132). -/
def ahuInterval (s : State) : State :=
  { s with
    ahu := { s.ahu with
      due := Vector.ofFn fun l : Fin 64 =>
        s.ahu.due[l.val] || (decide (l.val < s.copies.lockerCount) && s.probing l) } }

/-- A locker leaves the due set. -/
def leaveDue (l : Locker) (s : State) : State := { s with ahu := { s.ahu with due := s.ahu.due.set l.val false } }

/-- A locker with no path in PROBING left leaves the due set, whether or not its request stands, and a request of it is
withdrawn: a path that enters PROBING between two probe-interval events waits for the second of them (R132; log 33). -/
def dropSuperseded (s : State) : State :=
  { s with
    ahu := { s.ahu with
      due := Vector.ofFn fun l : Fin 64 => s.ahu.due[l.val] && s.probing l, req := s.ahu.req.filter s.probing } }

/-- AHU takes the first due locker at or after the probe position, and the position moves past it (R132). -/
def ahuPick (s : State) : State :=
  match searchFrom s.lockers s.ahu.probePos.val fun l => s.ahu.due[l.val] with
  | some l => { s with ahu := { s.ahu with probePos := locSucc l s.copies.lockerCount, req := some l } }
  | none => s

/-- A probe is on the M-port. -/
def State.probeFlying (s : State) : Bool :=
  match s.mpi.port with
  | some ⟨.probe _, _⟩ => true
  | _ => false

/-- AHU's request after an event: withdrawn where its ground has gone, raised where a probe is due and none stands or
is in flight (R132). -/
def ahuSettle (s : State) : State :=
  let s := dropSuperseded s
  if s.ahu.req.isNone && !s.probeFlying then ahuPick s else s

end Sys2Proof.Machine
end

