-- ==== Sys2Proof/Machine/Hsc.lean ====
section
/-! DEFINITION. The heat scheduler: halts, allocation, late grants, samples, the frame start, capacity changes (R102 to
R119). -/

namespace Sys2Proof.Machine

/-- The number of channels in ON_PENDING or ON (R105). -/
def State.energisedCount (s : State) : Nat := allChans.countP fun i => (s.chan i).st.energised.isSome

/-- The lowest-numbered FREE channel below Cmax (R102). -/
def State.freeChan (s : State) : Option Chan :=
  allChans.find? fun i => decide (i.val < s.copies.cmax) && decide ((s.chan i).st = .free)

/-- An energised channel goes to OFF_PENDING with its off command (R103, R116); any other channel is left alone. -/
def turnOff (i : Chan) (s : State) : State :=
  match (s.chan i).st.energised with
  | some l => issueHeat l false (putChan i { s.chan i with st := .offPending l } s)
  | none => s

/-- A halt request for a locker, taken by the channel attached to it (R116). -/
def haltLocker (l : Locker) (s : State) : State :=
  match s.attachedChan l with
  | some i => turnOff i s
  | none => s

/-- A channel allocated to a locker: grant counter and stamp, ON_PENDING, on command (R102, R103). -/
def allocateChan (i : Chan) (l : Locker) (s : State) : State :=
  let g := s.hsc.grants + 1
  let s := { s with hsc := { s.hsc with grants := g } }
  issueHeat l true (putChan i { st := .onPending l, stamp := g } s)

/-- The lowest-numbered FREE channel allocated to a locker, if there is one (R102). -/
def allocate (l : Locker) (s : State) : State :=
  match s.freeChan with
  | some i => allocateChan i l s
  | none => s

/-- The ranking: HQ entries in their order, then WQ entries in theirs (R106). -/
def State.ranking (s : State) : List Locker := s.hsc.hq ++ s.hsc.wq

/-- The first ranked entry whose locker has no channel attached (R114). -/
def State.nextUnserved (s : State) : Option Locker := s.ranking.find? fun l => (s.attachedChan l).isNone

/-- The repeated step of a late grant (R114). `fuel` bounds the number of grants; each takes a FREE channel. -/
def lateGrantLoop : Nat → State → State
  | 0, s => s
  | fuel + 1, s =>
    if s.energisedCount < s.hsc.capacity then
      match s.freeChan, s.nextUnserved with
      | some i, some l => lateGrantLoop fuel (allocateChan i l s)
      | _, _ => s
    else s

/-- A late grant, in OPERATING (R114). -/
def lateGrant (s : State) : State := if s.mode = .operating then lateGrantLoop 16 s else s

/-- The class midpoint: half of hold lower plus hold upper, rounded down (R107). -/
def ClassOpts.midpoint (c : ClassOpts) : Int := (c.lower + c.upper) / 2

/-- A locker has an entry in one of the queues (R106). -/
def State.queued (s : State) (l : Locker) : Bool := s.ranking.contains l

/-- A locker posted at the tail of HQ, and the late grant that follows (R107). -/
def postHq (l : Locker) (s : State) : State := lateGrant { s with hsc := { s.hsc with hq := s.hsc.hq ++ [l] } }

/-- A locker posted at the tail of WQ, and the late grant that follows (R107). -/
def postWq (l : Locker) (s : State) : State := lateGrant { s with hsc := { s.hsc with wq := s.hsc.wq ++ [l] } }

/-- The hold queue's part of a valid sample: posting below the midpoint, removal at or above it (R107, R108). -/
def sampleHq (l : Locker) (t : Int) (s : State) : State :=
  if t < (s.opts l).midpoint then if s.qualifiesHq l && !s.queued l then postHq l s else s else dropHq l s

/-- The warm-up queue's part of a valid sample: posting below the load threshold, removal at or above it (R107,
R108). -/
def sampleWq (l : Locker) (t : Int) (s : State) : State :=
  if t < (s.opts l).load then if s.qualifiesWq l && !s.queued l then postWq l s else s else dropWq l s

/-- HSC takes a valid sample (R107, R108). -/
def hscSample (l : Locker) (t : Int) (s : State) : State := sampleWq l t (sampleHq l t s)

/-! ### Frame start (R111 to R113) -/

/-- What the walk has come to: the state, the entries that stay in the queue walked, the granted set. -/
structure Walk where
  s : State
  stay : List Locker
  granted : List Locker

/-- The walk of one queue in its order (R111). The granted count is the length of the granted set. -/
def walkQueue : List Locker → State → List Locker → Walk
  | [], s, g => ⟨s, [], g⟩
  | l :: rest, s, g =>
    if g.length < s.hsc.capacity then
      match s.attachedChan l with
      | some i =>
        if (s.chan i).st.energised.isSome then walkQueue rest s (l :: g)
        else
          let w := walkQueue rest s g
          { w with stay := l :: w.stay }
      | none =>
        match s.freeChan with
        | some i => walkQueue rest (allocateChan i l s) (l :: g)
        | none =>
          let w := walkQueue rest s g
          { w with stay := l :: w.stay }
    else ⟨s, l :: rest, g⟩

/-- A channel released at the frame start: energised, and its locker not in the granted set (R112). -/
def releaseUngranted (granted : List Locker) (s : State) (i : Chan) : State :=
  match (s.chan i).st.energised with
  | some l => if granted.contains l then s else turnOff i s
  | none => s

/-- The overrun judgement at the end of a frame start (R113). -/
def judgeOverrun (granted : Nat) (s : State) : State :=
  if s.hsc.hq.isEmpty then
    if s.hsc.overrun then
      handRecord (plainRecord s .holdOverrunEnd s.hsc.capacity 0) { s with hsc := { s.hsc with overrun := false } }
    else s
  else if granted = s.hsc.capacity && !s.hsc.overrun then
    handRecord (plainRecord s .holdOverrun s.hsc.capacity (BitVec.ofNat 32 s.hsc.hq.length))
      { s with hsc := { s.hsc with overrun := true } }
  else s

/-- The walk of the ranking, HQ then WQ, with the entries that stay put back in their queues (R111). -/
def walkRanking (s : State) : State × List Locker :=
  let h := walkQueue s.hsc.hq s []
  let w := walkQueue h.s.hsc.wq h.s h.granted
  ({ w.s with hsc := { w.s.hsc with hq := h.stay, wq := w.stay } }, w.granted)

/-- The frame start event at HSC: walk, releases, overrun judgement, as one event (R111 to R113). -/
def hscFrameStart (s : State) : State :=
  let (s, granted) := walkRanking s
  judgeOverrun granted.length (allChans.foldl (releaseUngranted granted) s)

/-! ### Capacity (R105, R118, R119) -/

/-- How far a channel's stamp lies below the grant counter: the smaller, the more recent its grant (R102). -/
def State.grantAge (s : State) (i : Chan) : BitVec 32 := s.hsc.grants - (s.chan i).stamp

/-- The most recent grant among channels (R102). -/
def mostRecent (s : State) : List Chan → Option Chan
  | [] => none
  | i :: rest =>
    match mostRecent s rest with
    | none => some i
    | some j => if s.grantAge j < s.grantAge i then some j else some i

/-- An energised channel of a warming locker: ASSIGNED or LOADABLE (R118). -/
def State.warmingChan (s : State) (i : Chan) : Bool :=
  match (s.chan i).st.energised with
  | some l => (s.ctx l).life = .assigned || (s.ctx l).life = .loadable
  | none => false

/-- The next channel that a capacity decrease halts: warming lockers' first, then the others', the most recent grant
first (R118; log 24). -/
def State.victim (s : State) : Option Chan :=
  (mostRecent s (allChans.filter s.warmingChan)).or
    (mostRecent s (allChans.filter fun i => (s.chan i).st.energised.isSome))

/-- Energised channels halted one at a time until the energised count is at most the capacity (R118). `fuel` bounds the
number of halts. -/
def decreaseLoop : Nat → State → State
  | 0, s => s
  | fuel + 1, s =>
    if s.hsc.capacity < s.energisedCount then
      match s.victim with
      | some i => decreaseLoop fuel (turnOff i s)
      | none => s
    else s

/-- SUP hands HSC a capacity: a decrease halts the excess, an increase makes a late grant, an equal one changes nothing
(R118, R119). -/
def setCapacity (c : Nat) (s : State) : State :=
  let s' := { s with hsc := { s.hsc with capacity := c } }
  if c < s.hsc.capacity then decreaseLoop 16 s' else if s.hsc.capacity < c then lateGrant s' else s

end Sys2Proof.Machine
end

