-- ==== Sys2Proof/Machine/Lifecycle.lean ====
section
/-! DEFINITION. The locker engine's transitions (R39 to R62), and the two requests it makes of the latch controller:
releases (R84, R85) and withdrawals (R44, R96). -/

namespace Sys2Proof.Machine

/-! ### Latch records as they pass from state to state (R83) -/

/-- Into RELATCH_PENDING: no time runs; the tray seen stands with relatch kind OPENED alone (R83, R90, R92, R96). -/
def LatchRec.relatch (r : LatchRec) (k : RelatchKind) (tray : Bool) : LatchRec :=
  { r with st := .relatchPending, kind := k, tray := tray, openWait := 0, hatchHeld := 0 }

/-- Into OPEN: the hatch-held remaining is set to the setting, the relatch kind and the tray seen go (R89, R93 to
R95). -/
def LatchRec.openTo (r : LatchRec) (held : Nat) : LatchRec :=
  { r with st := .opened, kind := .none, tray := false, openWait := 0, hatchHeld := held }

/-- Into LATCHED or FAILED: no sequence runs; the forced-open note stands (R91, R96, R98). -/
def LatchRec.rest (r : LatchRec) (st : LatchState) : LatchRec :=
  { r with st := st, kind := .none, tray := false, openWait := 0, hatchHeld := 0 }

/-- Into HALT_WAIT, UNLATCH_PENDING by a release request: the forced-open note is cleared (R85). -/
def LatchRec.release (r : LatchRec) (st : LatchState) : LatchRec := { r with st := st, note := false }

/-! ### Withdrawal (R44, R96) -/

/-- A COLLECT_WITHDRAWN report: the lifecycle state entered and the hatch (R44, R62). -/
def reportWithdrawn (l : Locker) (h : Hatch) (into : Lifecycle) (s : State) : State :=
  handRecord (lockerRecord s .collectWithdrawn l into.code (BitVec.ofNat 32 (hatchCode h))) s

/-- The withdrawal of one hatch's release, by the state of its latch (R44's table, R96). A relatch of the restore is no
release (log 24). A release that EXPIRED has withdrawn and that QUARANTINE finds RELATCH_PENDING, not opened, counts as
withdrawn again, with a report of its own: the model's choice (log 32). -/
def withdrawHatch (l : Locker) (into : Lifecycle) (s : State) (h : Hatch) : State :=
  let r := s.latch l h
  match r.st with
  | .haltWait => reportWithdrawn l h into (putLatch l h (r.rest .latched) s)
  | .unlatchPending | .openWait =>
    reportWithdrawn l h into (issueLatch l false false (putLatch l h (r.relatch .notOpened false) s))
  | .relatchPending => if r.kind = .notOpened then reportWithdrawn l h into s else s
  | .opened | .latched | .failed => s

/-- LKE asks LTC to withdraw the release that a locker's latch is in (R44). -/
def withdraw (l : Locker) (into : Lifecycle) (s : State) : State :=
  withdrawHatch l into (withdrawHatch l into s .front) .rear

/-! ### Entries into states (R42, R43, R45) -/

/-- The entry actions that EXPIRED, LOADING, CLEARING, QUARANTINE and VACANT share: the queue entry leaves, which the
notice of `putCtx` has done, and any attached channel is halted (R42). -/
def enterHalting (l : Locker) (c : Context) (s : State) : State := haltLocker l (putCtx l c s)

/-- The context that entry into VACANT leaves: presented code and presented order stand (R43). -/
def Context.cleared (c : Context) : Context :=
  { Context.reset with presCode := c.presCode, presOrder := c.presOrder }

/-- Entry into VACANT: entry actions, the context cleared, the error counts zeroed, the sampler record reset (R42, R43,
R140, R146). A running sweep passes the locker over, also where it is assigned again before its turn (R147). -/
def enterVacant (l : Locker) (s : State) : State :=
  leaveSweep l (putSampler l SamplerRec.reset (zeroErrors l (enterHalting l (s.ctx l).cleared s)))

/-- The context of a locker in QUARANTINE with a cause (R45). -/
def Context.quarantined (c : Context) (r : Reason) : Context :=
  { c with life := .quarantine, reason := r, ret := .none, collExp := none }

/-- Entry into QUARANTINE with a cause: QUARANTINED report naming the reason and the state left, entry actions, and the
withdrawal of a release, in that order of reports (R44, R45, R62). -/
def quarantine (l : Locker) (r : Reason) (s : State) : State :=
  let c := s.ctx l
  let rep := lockerRecord s .quarantined l r.code (BitVec.ofNat 32 c.life.code)
  withdraw l .quarantine (handRecord rep (enterHalting l (c.quarantined r) s))

/-- The causes that a VACANT locker takes (R58, R59). -/
def Reason.ofActuator : Reason → Bool
  | .heatActuator | .latchActuator | .channelLost => true
  | .none | .holdLimit | .coldDwell | .restart | .forced | .stale | .implausible | .overtemp | .notCleared => false

/-- A quarantine cause reaches LKE. In RESTORING it makes the locker QUARANTINE with that reason, replacing RESTART, with
no report (R40, R59). Otherwise it is taken in every state but QUARANTINE, and in VACANT only from an actuator (R45, R58,
R59). -/
def quarantineCause (l : Locker) (r : Reason) (s : State) : State :=
  let c := s.ctx l
  if s.mode = .restoring then enterHalting l (c.quarantined r) s
  else if c.life = .quarantine then s
  else if c.life = .vacant && !r.ofActuator then s
  else quarantine l r s

/-! ### Relatch outcomes (R50, R52, R57) -/

/-- What LTC tells LKE at the end of a sequence (R91): the hatch was opened, with the tray seen, or it was not. -/
inductive RelatchOutcome where
  | opened (tray : Bool)
  | notOpened
deriving DecidableEq, Repr

/-- An OPEN_TIMEOUT report: the state entered and the hatch (R62). -/
def reportTimeout (l : Locker) (h : Hatch) (into : Lifecycle) (s : State) : State :=
  handRecord (lockerRecord s .openTimeout l into.code (BitVec.ofNat 32 (hatchCode h))) s

/-- The rear relatch of a LOADING locker (R50). -/
def relatchLoading (l : Locker) (out : RelatchOutcome) (s : State) : State :=
  let c := s.ctx l
  match out with
  | .opened true =>
    handRecord (lockerRecord s .loaded l c.cls.val 0)
      (putCtx l { c with life := .holding, reason := .none, hold := 0, cold := 0, collExp := none, ret := .none } s)
  | .opened false =>
    handRecord (lockerRecord s .loadEmpty l Lifecycle.loadable.code 0)
      (putCtx l { c with life := .loadable, reason := .none, ret := .none } s)
  | .notOpened => reportTimeout l .rear .loadable (putCtx l { c with life := .loadable, reason := .none, ret := .none } s)

/-- The front relatch of a COLLECTING locker (R52). -/
def relatchCollecting (l : Locker) (out : RelatchOutcome) (s : State) : State :=
  let c := s.ctx l
  let counts := countsWord c
  match out with
  | .opened false => handRecord (lockerRecord s .collected l Lifecycle.vacant.code counts) (enterVacant l s)
  | .opened true =>
    match c.collExp with
    | none =>
      handRecord (lockerRecord s .notTaken l Lifecycle.holding.code counts)
        (putCtx l { c with life := .holding, reason := .none, ret := .none, collExp := none } s)
    | some e =>
      handRecord (lockerRecord s .notTaken l Lifecycle.expired.code counts)
        (enterHalting l { c with life := .expired, reason := e.reason, ret := .none, collExp := none } s)
  | .notOpened =>
    reportTimeout l .front .holding (putCtx l { c with life := .holding, reason := .none, ret := .none, collExp := none } s)

/-- A CLEARING locker goes back to its return state with its reason kept and an OPEN_TIMEOUT report (R41, R45, R57). -/
def returnFromClearing (l : Locker) (s : State) : State :=
  let c := s.ctx l
  let into := c.ret.life
  let c' := { c with life := into, ret := .none }
  reportTimeout l .rear into (if into = .holding then putCtx l c' s else enterHalting l c' s)

/-- The rear relatch of a CLEARING locker (R57). -/
def relatchClearing (l : Locker) (out : RelatchOutcome) (s : State) : State :=
  let c := s.ctx l
  match out with
  | .opened false => handRecord (lockerRecord s .cleared l c.ret.life.code 0) (enterVacant l s)
  | .opened true => quarantine l .notCleared s
  | .notOpened => returnFromClearing l s

/-- LTC hands LKE a relatch outcome for a hatch; each sequence takes the outcome of its own hatch, and other states take
none (R50, R52, R57, R61). -/
def relatchOutcome (l : Locker) (h : Hatch) (out : RelatchOutcome) (s : State) : State :=
  match (s.ctx l).life, h with
  | .loading, .rear => relatchLoading l out s
  | .collecting, .front => relatchCollecting l out s
  | .clearing, .rear => relatchClearing l out s
  | .loading, .front | .collecting, .rear | .clearing, .front => s
  | .vacant, _ | .assigned, _ | .loadable, _ | .holding, _ | .expired, _ | .quarantine, _ => s

/-! ### Release (R84, R85) -/

/-- LTC starts a release: HALT_WAIT with a halt where a channel is attached, else UNLATCH_PENDING with the release
command (R85). -/
def startRelease (l : Locker) (h : Hatch) (s : State) : State :=
  let r := s.latch l h
  if (s.attachedChan l).isSome then haltLocker l (putLatch l h (r.release .haltWait) s)
  else issueLatch l (h = .front) (h = .rear) (putLatch l h (r.release .unlatchPending) s)

/-- LKE asks LTC to release a hatch: started only while both latches are LATCHED, otherwise "hatch not opened" is handed
back at once (R84). -/
def requestRelease (l : Locker) (h : Hatch) (s : State) : State :=
  if s.bothLatched l then startRelease l h s else relatchOutcome l h .notOpened s

/-! ### Expiry (R53, R54, R158) -/

/-- The expiry that a locker's counts and class limits give, HOLD_LIMIT first (R53, R158). -/
def expiryOf (o : ClassOpts) (c : Context) : Option ExpiryReason :=
  if o.holdMin * 60 ≤ c.hold then some .holdLimit
  else if o.coldLimit ≠ 0 ∧ o.coldLimit ≤ c.cold then some .coldDwell
  else none

/-- An EXPIRED report: the reason, plus 256 when taken in collection, and the counts (R62). -/
def expiredRecord (s : State) (l : Locker) (e : ExpiryReason) (inCollection : Bool) : Record :=
  lockerRecord s .expired l (e.reason.code + if inCollection then 256 else 0) (countsWord (s.ctx l))

/-- The context of an EXPIRED locker (R41, R53). -/
def Context.expiredBy (c : Context) (e : ExpiryReason) : Context :=
  { c with life := .expired, reason := e.reason, ret := .none, collExp := none }

/-- A front latch with which a collection stands when an expiry is taken: OPEN, or RELATCH_PENDING after the hatch was
opened (R53). -/
def LatchRec.collectionStands (r : LatchRec) : Bool := r.st = .opened || (r.st = .relatchPending && r.kind = .opened)

/-- An expiry taken for a locker (R53). -/
def takeExpiry (l : Locker) (e : ExpiryReason) (s : State) : State :=
  let c := s.ctx l
  match c.life with
  | .holding => handRecord (expiredRecord s l e false) (enterHalting l (c.expiredBy e) s)
  | .collecting =>
    if (s.latch l .front).collectionStands then
      handRecord (expiredRecord s l e true) (putCtx l { c with collExp := some e } s)
    else withdraw l .expired (handRecord (expiredRecord s l e false) (enterHalting l (c.expiredBy e) s))
  | .vacant | .assigned | .loadable | .loading | .expired | .clearing | .quarantine => s

/-- A locker for which an expiry is judged: HOLDING, or COLLECTING with no collection expiry (R158). -/
def Context.judged (c : Context) : Bool := c.life = .holding || (c.life = .collecting && c.collExp.isNone)

/-- LKE judges expiry for a locker and takes it (R158). -/
def judgeExpiry (l : Locker) (s : State) : State :=
  if (s.ctx l).judged then
    match expiryOf (s.opts l) (s.ctx l) with
    | some e => takeExpiry l e s
    | none => s
  else s

/-- A late opening reaches LKE: in EXPIRED the front hatch's is a withdrawal overtaken, and the locker is COLLECTING
again; in every other state it changes nothing (R54, R93). -/
def lateOpening (l : Locker) (h : Hatch) (s : State) : State :=
  let c := s.ctx l
  match c.life, h with
  | .expired, .front =>
    putCtx l { c with life := .collecting, ret := .holding, collExp := c.reason.expiry, reason := .none } s
  | .expired, .rear => s
  | .vacant, _ | .assigned, _ | .loadable, _ | .loading, _ | .holding, _ | .collecting, _ | .clearing, _
  | .quarantine, _ => s

/-- LKE takes a valid sample: an ASSIGNED locker at or above the load threshold becomes LOADABLE with a READY report
(R47). -/
def lkeSample (l : Locker) (t : Int) (s : State) : State :=
  let c := s.ctx l
  if c.life = .assigned ∧ (s.opts l).load ≤ t then
    handRecord (lockerRecord s .ready l c.cls.val (BitVec.ofInt 32 t)) (putCtx l { c with life := .loadable, reason := .none } s)
  else s

end Sys2Proof.Machine
end

