-- ==== Sys2Proof/Machine/Latches.lean ====
section
/-! DEFINITION. The latch controller's events: a channel freed, an acknowledgement, a fault, a hatch reading, a seconds
event (R86 to R98). -/

namespace Sys2Proof.Machine

/-- HSC tells LTC that a locker's channel has become FREE: a latch in HALT_WAIT has its release command issued and goes to
UNLATCH_PENDING; in any other state nothing (R86). -/
def freeNotice (l : Locker) (s : State) (h : Hatch) : State :=
  let r := s.latch l h
  if r.st = .haltWait then issueLatch l (h = .front) (h = .rear) (putLatch l h { r with st := .unlatchPending } s) else s

def ltcFree (l : Locker) (s : State) : State := freeNotice l (freeNotice l s .front) .rear

/-- The acknowledgement of the current latch command, taken by one latch (R87, R91, R99). -/
def ackHatch (l : Locker) (s : State) (h : Hatch) : State :=
  let r := s.latch l h
  match r.st with
  | .unlatchPending => putLatch l h { r with st := .openWait, openWait := s.copies.openWait } s
  | .relatchPending =>
    let s := putLatch l h (r.rest .latched) s
    match r.kind with
    | .opened => relatchOutcome l h (.opened r.tray) s
    | .notOpened => relatchOutcome l h .notOpened s
    | .restore | .none => s
  | .latched | .haltWait | .openWait | .opened | .failed => s

/-- AHU tells LTC that the scanner has acknowledged a locker's latch command (R87). -/
def ltcAck (l : Locker) (s : State) : State := ackHatch l (ackHatch l s .front) .rear

/-- A latch that has a command outstanding goes to FAILED (R98, R99). -/
def failHatch (l : Locker) (s : State) (h : Hatch) : State :=
  let r := s.latch l h
  match r.st with
  | .unlatchPending | .opened | .relatchPending => putLatch l h (r.rest .failed) s
  | .latched | .haltWait | .openWait | .failed => s

/-- AHU tells LTC that a locker's latch command has failed: FAILED, then the cause LATCH_ACTUATOR (R98, R99). -/
def ltcFault (l : Locker) (s : State) : State :=
  quarantineCause l .latchActuator (failHatch l (failHatch l s .front) .rear)

/-! ### Readings (R88 to R95) -/

/-- A forced hatch: the FORCED report, which names the latch state it was seen in, then the cause FORCED (R95, R100). -/
def forcedHatch (l : Locker) (h : Hatch) (was : LatchState) (s : State) : State :=
  quarantineCause l .forced (handRecord (lockerRecord s .forced l was.code (BitVec.ofNat 32 (hatchCode h))) s)

/-- A hatch seen open, by the state of its latch (R88). -/
def seenOpen (l : Locker) (h : Hatch) (s : State) : State :=
  let r := s.latch l h
  let opened := r.openTo s.copies.hatchHeld
  match r.st with
  | .latched => if r.note then s else forcedHatch l h .latched (putLatch l h { r with note := true } s)
  | .haltWait => forcedHatch l h .haltWait (putLatch l h opened s)
  | .unlatchPending => forcedHatch l h .unlatchPending (putLatch l h opened s)
  | .openWait => putLatch l h opened s
  | .relatchPending =>
    match r.kind with
    | .opened => putLatch l h opened s
    | .notOpened => lateOpening l h (putLatch l h opened s)
    | .restore | .none => s
  | .opened | .failed => s

/-- A hatch seen closed, by the state of its latch (R88, R90). -/
def seenClosed (l : Locker) (h : Hatch) (tray : Bool) (s : State) : State :=
  let r := s.latch l h
  match r.st with
  | .latched => putLatch l h { r with note := false } s
  | .opened => issueLatch l false false (putLatch l h (r.relatch .opened tray) s)
  | .haltWait | .unlatchPending | .openWait | .relatchPending | .failed => s

/-- One hatch of a reading. -/
def readHatch (l : Locker) (h : Hatch) (closed tray : Bool) (s : State) : State :=
  if closed then seenClosed l h tray s else seenOpen l h s

/-- SMP hands LTC a poll reading: the front hatch first, then the rear (R88). -/
def ltcReading (l : Locker) (x : Sense) (s : State) : State :=
  readHatch l .rear x.rearClosed x.tray (readHatch l .front x.frontClosed x.tray s)

/-! ### Times (R89, R92) -/

/-- The open-wait of a latch expires: RELATCH_PENDING with relatch kind NOT_OPENED, and a latch command (R92). -/
def expireOpenWait (l : Locker) (h : Hatch) (s : State) : State :=
  issueLatch l false false (putLatch l h ((s.latch l h).relatch .notOpened false) s)

/-- The hatch-held remaining of an OPEN latch has reached 0: one HATCH_HELD report; the latch stays OPEN (R89, R100). -/
def expireHatchHeld (l : Locker) (h : Hatch) (s : State) : State :=
  handRecord (lockerRecord s .hatchHeld l (s.ctx l).life.code (BitVec.ofNat 32 (hatchCode h)))
    (putLatch l h { s.latch l h with hatchHeld := 0 } s)

/-- The seconds event at one latch (R92). -/
def secondHatch (l : Locker) (s : State) (h : Hatch) : State :=
  let r := s.latch l h
  match r.st with
  | .openWait => if r.openWait ≤ 1 then expireOpenWait l h s else putLatch l h { r with openWait := r.openWait - 1 } s
  | .opened =>
    if r.hatchHeld = 0 then s
    else if r.hatchHeld = 1 then expireHatchHeld l h s
    else putLatch l h { r with hatchHeld := r.hatchHeld - 1 } s
  | .latched | .haltWait | .unlatchPending | .relatchPending | .failed => s

/-- The seconds event at a locker's latches, front before rear (R92). -/
def secondLatches (s : State) (l : Locker) : State := secondHatch l (secondHatch l s .front) .rear

/-- The seconds event at LTC: the lockers in ascending index, each whole before the next (R92). -/
def ltcSeconds (s : State) : State := s.lockers.foldl secondLatches s

end Sys2Proof.Machine
end

