-- ==== Sys2Proof/Machine/Handshake.lean ====
section
/-! DEFINITION. What a probe's answer does on a path, and what AHU hands to the owners of the paths (R104, R121, R122,
R133 to R139). -/

namespace Sys2Proof.Machine

/-- HSC takes an acknowledged heat command by the channel attached to the locker (R104). -/
def hscAck (l : Locker) (s : State) : State :=
  match s.attachedChan l with
  | some i =>
    match (s.chan i).st with
    | .onPending _ => putChan i { s.chan i with st := .on l } s
    | .offPending _ => lateGrant (ltcFree l (putChan i { s.chan i with st := .free } s))
    | .free | .on _ | .lost => s
  | none => s

/-- HSC takes a failed on command: the channel goes to OFF_PENDING with its off command, then the cause HEAT_ACTUATOR
(R121). -/
def hscOnFailed (l : Locker) (s : State) : State :=
  match s.attachedChan l with
  | some i => quarantineCause l .heatActuator (turnOff i s)
  | none => s

/-- HSC takes a failed off command: the channel is LOST, the loss is counted and reported, then the cause CHANNEL_LOST
(R122, R123, R125, R179). -/
def hscOffFailed (l : Locker) (s : State) : State :=
  match s.attachedChan l with
  | some i =>
    let rep := lockerRecord s .channelLost l i.val (BitVec.ofNat 32 (s.ctx l).life.code)
    let s := putChan i { s.chan i with st := .lost } s
    let s := { s with rpw := { s.rpw with lostChannels := s.rpw.lostChannels + 1 } }
    quarantineCause l .channelLost (handRecord rep s)
  | none => s

/-- A heat command has failed: in OPERATING HSC takes it by the failed image, in RESTORING LKE takes HEAT_ACTUATOR
(R139). -/
def heatFailed (l : Locker) (s : State) : State :=
  if s.mode = .restoring then quarantineCause l .heatActuator s
  else if (s.paths l).heatOn then hscOnFailed l s
  else hscOffFailed l s

/-- AHU hands a path's owner an acknowledgement (R139). -/
def pathAcked (l : Locker) (k : PathKind) (s : State) : State :=
  match k with
  | .heat => hscAck l s
  | .latch => ltcAck l s

/-- AHU hands a path's owner a failure (R139). -/
def pathFailed (l : Locker) (k : PathKind) (s : State) : State :=
  match k with
  | .heat => heatFailed l s
  | .latch => ltcFault l s

/-- A path's record changed. -/
def putPath (l : Locker) (k : PathKind) (r : PathRec) (s : State) : State := putPaths l ((s.paths l).set k r) s

/-- The command has failed: IDLE, probe, NAK and final-attempt counts 0, the error count at its limit, the owner told
(R137). -/
def commandFailed (l : Locker) (k : PathKind) (r : PathRec) (s : State) : State :=
  pathFailed l k (putPath l k { r with st := .idle, probes := 0, naks := 0, fin := 0, errs := Config.errorLimit } s)

/-- The command is re-issued: the image stands, the cell's mark is set, the owner is not told (R137). -/
def commandReissued (l : Locker) (k : PathKind) (r : PathRec) (s : State) : State :=
  putMark l (pathMark k) true (putPath l k r.reissue s)

/-- An error on a path, by its error count: below the limit it gains 1, at the limit the final-attempt count gains 1;
the command fails when that count reaches its limit and is re-issued otherwise (R137, R138). -/
def pathError (l : Locker) (k : PathKind) (r : PathRec) (s : State) : State :=
  if r.errs < Config.errorLimit then
    if r.errs + 1 = Config.errorLimit then commandFailed l k { r with errs := r.errs + 1 } s
    else commandReissued l k { r with errs := r.errs + 1 } s
  else if Config.errorLimit ≤ r.fin + 1 then commandFailed l k r s
  else commandReissued l k { r with fin := r.fin + 1 } s

/-- An ACK: IDLE, probe, NAK and final-attempt counts 0; an error count below the limit becomes 0; the owner is told
(R134). -/
def pathAck (l : Locker) (k : PathKind) (r : PathRec) (s : State) : State :=
  let errs := if r.errs < Config.errorLimit then 0 else r.errs
  pathAcked l k (putPath l k { r with st := .idle, probes := 0, naks := 0, fin := 0, errs := errs } s)

/-- A NAK: the NAK count gains 1 and the probe count becomes 0; the 32nd is an error (R135). -/
def pathNak (l : Locker) (k : PathKind) (r : PathRec) (s : State) : State :=
  let r := { r with naks := r.naks + 1, probes := 0 }
  if Config.nakLimit ≤ r.naks then pathError l k r s else putPath l k r s

/-- A FAULT: the error count goes to its limit and the command has failed (R137). -/
def pathFault (l : Locker) (k : PathKind) (r : PathRec) (s : State) : State := commandFailed l k r s

/-- A probe with no answer: the probe count gains 1; at the ack-limit the command has timed out, which is an error
(R136). -/
def pathNoAnswer (l : Locker) (k : PathKind) (r : PathRec) (s : State) : State :=
  let r := { r with probes := r.probes + 1 }
  if s.copies.ackLimit ≤ r.probes then pathError l k r s else putPath l k r s

/-- A probe's result for one path of a locker, if it is PROBING; `word` is none for a read with a parity fault (R133). -/
def judgePath (l : Locker) (word : Option Word) (s : State) (k : PathKind) : State :=
  let r := (s.paths l).get k
  if r.st = .probing then
    match word with
    | none => pathNoAnswer l k r s
    | some w =>
      if ackSeq k w = r.seq then
        match ackCode k w with
        | .ack => pathAck l k r s
        | .nak => pathNak l k r s
        | .fault => pathFault l k r s
        | .none => pathNoAnswer l k r s
      else pathNoAnswer l k r s
  else s

/-- A probe completes: the heat path first, then the latch path (R133; log 23). -/
def judgeProbe (l : Locker) (word : Option Word) (s : State) : State :=
  judgePath l word (judgePath l word s .heat) .latch

end Sys2Proof.Machine
end

