-- ==== Sys2Proof/Machine/Sampling.lean ====
section
/-! DEFINITION. The sampler: sweeps, fast polls, its read request, and the steps of a poll result (R146 to R155). -/

namespace Sys2Proof.Machine

/-! ### Sweeps and fast polls (R147 to R149) -/

def State.isVacant (s : State) (l : Locker) : Bool := (s.ctx l).life = .vacant

/-- A sweep starts: its list holds every locker below the locker count that is not VACANT (R147). -/
def startSweep (s : State) : State :=
  { s with smp := { s.smp with sweep := some (s.lockers.filter fun l => !s.isVacant l) } }

/-- A frame start at SMP: a sweep starts, or is owed while one runs (R147). -/
def smpFrameStart (s : State) : State :=
  if s.smp.sweep.isSome then { s with smp := { s.smp with owed := true } } else startSweep s

/-- The probe-interval event at SMP: every member of the fast-poll set is due (R148). -/
def smpInterval (s : State) : State :=
  { s with
    smp := { s.smp with fastDue := Vector.ofFn fun l : Fin 64 => s.smp.fastDue[l.val] || s.smp.fastPoll[l.val] } }

/-- The sweep's next turn: VACANT lockers are passed over; a sweep with nothing left ends, and an owed one starts at
once (R147). Turns come only where SMP has no read standing or in flight, which is the model's choice (log 31). -/
def sweepAdvance (s : State) : State :=
  match s.smp.sweep with
  | none => s
  | some ls =>
    match ls.dropWhile s.isVacant with
    | l :: rest => { s with smp := { s.smp with sweep := some (l :: rest) } }
    | [] =>
      let s := { s with smp := { s.smp with sweep := none } }
      if s.smp.owed then
        let s := startSweep { s with smp := { s.smp with owed := false } }
        if s.smp.sweep = some [] then { s with smp := { s.smp with sweep := none } } else s
      else s

/-- The locker that the running sweep reads next. -/
def State.sweepHead (s : State) : Option Locker := s.smp.sweep.bind List.head?

/-- The locker that a fast poll reads next (R148). -/
def State.fastHead (s : State) : Option Locker :=
  searchFrom s.lockers s.smp.fastPos.val fun l => s.smp.fastDue[l.val]

/-- SMP raises a sweep read; the toggle then names fast polls (R149). -/
def raiseFrame (l : Locker) (s : State) : State :=
  { s with smp := { s.smp with req := some (.frame, l), toggle := .fast } }

/-- SMP raises a fast poll, with the fast position after it; the toggle then names sweep reads (R148, R149). -/
def raiseFast (l : Locker) (s : State) : State :=
  { s with
    smp := { s.smp with req := some (.fast, l), toggle := .frame, fastPos := locSucc l s.copies.lockerCount } }

/-- SMP chooses its next read: the kind the toggle names where both have one (R149). -/
def smpPick (s : State) : State :=
  match s.sweepHead, s.fastHead with
  | none, none => s
  | some l, none => raiseFrame l s
  | none, some l => raiseFast l s
  | some f, some q =>
    match s.smp.toggle with
    | .frame => raiseFrame f s
    | .fast => raiseFast q s

/-- SMP withdraws a fast poll whose locker has left the fast-poll set (R148), and a frame poll whose locker has left the
sweep's list by entering VACANT (R17, R147; log 22). -/
def smpWithdraw (s : State) : State :=
  match s.smp.req with
  | some (.fast, l) => if s.smp.fastPoll[l.val] then s else { s with smp := { s.smp with req := none } }
  | some (.frame, l) => if s.smp.sweep.any (·.contains l) then s else { s with smp := { s.smp with req := none } }
  | none => s

/-- A poll is on the M-port. -/
def State.pollFlying (s : State) : Bool :=
  match s.mpi.port with
  | some ⟨.poll _ _, _⟩ => true
  | _ => false

/-- SMP's request after an event, in OPERATING (R149). The sweep advances only where SMP has no read standing or in flight
(log 31). -/
def smpSettle (s : State) : State :=
  let s := smpWithdraw s
  if s.smp.req.isNone && !s.pollFlying then smpPick (sweepAdvance s) else s

/-! ### The steps of a poll result (R150) -/

/-- A plausible temperature (R151). -/
def plausible (t : Int) : Bool := Config.tempMin ≤ t && t ≤ Config.tempMax

/-- Steps 1 and 2 for an implausible result: a frame poll adds 1, and at 3 the cause IMPLAUSIBLE is handed; the count
stays at 3 (R151). -/
def implausibleResult (k : PollKind) (l : Locker) (s : State) : State :=
  match k with
  | .fast => s
  | .frame =>
    let r := s.sampler l
    let n := min Config.implausibleLimit (r.implausible + 1)
    let s := putSampler l { r with implausible := n } s
    if n = Config.implausibleLimit then quarantineCause l .implausible s else s

/-- Step 2 for a plausible result: it becomes the latest valid sample; a frame poll sets the implausible count to 0
(R151). -/
def plausibleResult (k : PollKind) (l : Locker) (t : Int) (s : State) : State :=
  let r := s.sampler l
  putSampler l { r with latest := some t, implausible := if k = .frame then 0 else r.implausible } s

/-- Step 3, on frame polls: the sample sequence against the last, and the cause STALE at the stale limit; the count
stays there (R152). -/
def staleStep (k : PollKind) (l : Locker) (seq : BitVec 8) (s : State) : State :=
  match k with
  | .fast => s
  | .frame =>
    let r := s.sampler l
    if r.lastSeq = some seq then
      let n := min s.copies.staleLimit (r.stale + 1)
      let s := putSampler l { r with stale := n } s
      if n = s.copies.staleLimit then quarantineCause l .stale s else s
    else putSampler l { r with lastSeq := some seq, stale := 0 } s

/-- Step 4: the over-temperature limit, given in °C and compared as half-degrees (R150, R153). -/
def overtempStep (l : Locker) (t : Int) (s : State) : State :=
  if 2 * (s.copies.overtempC : Int) ≤ t then quarantineCause l .overtemp s else s

/-- Step 5: the class hold upper limit asks for a halt (R154). -/
def upperStep (l : Locker) (t : Int) (s : State) : State := if (s.opts l).upper ≤ t then haltLocker l s else s

/-- Step 6: the sample to HSC, then to LKE (R155). -/
def sampleStep (l : Locker) (t : Int) (s : State) : State := lkeSample l t (hscSample l t s)

/-- Steps 4 to 6, for valid results (R150). -/
def validSteps (l : Locker) (t : Int) (s : State) : State := sampleStep l t (upperStep l t (overtempStep l t s))

/-- A poll result with its fields, or none for a parity fault, taken step by step; a locker that is VACANT at the
completion has it discarded whole (R149, R150). -/
def pollResult (k : PollKind) (l : Locker) (word : Option Word) (s : State) : State :=
  if s.isVacant l then s
  else
    match word with
    | none => implausibleResult k l s
    | some w =>
      let x := senseOf w
      if plausible x.temp then
        ltcReading l x (validSteps l x.temp (staleStep k l x.seq (plausibleResult k l x.temp s)))
      else ltcReading l x (staleStep k l x.seq (implausibleResult k l s))

end Sys2Proof.Machine
end

