-- ==== Sys2Proof/Machine/Timing.lean ====
section
/-! DEFINITION. The timebase (R144) and the seconds event at the locker engine: hold timing, expiry and lockouts (R76,
R157, R158). -/

namespace Sys2Proof.Machine

/-! ### The timebase (R144; log 17) -/

/-- A running phase advanced by some ms, at most to its period. -/
def phaseOn (period d : Nat) (p : Option Nat) : Option Nat := p.map fun e => min period (e + d)

/-- A probe-interval event: its phase begins again, and the others advance by what was left of it. -/
def Tmb.probeEvent (t : Tmb) (frameMs : Nat) : Tmb :=
  let d := Config.probeIntervalMs - t.probe.getD 0
  { t with probe := some 0, frame := phaseOn frameMs d t.frame, second := phaseOn Config.secondMs d t.second }

/-- A frame start: its phase begins again, and the others advance by what was left of it. -/
def Tmb.frameEvent (t : Tmb) (frameMs : Nat) : Tmb :=
  let d := frameMs - t.frame.getD 0
  { t with
    frame := some 0, probe := phaseOn Config.probeIntervalMs d t.probe, second := phaseOn Config.secondMs d t.second }

/-- A seconds event: the counter gains 1, wrapping; its phase begins again, and the others advance by what was left of it
(R144). -/
def Tmb.secondEvent (t : Tmb) (frameMs : Nat) : Tmb :=
  let d := Config.secondMs - t.second.getD 0
  { t with
    seconds := t.seconds + 1, second := some 0, probe := phaseOn Config.probeIntervalMs d t.probe,
    frame := phaseOn frameMs d t.frame }

/-! ### Hold timing (R156, R157) -/

/-- A count that gains 1 and saturates (R156). -/
def countUp (n : Nat) : Nat := min Config.countMax (n + 1)

/-- The latest valid sample stands below the hold lower limit of the locker's class (R157). -/
def State.isCold (s : State) (l : Locker) : Bool :=
  match (s.sampler l).latest with
  | some t => t < (s.opts l).lower
  | none => false

/-- A locker that the seconds event counts: HOLDING or COLLECTING (R157). -/
def Context.counted (c : Context) : Bool := c.life = .holding || c.life = .collecting

/-- The counting of one locker (R157). -/
def countLocker (l : Locker) (s : State) : State :=
  let c := s.ctx l
  if c.counted then putCtx l { c with hold := countUp c.hold, cold := if s.isCold l then countUp c.cold else c.cold } s
  else s

/-! ### Lockouts (R76) -/

/-- The end of a lockout: flag no, attempts 0, LOCKOUT_END report with the lifecycle state as it stands (R76, R78). -/
def endLockout (l : Locker) (s : State) : State :=
  let c := s.ctx l
  handRecord (lockerRecord s .lockoutEnd l c.life.code 0)
    (putCtx l { c with lockedOut := false, lockoutLeft := 0, attempts := 0 } s)

/-- The lockout count of one locker at a seconds event (R76). -/
def countLockout (l : Locker) (s : State) : State :=
  let c := s.ctx l
  if c.lockedOut then
    if c.lockoutLeft ≤ 1 then endLockout l s else putCtx l { c with lockoutLeft := c.lockoutLeft - 1 } s
  else s

/-- The seconds event at one locker: counting and expiry, then the lockout (R157, R158, R78). -/
def secondLocker (s : State) (l : Locker) : State := countLockout l (judgeExpiry l (countLocker l s))

/-- The seconds event at LKE: the lockers in ascending index, each whole before the next (R157). -/
def lkeSeconds (s : State) : State := s.lockers.foldl secondLocker s

end Sys2Proof.Machine
end

