-- ==== Sys2Proof/Machine/Supply.lean ====
section
/-! DEFINITION. The supply monitor: points, dwell timers, crossings and transitions (R162 to R168). FEED and the points
are in hundredths of a percent of nominal, dwells in ms (log 18). -/

namespace Sys2Proof.Machine

/-- The conditions of the four timers (R163, R164): FEED below a trip point, FEED above a release point. -/
def State.belowShed (s : State) : Bool := s.feed < (Config.shedPoints s.copies.shedCode).1
def State.belowCut (s : State) : Bool := s.feed < (Config.cutPoints s.copies.cutCode).1
def State.aboveShed (s : State) : Bool := (Config.shedPoints s.copies.shedCode).2 < s.feed
def State.aboveCut (s : State) : Bool := (Config.cutPoints s.copies.cutCode).2 < s.feed

/-- A timer whose state is named: it runs on, or starts at 0, while its condition holds, and is clear otherwise (R164,
R166). -/
def runTimer (named cond : Bool) (t : Option Nat) : Option Nat := if named && cond then some (t.getD 0) else none

/-- The timers set for a supply state by the conditions that hold (R164, R166). -/
def setTimers (st : Supply) (s : State) : State :=
  { s with
    sup := {
      st := st,
      shedTrip := runTimer (st = .normal) s.belowShed s.sup.shedTrip,
      cutTrip := runTimer (st = .normal || st = .shed) s.belowCut s.sup.cutTrip,
      shedRelease := runTimer (st = .shed) s.aboveShed s.sup.shedRelease,
      cutRelease := runTimer (st = .cut) s.aboveCut s.sup.cutRelease } }

/-- Running timers advanced by some ms, each at most to its dwell (R162, R164; log 18). -/
def Sup.advance (u : Sup) (d : Nat) : Sup :=
  { u with
    shedTrip := phaseOn Config.tripDwellMs d u.shedTrip, cutTrip := phaseOn Config.tripDwellMs d u.cutTrip,
    shedRelease := phaseOn Config.releaseDwellMs d u.shedRelease,
    cutRelease := phaseOn Config.releaseDwellMs d u.cutRelease }

/-- SUP judges FEED in RESTORING and OPERATING (R162, R169). -/
def State.supplyJudged (s : State) : Bool := s.mode = .restoring || s.mode = .operating

/-- FEED at a new level, some ms after SUP's last event: the timers run until then, and each then starts, runs on or is
cleared by its condition (R164). -/
def crossFeed (feed elapsed : Nat) (s : State) : State :=
  if s.supplyJudged then setTimers s.sup.st { s with feed := feed, sup := s.sup.advance elapsed }
  else { s with feed := feed }

/-- The capacity of a supply state (R165). -/
def State.capacityOf (s : State) : Supply → Nat
  | .normal => s.copies.cmax
  | .shed => s.copies.cshed
  | .cut => 0

/-- A SUPPLY_STATE report: the state entered; the capacity in 15:0 and the state left in 23:16 (R168). -/
def supplyRecord (s : State) (left entered : Supply) : Record :=
  plainRecord s .supplyState entered.code (fld 0 16 (s.capacityOf entered) ||| fld 16 8 left.code)

/-- A transition of the supply state, taken when a timer completes after some more ms: the timers for the state entered,
the capacity to HSC, the report to RPW (R165 to R167). -/
def supplyTo (entered : Supply) (d : Nat) (s : State) : State :=
  let left := s.sup.st
  let s := setTimers entered { s with sup := s.sup.advance d }
  handRecord (supplyRecord s left entered) (setCapacity (s.capacityOf entered) s)

/-- Both trip timers of NORMAL complete together, or the cut trip alone is left to complete (R165). -/
def Sup.cutFirst (u : Sup) : Bool :=
  match u.shedTrip, u.cutTrip with
  | some e, some c => e ≤ c
  | none, some _ => true
  | _, none => false

end Sys2Proof.Machine
end

