-- ==== Sys2Proof/Machine/Commands.lean ====
section
/-! DEFINITION. The command evaluator: the outcome of a command by tests in a fixed order, and what an evaluation does
(R63 to R78). -/

namespace Sys2Proof.Machine

/-- A code matches an enabled entry of the staff table: equal in every bit where the entry's mask holds 1 (R71). -/
def StaffEntry.matchesCode (e : StaffEntry) (code : Word) : Bool := e.enabled && (code ^^^ e.code) &&& e.mask = 0

/-- A code matches the staff table (R71). -/
def State.staffMatch (s : State) (code : Word) : Bool := s.copies.staff.toList.any (·.matchesCode code)

/-- ASSIGN's tests (R66). -/
def testAssign (s : State) (l : Locker) (cls : Fin 8) : CmdOutcome :=
  let c := s.ctx l
  if c.life ≠ .vacant then .state
  else if (s.copies.classes[cls.val]).holdMin = 0 then .cls
  else if c.presCode = 0 then .code
  else .accepted

/-- CANCEL's test (R67). -/
def testCancel (c : Context) : CmdOutcome :=
  match c.life with
  | .assigned | .loadable => .accepted
  | .vacant | .loading | .holding | .collecting | .expired | .clearing | .quarantine => .state

/-- LOAD's test (R68). -/
def testLoad (c : Context) : CmdOutcome := if c.life = .loadable then .accepted else .state

/-- COLLECT's tests (R69). -/
def testCollect (s : State) (l : Locker) : CmdOutcome :=
  let c := s.ctx l
  if c.life = .expired then .expired
  else if c.life ≠ .holding then .state
  else if s.staffMatch c.presCode then .accepted
  else if c.lockedOut then .locked
  else if c.presCode ≠ c.customer then .code
  else .accepted

/-- CLEAR's tests (R70). -/
def testClear (s : State) (l : Locker) : CmdOutcome :=
  let c := s.ctx l
  if ¬ (c.life = .holding ∨ c.life = .expired ∨ c.life = .quarantine) then .state
  else if !s.staffMatch c.presCode then .code
  else if !s.bothLatched l then .state
  else .accepted

/-- A locker whose sequence is running: LOADING, COLLECTING or CLEARING (R64). -/
def Lifecycle.inSequence : Lifecycle → Bool
  | .loading | .collecting | .clearing => true
  | .vacant | .assigned | .loadable | .holding | .expired | .quarantine => false

/-- The outcome of a command word for a locker (R64). -/
def evaluate (s : State) (l : Locker) (w : Word) : CmdOutcome :=
  match CmdKind.ofCode (cmdKind w) with
  | none => .unknown
  | some k =>
    if (s.ctx l).life.inSequence then .busy
    else
      match k with
      | .assign => testAssign s l (cmdClass w).toFin
      | .cancel => testCancel (s.ctx l)
      | .load => testLoad (s.ctx l)
      | .collect => testCollect s l
      | .clear => testClear s l

/-- ASSIGN accepted: ASSIGNED, with the presented code, the presented order and the command's class (R46, R66). -/
def acceptAssign (l : Locker) (cls : Fin 8) (s : State) : State :=
  let c := s.ctx l
  putCtx l { c with life := .assigned, reason := .none, customer := c.presCode, order := c.presOrder, cls := cls } s

/-- LOAD accepted: LOADING with return state LOADABLE, entry actions, the rear release (R49). -/
def acceptLoad (l : Locker) (s : State) : State :=
  requestRelease l .rear (enterHalting l { s.ctx l with life := .loading, reason := .none, ret := .loadable } s)

/-- COLLECT accepted: COLLECTING with return state HOLDING, the front release. A customer match sets attempts to 0; a
staff match leaves attempts and lockout as they stand (R51, R69, R73, R74). -/
def acceptCollect (l : Locker) (s : State) : State :=
  let c := s.ctx l
  let attempts := if s.staffMatch c.presCode then c.attempts else 0
  requestRelease l .front
    (putCtx l { c with life := .collecting, reason := .none, ret := .holding, collExp := none, attempts := attempts } s)

/-- The return state that CLEAR records (R56). -/
def clearReturn : Lifecycle → ReturnState
  | .holding => .holding
  | .expired => .expired
  | .quarantine => .quarantine
  | .vacant | .assigned | .loadable | .loading | .collecting | .clearing => .none

/-- CLEAR accepted: CLEARING with the state left as return state and the reason kept, entry actions, the rear release
(R41, R56). -/
def acceptClear (l : Locker) (s : State) : State :=
  let c := s.ctx l
  requestRelease l .rear (enterHalting l { c with life := .clearing, ret := clearReturn c.life } s)

/-- A COLLECT refused CODE: attempts gain 1; at the lockout-attempt setting a lockout starts with its report (R74, R75,
R78). -/
def countAttempt (l : Locker) (s : State) : State :=
  let c := s.ctx l
  let n := c.attempts + 1
  if n = s.copies.lockoutAttempts then
    let len := s.copies.lockoutMin * 60
    handRecord (lockerRecord s .lockout l n (BitVec.ofNat 32 len))
      (putCtx l { c with attempts := n, lockedOut := true, lockoutLeft := len } s)
  else putCtx l { c with attempts := n } s

/-- What an evaluation's outcome does to the locker, before the common effects (R65 to R70, R74). -/
def applyOutcome (l : Locker) (w : Word) (out : CmdOutcome) (s : State) : State :=
  match CmdKind.ofCode (cmdKind w), out with
  | some .assign, .accepted => acceptAssign l (cmdClass w).toFin s
  | some .cancel, .accepted => enterVacant l s
  | some .load, .accepted => acceptLoad l s
  | some .collect, .accepted => acceptCollect l s
  | some .clear, .accepted => acceptClear l s
  | some .collect, .code => countAttempt l s
  | _, _ => s

/-- The common effects: the presented code is 0 and the CODE-zero mark is set (R20, R65). -/
def commonEffects (l : Locker) (s : State) : State :=
  putMark l .codeZero true { s with lke := s.lke.set l.val { s.ctx l with presCode := 0 } }

/-- An evaluation, taken whole (R63, R65). -/
def evaluation (l : Locker) (w : Word) (s : State) : State := commonEffects l (applyOutcome l w (evaluate s l w) s)

end Sys2Proof.Machine
end

