-- ==== Sys2Proof/Machine/BusPassage.lean ====
section
/-! DEFINITION. The bus passage: window decode, refusal causes, holds, what becomes of a transaction in each mode (R1 to
R15). -/

namespace Sys2Proof.Machine

/-! ### Window decode (R4) -/

/-- The class of a beat (R4): a cell of a record of the locker table window, a control word of the ring, the ring's
record area, a guard window, passthrough. -/
inductive BeatClass where
  | ltw (rec : Locker) (cell : Fin 16)
  | ringCtl (word : Fin 4)
  | ringArea
  | guard
  | pass
deriving DecidableEq, Repr

/-- A word address lies in a guard window: enabled, and agreeing with the base in every bit of the mask, bits 1 and 0
apart (R4). -/
def GuardWindow.contains (g : GuardWindow) (a : Addr) : Bool := g.enabled && (wordAddr a ^^^ g.base) &&& (wordAddr g.mask) = 0

/-- The class of a beat by its address: the locker table window, the ring window, a guard window, passthrough, in that
order (R4). -/
def classify (c : Copies) (a : Addr) : BeatClass :=
  let w := (wordAddr a).toNat
  let lt := c.ltBase.toNat
  let rg := c.rgBase.toNat
  if lt ≤ w ∧ w < lt + ltwBytes then .ltw (Fin.ofNat 64 ((w - lt) / 64)) (Fin.ofNat 16 ((w - lt) % 64 / 4))
  else if rg ≤ w ∧ w < rg + rgwBytes c.ringSize then
    if w - rg < 16 then .ringCtl (Fin.ofNat 4 ((w - rg) / 4)) else .ringArea
  else if c.g0.contains a || c.g1.contains a then .guard
  else .pass

/-! ### Causes (R5 to R8, R14, R15) -/

/-- The refusal causes of writes, with their codes (section 1.3). PARITY, 6, is no cause of a write. -/
inductive Cause where
  | guard | owner | torn | range | notReady
deriving DecidableEq, Repr

def Cause.code : Cause → Nat
  | .guard => 1 | .owner => 2 | .torn => 3 | .range => 4 | .notReady => 5

/-- The code of PARITY in a report's detail (section 1.3). -/
def parityCode : Nat := 6

/-- A single full write (R1). -/
def Txn.singleFull (t : Txn) : Bool := t.len = 1 && t.lanes = 0xF

/-- The cause of a beat of class LTW (R6). -/
def causeLtw (c : Copies) (t : Txn) (rec : Locker) (cell : Fin 16) : Option Cause :=
  if c.lockerCount ≤ rec.val then some .range
  else if cell.val ≤ 2 then if t.singleFull then none else some .torn
  else if cell.val ≤ 8 then some .owner
  else none

/-- An index lies in the unread span: at or after READ and at or before WRITE, modulo R (R7). -/
def inSpan (size read write n : Nat) : Bool := n < size && (n + size - read) % size ≤ (write + size - read) % size

/-- The cause of a beat on a control word of the ring (R7). -/
def causeRingCtl (s : State) (t : Txn) (word : Fin 4) : Option Cause :=
  match word with
  | 0 => some .owner
  | 1 =>
    if !t.singleFull then some .torn
    else if inSpan s.copies.ringSize s.rpw.read s.rpw.write (t.data.headD 0).toNat then none
    else some .range
  | 2 | 3 => if t.singleFull then none else some .torn

/-- The cause that a write beat shows in OPERATING (R6 to R8). -/
def causeOperating (s : State) (t : Txn) (a : Addr) : Option Cause :=
  match classify s.copies a with
  | .ltw rec cell => causeLtw s.copies t rec cell
  | .ringCtl word => causeRingCtl s t word
  | .ringArea => some .owner
  | .guard => some .guard
  | .pass => none

/-- The cause that a write beat shows in RESTORING (R15). -/
def causeRestoring (s : State) (a : Addr) : Option Cause :=
  match classify s.copies a with
  | .ltw _ _ | .ringCtl _ | .ringArea => some .notReady
  | .guard => some .guard
  | .pass => none

/-- The cause that a write beat shows, by the mode (R14). In reset and during validation no write is checked. -/
def causeOf (s : State) (t : Txn) (a : Addr) : Option Cause :=
  match s.mode with
  | .operating => causeOperating s t a
  | .restoring => causeRestoring s a
  | .unconfigured => some .notReady
  | .inReset | .validating => none

/-- The order in which causes govern (R5). -/
def causeOrder : List Cause := [.notReady, .range, .owner, .torn, .guard]

/-- The governing cause and the address of the governing beat (R5). -/
def governing (s : State) (t : Txn) : Option (Cause × Addr) :=
  causeOrder.findSome? fun c => (t.beats.find? fun a => causeOf s t a = some c).map fun a => (c, a)

/-- The locker that a record about a beat names: its record index, if the beat is of class LTW below the locker count
(R9). -/
def beatLocker (s : State) (a : Addr) : Option Locker :=
  match classify s.copies a with
  | .ltw rec _ => if rec.val < s.copies.lockerCount then some rec else none
  | .ringCtl _ | .ringArea | .guard | .pass => none

/-- The record of a refusal or a parity fault at a beat (R9, R12). -/
def beatRecord (s : State) (k : ReportKind) (code : Nat) (a : Addr) : Record :=
  match beatLocker s a with
  | some l => lockerRecord s k l code (a.zeroExtend 32)
  | none => plainRecord s k code (a.zeroExtend 32)

/-- CPI answers REFUSED; a refusal for any cause but NOT_READY hands its record (R5, R9). -/
def refuse (c : Cause) (a : Addr) (s : State) : State :=
  let s' := { s with cpi := .idle, answer := some .refused }
  if c = .notReady then s' else handRecord (beatRecord s .writeRefused c.code a) s'

/-! ### Writes taken (R6, R7, R13, R20, R21) -/

/-- A CODE write is captured as the presented code, and the CODE-zero mark is cleared (R6, R20). -/
def captureCode (l : Locker) (w : Word) (s : State) : State :=
  putMark l .codeZero false { s with lke := s.lke.set l.val { s.ctx l with presCode := w } }

/-- An ORDER write is captured as the presented order: bits 23 to 0 (R21). -/
def captureOrder (l : Locker) (w : Word) (s : State) : State :=
  { s with lke := s.lke.set l.val { s.ctx l with presOrder := w.extractLsb' 0 24 } }

/-- CPI forwards a transaction: it waits for its grant (R2). -/
def forward (t : Txn) (land : LandEffect) (s : State) : State := { s with cpi := .waiting t land }

/-- A write that shows no cause, in OPERATING: a COMMAND write is evaluated and forwarded with its outcome, a CODE or
ORDER write is captured, a STATUS write is forwarded as zero, and every other write is forwarded unchanged (R5 to R8,
R13). -/
def takeWrite (t : Txn) (s : State) : State :=
  let w := t.data.headD 0
  match t.singleFull, classify s.copies t.addr with
  | true, .ltw rec 0 => forward { t with data := [forwardedWord w (evaluate s rec w)] } .none (evaluation rec w s)
  | true, .ltw rec 1 => forward t .none (captureCode rec w s)
  | true, .ltw rec 2 => forward t .none (captureOrder rec w s)
  | true, .ringCtl 1 => forward t .readIndex s
  | true, .ringCtl 2 => forward { t with data := [0] } .status s
  | true, .ringCtl 3 => forward t .attention s
  | _, _ => forward t .none s

/-- A write checked at its arrival or its START release (R5). -/
def decideWrite (t : Txn) (s : State) : State :=
  match governing s t with
  | some (c, a) => refuse c a s
  | none => if s.mode = .operating then takeWrite t s else forward t .none s

/-! ### Reads (R10, R11) -/

/-- A transaction touches a record of the locker table window (R10). -/
def Txn.touchesRecord (c : Copies) (t : Txn) (l : Locker) : Bool :=
  t.beats.any fun a =>
    match classify c a with
    | .ltw rec _ => rec = l
    | .ringCtl _ | .ringArea | .guard | .pass => false

/-- A transaction touches the ring window (R11). -/
def Txn.touchesRing (c : Copies) (t : Txn) : Bool :=
  t.beats.any fun a =>
    match classify c a with
    | .ringCtl _ | .ringArea => true
    | .ltw _ _ | .guard | .pass => false

/-- The records that a read names to MRW: touched, below the locker count, bearing a mark; ascending (R10, R28). -/
def namedRecords (s : State) (t : Txn) : List Locker :=
  s.lockers.filter fun l => t.touchesRecord s.copies l && (s.marks l).any

/-- A ring operation of RPW's is in flight: from the grant of its first write to the landing of its last (R11). -/
def RingOp.inFlight : RingOp → Bool
  | .statusFly | .recordFly | .indexReq _ | .indexFly _ => true
  | .idle | .statusReq | .recordReq => false

/-- MRW takes the named records on its promotion list; a standing request for a locker other than the head is
withdrawn (R28). -/
def promote (named : List Locker) (s : State) : State :=
  match named with
  | [] => s
  | l :: _ =>
    { s with
      mrw := { s.mrw with
        promo := named, promoLast := none, req := s.mrw.req.filter fun r => r.1 = l } }

/-- A read at its arrival or its START release: held for MIRROR or RING in OPERATING, otherwise forwarded (R10, R11, R14,
R15). -/
def decideRead (t : Txn) (s : State) : State :=
  if s.mode = .operating then
    let named := namedRecords s t
    let ring := t.touchesRing s.copies && s.rpw.op.inFlight
    if named.isEmpty && !ring then forward t .none s
    else promote named { s with cpi := .held t false (!named.isEmpty) ring }
  else forward t .none s

/-- A transaction decoded and checked in the mode that stands (R3, R5, R10). -/
def decideTxn (t : Txn) (s : State) : State := if t.write then decideWrite t s else decideRead t s

/-- A transaction arrives at CPI, which is IDLE: during validation it is held with reason START (R3), otherwise it is
decided. The answer of the transaction before it no longer stands. -/
def arrive (t : Txn) (s : State) : State :=
  let s := { s with answer := none }
  if s.mode = .validating then { s with cpi := .held t true false false } else decideTxn t s

/-- The START hold released under the new mode (R3). -/
def releaseStart (s : State) : State :=
  match s.cpi with
  | .held t true _ _ => decideTxn t s
  | .held _ false _ _ | .idle | .waiting _ _ | .carrying _ _ => s

/-- The holds that an event has ended: MIRROR when the promotion list is empty, RING when no ring operation is in
flight; with no reason left the read is forwarded (R10, R11; logs 10, 11). -/
def releaseHolds (s : State) : State :=
  match s.cpi with
  | .held t false mirror ring =>
    let mirror := mirror && !s.mrw.promo.isEmpty
    let ring := ring && s.rpw.op.inFlight
    if mirror || ring then { s with cpi := .held t false mirror ring } else forward t .none s
  | .held _ true _ _ | .idle | .waiting _ _ | .carrying _ _ => s

end Sys2Proof.Machine
end

