-- ==== Sys2Proof/Machine/Mirror.lean ====
section
/-! DEFINITION. The mirror writer: the choice of its next write, turns and promotion, the content of its writes, grants
and landings (R24 to R30). -/

namespace Sys2Proof.Machine

/-- The fixed write order: HEAT, LATCH, STATE, HOLD, CODE-zero (R26). -/
def MarkCell.rank : MarkCell → Nat
  | .heat => 0 | .latch => 1 | .state => 2 | .hold => 3 | .codeZero => 4

def writeOrder : List MarkCell := [.heat, .latch, .state, .hold, .codeZero]

/-- A cell comes after another in the write order; every cell comes after none. -/
def MarkCell.after (c : MarkCell) (last : Option MarkCell) : Bool :=
  match last with
  | none => true
  | some d => d.rank < c.rank

/-- The next marked cell after one in the write order (R26). -/
def Marks.next (m : Marks) (last : Option MarkCell) : Option MarkCell := writeOrder.find? fun c => c.after last && m.has c

/-- The word offset in the record of a marked cell (R18). -/
def MarkCell.word : MarkCell → Nat
  | .heat => 5 | .latch => 6 | .state => 3 | .hold => 4 | .codeZero => 1

/-- The content of a mirror write, from the part's state at the grant (R25). -/
def mirrorWord (s : State) (l : Locker) : MarkCell → Word
  | .heat => heatWord (s.paths l)
  | .latch => latchWord (s.paths l)
  | .state => stateWord (s.ctx l) (s.latches l) (s.attachedChan l).isSome (s.paths l)
  | .hold => countsWord (s.ctx l)
  | .codeZero => 0

/-- The sequence number that a HEAT or LATCH write carries (R27). -/
def mirrorSeq (s : State) (l : Locker) : MarkCell → BitVec 4
  | .heat => (s.paths l).heat.seq
  | .latch => (s.paths l).latch.seq
  | .state | .hold | .codeZero => 0

/-- MRW chooses a locker: the first with a mark after the one last served, wrapping; its first marked cell is requested
(R26). -/
def mrwChoose (s : State) : State :=
  match searchFrom s.lockers (s.mrw.lastServed.val + 1) fun l => (s.marks l).any with
  | some l =>
    { s with mrw := { s.mrw with turn := some (l, none), req := ((s.marks l).next none).map fun c => (l, c) } }
  | none => { s with mrw := { s.mrw with turn := none } }

/-- The next step of a turn: the next marked cell, or the end of the turn and the choice of another locker (R26). -/
def mrwTurn (s : State) : State :=
  match s.mrw.turn with
  | none => mrwChoose s
  | some (l, last) =>
    match (s.marks l).next last with
    | some c => { s with mrw := { s.mrw with req := some (l, c) } }
    | none => mrwChoose { s with mrw := { s.mrw with turn := none, lastServed := l } }

/-- The next request: the head of the promotion list in the write order, beginning again at HEAT (R28), else the turn
(R26). -/
def mrwNext (s : State) : State :=
  match s.mrw.promo with
  | l :: _ =>
    let m := s.marks l
    { s with mrw := { s.mrw with req := ((m.next s.mrw.promoLast).or (m.next none)).map fun c => (l, c) } }
  | [] => mrwTurn s

/-- MRW withdraws its request when the mark it was raised for has been cleared (R17, R26, R29). -/
def mrwWithdraw (s : State) : State :=
  { s with mrw := { s.mrw with req := s.mrw.req.filter fun r => (s.marks r.1).has r.2 } }

/-- A mirror write is on the M-port. -/
def State.mirrorFlying (s : State) : Bool :=
  match s.mpi.port with
  | some ⟨.mirror _ _ _, _⟩ => true
  | _ => false

/-- MRW's request after an event (R26, R28). -/
def mrwSettle (s : State) : State :=
  let s := mrwWithdraw s
  if s.mrw.req.isNone && !s.mirrorFlying then mrwNext s else s

/-- The head of the promotion list has no mark left: it leaves the list; a turn of that locker ends, and it counts as the
one last served (R28). -/
def promotionStep (l : Locker) (s : State) : State :=
  if (s.marks l).any then s
  else
    let m := { s.mrw with promo := s.mrw.promo.tail, promoLast := none }
    { s with
      mrw :=
        match m.turn with
        | some (k, _) => if k = l then { m with turn := none, lastServed := l } else m
        | none => m }

/-- The grant of a mirror write: the mark is cleared, and the write becomes the last granted of the promotion or the turn
(R25, R26, R28). -/
def mirrorGranted (l : Locker) (c : MarkCell) (s : State) : State :=
  let s := putMark l c false s
  let s := { s with mrw := { s.mrw with req := none } }
  if s.mrw.promo.head? = some l then promotionStep l { s with mrw := { s.mrw with promoLast := some c } }
  else { s with mrw := { s.mrw with turn := s.mrw.turn.map fun t => (t.1, some c) } }

/-- A mirror write lands: a HEAT or LATCH landing goes to AHU (R27). -/
def mirrorLanded (l : Locker) (c : MarkCell) (seq : BitVec 4) (s : State) : State :=
  match c with
  | .heat => pathLanded l .heat seq s
  | .latch => pathLanded l .latch seq s
  | .state | .hold | .codeZero => s

end Sys2Proof.Machine
end

