-- ==== Sys2Proof/Machine/Reports.lean ====
section
/-! DEFINITION. The report writer: its next ring operation, grants and landings, what it takes from the controller's
writes, and the ring's part of the restore (R173 to R178, R186). -/

namespace Sys2Proof.Machine

/-- The ring holds R − 1 unread records (R175). -/
def State.ringFull (s : State) : Bool :=
  (s.rpw.write + s.copies.ringSize - s.rpw.read) % s.copies.ringSize = s.copies.ringSize - 1

/-- A C-port read that touches the ring window stands at CPI, from its arrival to its completion (R175). -/
def State.ringReadStands (s : State) : Bool :=
  match s.cpi with
  | .held t _ _ _ | .waiting t _ | .carrying t _ => !t.write && t.touchesRing s.copies
  | .idle => false

/-- Every record of the queue dropped and counted, in order (R175: "the head record then leaves the queue, is dropped and
counted, and RPW judges again"; log 13). -/
def Rpw.dropAll (r : Rpw) : Rpw := { r.queue.foldl (fun r _ => r.countLoss) r with queue := [] }

/-- RPW starts its next ring operation: STATUS where its mark is set, else the head record where the ring has room; in a
full ring the records are dropped, which sets the mark (R175). -/
def rpwStart (s : State) : State :=
  if s.rpw.statusMark then { s with rpw := { s.rpw with op := .statusReq } }
  else if s.rpw.queue.isEmpty then s
  else if s.ringFull then
    let r := s.rpw.dropAll
    { s with rpw := if r.statusMark then { r with op := .statusReq } else r }
  else { s with rpw := { s.rpw with op := .recordReq } }

/-- RPW after an event: it starts an operation when it is adopted, has none, and no ring read stands (R175). A request that
stands ungranted for the head record keeps its place when a drop sets the STATUS mark, and STATUS is written after that
append: the model's choice (log 34). -/
def rpwSettle (s : State) : State :=
  if s.rpw.adopted && s.rpw.op = .idle && !s.ringReadStands then rpwStart s else s

/-! ### Requests and grants (R175, R186) -/

/-- The transaction that RPW requests for its ring operation; the request for an operation's first write does not stand
while a ring read stands (R175). -/
def ringRequest (s : State) : Option MTxn :=
  match s.rpw.op with
  | .statusReq =>
    if s.ringReadStands then none
    else some ⟨.ringStatus, writeTxn (s.ringCtl 2) [statusWord s.rpw.lost s.rpw.overrun]⟩
  | .recordReq =>
    if s.ringReadStands then none
    else s.rpw.queue.head?.map fun r => ⟨.ringRecord, writeTxn (s.ringSlot s.rpw.write) r.words⟩
  | .indexReq _ =>
    some ⟨.ringWriteIndex, writeTxn (s.ringCtl 0) [BitVec.ofNat 32 ((s.rpw.write + 1) % s.copies.ringSize)]⟩
  | .idle | .statusFly | .recordFly | .indexFly _ => none

/-- The transaction that the ring's part of the restore requests (R186). -/
def stageRequest (s : State) : Option MTxn :=
  match s.rpw.stage with
  | .readWrite => some ⟨.ringRestoreRead, readTxn (s.ringCtl 0)⟩
  | .readRead => some ⟨.ringRestoreRead, readTxn (s.ringCtl 1)⟩
  | .readAttention => some ⟨.ringRestoreRead, readTxn (s.ringCtl 3)⟩
  | .zeroWrite => some ⟨.ringWriteIndex, writeTxn (s.ringCtl 0) [0]⟩
  | .zeroRead => some ⟨.ringReadCell, writeTxn (s.ringCtl 1) [0]⟩
  | .zeroStatus => some ⟨.ringStatus, writeTxn (s.ringCtl 2) [0]⟩
  | .off | .done => none

/-- RPW's request (R175, R186). -/
def rpwRequest (s : State) : Option MTxn := if s.rpw.adopted then ringRequest s else stageRequest s

/-- The grant of RPW's request: the operation is in flight; at a STATUS grant the mark is cleared (R175). A grant of the
restore's leaves the stage to its completion. -/
def rpwGranted (s : State) : State :=
  if s.rpw.adopted then
    match s.rpw.op with
    | .statusReq => { s with rpw := { s.rpw with op := .statusFly, statusMark := false } }
    | .recordReq => { s with rpw := { s.rpw with op := .recordFly } }
    | .indexReq k => { s with rpw := { s.rpw with op := .indexFly k } }
    | .idle | .statusFly | .recordFly | .indexFly _ => s
  else s

/-! ### Landings (R175, R178, R186) -/

/-- A record write lands: the record leaves the queue and the WRITE index write is requested (R175). -/
def recordLanded (s : State) : State :=
  match s.rpw.queue with
  | r :: rest => { s with rpw := { s.rpw with queue := rest, op := .indexReq r.kind } }
  | [] => s

/-- A WRITE index write lands: WRITE advances, the append ends, and attention-pending is set for a masked kind (R175,
R178). -/
def indexLanded (k : ReportKind) (s : State) : State :=
  { s with
    rpw := { s.rpw with
      write := (s.rpw.write + 1) % s.copies.ringSize, op := .idle,
      attention := s.rpw.attention || maskHas s.rpw.mask k } }

/-- A STATUS write lands: the operation ends (R175), or the restore's adopts the ring (R186). -/
def statusLanded (s : State) : State :=
  if s.rpw.adopted then { s with rpw := { s.rpw with op := .idle } }
  else { s with rpw := { s.rpw with adopted := true, stage := .done } }

/-- The words WRITE and READ read below R without parity fault are kept (R186). -/
def keptIndices (s : State) : Option (Nat × Nat) :=
  match s.rpw.keptWrite, s.rpw.keptRead with
  | some w, some r =>
    if w.toNat < s.copies.ringSize ∧ r.toNat < s.copies.ringSize then some (w.toNat, r.toNat) else none
  | _, _ => none

/-- After the three reads: the indices are kept, or both cells are to be written 0 (R186). -/
def judgeIndices (s : State) : State :=
  match keptIndices s with
  | some (w, r) => { s with rpw := { s.rpw with write := w, read := r, stage := .zeroStatus } }
  | none => { s with rpw := { s.rpw with stage := .zeroWrite } }

/-- A restore read of a control word completes; the word is none for a parity fault (R186). -/
def ringWordRead (word : Option Word) (s : State) : State :=
  match s.rpw.stage with
  | .readWrite => { s with rpw := { s.rpw with keptWrite := word, stage := .readRead } }
  | .readRead => { s with rpw := { s.rpw with keptRead := word, stage := .readAttention } }
  | .readAttention => judgeIndices { s with rpw := { s.rpw with mask := (word.map maskOf).getD 0 } }
  | .off | .zeroWrite | .zeroRead | .zeroStatus | .done => s

/-- The restore's zero of the WRITE cell lands; the READ cell is next (R186). -/
def writeCellZeroed (s : State) : State := { s with rpw := { s.rpw with stage := .zeroRead } }

/-- The restore's zero of the READ cell lands: RPW takes 0 for both indices; STATUS is next (R186). -/
def readCellZeroed (s : State) : State := { s with rpw := { s.rpw with write := 0, read := 0, stage := .zeroStatus } }

/-- What RPW takes when a controller's write lands (R7, R176 to R178). -/
def takeLanded (land : LandEffect) (w : Word) (s : State) : State :=
  match land with
  | .none => s
  | .readIndex =>
    { s with
      rpw := { s.rpw with
        read := w.toNat, attention := if w.toNat = s.rpw.write then false else s.rpw.attention } }
  | .status => { s with rpw := { s.rpw with lost := 0, overrun := false, statusMark := false } }
  | .attention => { s with rpw := { s.rpw with mask := maskOf w } }

end Sys2Proof.Machine
end

