-- ==== Sys2Proof/Machine/Startup.lean ====
section
/-! DEFINITION. Reset, validation, the lockers' part of the restore, its end, and the maintenance line (R3, R170, R181 to
R187). -/

namespace Sys2Proof.Machine

/-! ### Reset (R3, R17, R170, R183) -/

/-- The memory when a reset has let the transaction on the M-port complete (R3, R17; log 7). -/
def memoryAtReset (s : State) : Memory :=
  match s.mpi.port with
  | some m => s.mem.complete m.txn
  | none => s.mem

/-- Reset asserted by a source: every block at its reset values; the option store, the FEED level and the memory stand,
with the transaction on the M-port complete; the source is the reset cause (R170, R183). -/
def resetBy (cause : ResetCause) (s : State) : State :=
  { State.reset with pending := s.pending, cause := cause, store := s.store, feed := s.feed, mem := memoryAtReset s }

/-! ### Validation (R144, R162, R184) -/

/-- The copies taken, and the mode RESTORING entered: capacity Cmax (R105), the last-served position (R26), the
probe-interval phase (R144), the supply timers (R169), the ring's reads (R186). -/
def enterRestoring (s : State) : State :=
  let c := storeCopies s.store
  setTimers .normal
    { s with
      mode := .restoring, copies := c, restore := Restore.reset,
      hsc := { s.hsc with capacity := c.cmax },
      mrw := { s.mrw with lastServed := Fin.ofNat 64 (c.lockerCount - 1) },
      tmb := { s.tmb with probe := some 0 },
      rpw := { s.rpw with stage := .readWrite } }

/-- Validation ends; a START-held transaction is released under the new mode (R3, R184). -/
def endValidation (s : State) : State :=
  releaseStart (if storeValid s.store then enterRestoring s else { s with mode := .unconfigured })

/-! ### The lockers' part of the restore (R185) -/

/-- The word offset in the record of a cell the restore reads (R18). -/
def RestoreCell.word : RestoreCell → Nat
  | .state => 3 | .heat => 5 | .latch => 6

/-- The locker that the restore is reading, in RESTORING while one is left. -/
def State.restoring (s : State) : Option Locker :=
  if h : s.restore.next < 64 then
    if s.mode = .restoring ∧ s.restore.next < s.copies.lockerCount then some ⟨s.restore.next, h⟩ else none
  else none

/-- The restore's read on the SMP requester (R185). -/
def restoreRequest (s : State) : Option MTxn :=
  s.restoring.map fun l => ⟨.restoreRead, readTxn (s.cellAddr l s.restore.cell.word)⟩

/-- The context that a STATE word restores (R40, R185 step 1). -/
def restoredContext (word : Option Word) : Context :=
  match word with
  | none => Context.reset.quarantined .restart
  | some w => if readsVacant w then Context.reset else { Context.reset with cls := stateClass w }.quarantined .restart

/-- The sequences that the restore takes from the cells read, 0 for a parity fault (R141, R185 step 2). -/
def setSeqs (l : Locker) (heat latch : Option Word) (s : State) : State :=
  let p := s.paths l
  putPaths l
    { p with
      heat := { p.heat with seq := (heat.map cellSeq).getD 0 }, latch := { p.latch with seq := (latch.map cellSeq).getD 0 } }
    s

/-- Both latches to RELATCH_PENDING with relatch kind RESTORE (R99, R185 step 3). -/
def relatchRestore (l : Locker) (s : State) : State :=
  let go (h : Hatch) (s : State) : State := putLatch l h ((s.latch l h).relatch .restore false) s
  go .rear (go .front s)

/-- OPS sets the STATE, HOLD and CODE-zero marks (R24, R185 step 4). -/
def restoreMarks (l : Locker) (s : State) : State :=
  putMark l .codeZero true (putMark l .hold true (putMark l .state true s))

/-- A locker restored in one event from its three words (R185). -/
def restoreLocker (l : Locker) (state heat latch : Option Word) (s : State) : State :=
  let s := putCtx l (restoredContext state) s
  let s := issueLatch l false false (issueHeat l false (setSeqs l heat latch s))
  restoreMarks l (relatchRestore l s)

/-- A restore read completes; after the third, the locker is restored and the next one's reads begin (R185). -/
def restoreWordRead (l : Locker) (word : Option Word) (s : State) : State :=
  match s.restore.cell with
  | .state => { s with restore := { s.restore with cell := .heat, stateWord := word } }
  | .heat => { s with restore := { s.restore with cell := .latch, heatWord := word } }
  | .latch =>
    let r := s.restore
    restoreLocker l r.stateWord r.heatWord word
      { s with restore := { next := r.next + 1, cell := .state, stateWord := none, heatWord := none } }

/-! ### The end of the restore (R187) -/

/-- A path has no command outstanding (R129). -/
def PathPair.quiet (p : PathPair) : Bool := p.heat.st = .idle && p.latch.st = .idle

/-- The conditions of the restore's end: every locker restored, every restore command ended, the ring adopted, no mark
(R187). -/
def State.restoreComplete (s : State) : Bool :=
  s.copies.lockerCount ≤ s.restore.next && s.lockers.all (fun l => (s.paths l).quiet) && s.rpw.adopted
    && s.lockers.all fun l => !(s.marks l).any

/-- The mode becomes OPERATING: the frame and seconds phases start with the counter at 0, the opening sweep starts, and
the RESTORED record is handed to RPW (R144, R147, R187). -/
def enterOperating (s : State) : State :=
  let s := { s with mode := .operating, tmb := { s.tmb with seconds := 0, frame := some 0, second := some 0 } }
  let n := s.lockers.countP fun l => (s.ctx l).life = .quarantine
  handRecord (plainRecord s .restored s.cause.code (BitVec.ofNat 32 n)) (startSweep s)

/-! ### The maintenance line (R181, R182) -/

/-- OPS serves maintenance frames while the part is out of reset (R181). -/
def State.served (s : State) : Bool := s.mode ≠ .inReset

/-- An answer given on the maintenance line. -/
def maintAnswer (a : MaintAnswer) (s : State) : State := { s with maint := some a }

/-- A word that a locked store hides: the staff codes and masks, words 26 to 33 (R182). -/
def hiddenWord (index : Nat) : Bool := 26 ≤ index && index ≤ 33

/-- A READ frame (R181, R182). -/
def maintReadFrame (index : BitVec 8) (s : State) : State :=
  if h : index.toNat < 64 then
    maintAnswer (.ok (some (if s.storeLocked && hiddenWord index.toNat then 0 else s.store[index.toNat]))) s
  else maintAnswer .refused s

/-- A WRITE frame: PROG high, not during validation, an erased word (R181). -/
def maintWriteFrame (prog : Bool) (index : BitVec 8) (data : Word) (s : State) : State :=
  if h : index.toNat < 64 then
    if prog && s.mode ≠ .validating && s.store[index.toNat] = Config.erasedWord then
      maintAnswer (.ok none) { s with store := s.store.set index.toNat data }
    else maintAnswer .refused s
  else maintAnswer .refused s

/-- An ERASE frame: PROG high, not during validation; its word index is ignored (R36, R181). -/
def maintEraseFrame (prog : Bool) (s : State) : State :=
  if prog && s.mode ≠ .validating then
    maintAnswer (.ok none) { s with store := Vector.replicate 64 Config.erasedWord }
  else maintAnswer .refused s

end Sys2Proof.Machine
end

