-- ==== Sys2Proof/Machine/Arbiter.lean ====
section
/-! DEFINITION. What the blocks do at the end of every event: requests withdrawn and raised, holds released (log 12); and
the M-port's arbiter (R16, R17). -/

namespace Sys2Proof.Machine

/-! ### After an event -/

/-- What an event lets follow at once, by the mode (R30, R132, R149, R175; log 12). In reset, validation and UNCONFIGURED
no block but CPI makes requests (R14, R183). -/
def settle (s : State) : State :=
  match s.mode with
  | .inReset | .validating | .unconfigured => s
  | .restoring => rpwSettle (ahuSettle (mrwSettle s))
  | .operating => rpwSettle (smpSettle (ahuSettle (mrwSettle (releaseHolds s))))

/-- The outcome of a step. -/
abbrev Out := Host.Outcome State Fault Refusal

/-- An event taken, with what follows it. -/
def done (s : State) : Out := .next (settle s)

/-! ### Requests (R16, R17) -/

/-- The forwarded transaction's request stands while CPI is WAITING (R2, R16). -/
def fwdRequest (s : State) : Option MTxn :=
  match s.cpi with
  | .waiting t _ => some ⟨.fwd, t⟩
  | .idle | .held _ _ _ _ | .carrying _ _ => none

/-- MRW's request, with the content of the write as it stands (R17, R25). -/
def mrwRequest (s : State) : Option MTxn :=
  s.mrw.req.map fun (l, c) => ⟨.mirror l c (mirrorSeq s l c), writeTxn (s.cellAddr l c.word) [mirrorWord s l c]⟩

/-- AHU's request: a read of a locker's ACK cell (R132). -/
def ahuRequest (s : State) : Option MTxn := s.ahu.req.map fun l => ⟨.probe l, readTxn (s.cellAddr l 8)⟩

/-- SMP's request: a read of a locker's SENSE cell (R149), or in RESTORING the restore's read (R185). -/
def smpRequest (s : State) : Option MTxn :=
  if s.mode = .restoring then restoreRequest s
  else s.smp.req.map fun (k, l) => ⟨.poll k l, readTxn (s.cellAddr l 7)⟩

/-- The transaction that a requester's standing request is for, its content as it stands (R17). -/
def request (s : State) : Requester → Option MTxn
  | .fwd => fwdRequest s
  | .mrw => mrwRequest s
  | .ahu => ahuRequest s
  | .smp => smpRequest s
  | .rpw => rpwRequest s

/-- The circle from a requester on (R16). -/
def circleFrom : Requester → List Requester
  | .fwd => [.fwd, .mrw, .ahu, .smp, .rpw]
  | .mrw => [.mrw, .ahu, .smp, .rpw, .fwd]
  | .ahu => [.ahu, .smp, .rpw, .fwd, .mrw]
  | .smp => [.smp, .rpw, .fwd, .mrw, .ahu]
  | .rpw => [.rpw, .fwd, .mrw, .ahu, .smp]

/-- The requester after one in the circle (R16). -/
def Requester.succ : Requester → Requester
  | .fwd => .mrw | .mrw => .ahu | .ahu => .smp | .smp => .rpw | .rpw => .fwd

/-- The requester that MPI grants, with its transaction: the first with a standing request from the pointer (R16). -/
def nextGrant (s : State) : Option (Requester × MTxn) :=
  (circleFrom s.mpi.pointer).findSome? fun r => (request s r).map fun t => (r, t)

/-! ### Grants -/

/-- CPI at the grant of the forwarded transaction: CARRYING (R2). -/
def fwdGranted (s : State) : State :=
  match s.cpi with
  | .waiting t land => { s with cpi := .carrying t land }
  | .idle | .held _ _ _ _ | .carrying _ _ => s

/-- MRW at its grant (R25). -/
def mrwGranted (s : State) : State :=
  match s.mrw.req with
  | some (l, c) => mirrorGranted l c s
  | none => s

/-- AHU at its grant: the locker leaves the due set (R132). -/
def ahuGranted (s : State) : State :=
  match s.ahu.req with
  | some l => leaveDue l { s with ahu := { s.ahu with req := none } }
  | none => s

/-- SMP at its grant: a fast poll's locker leaves the fast-due set (R148). -/
def smpGranted (s : State) : State :=
  match s.smp.req with
  | some (.fast, l) => { s with smp := { s.smp with req := none, fastDue := s.smp.fastDue.set l.val false } }
  | some (.frame, _) => { s with smp := { s.smp with req := none } }
  | none => s

/-- What the grant does in the requester. -/
def grantedAt (r : Requester) (s : State) : State :=
  match r with
  | .fwd => fwdGranted s
  | .mrw => mrwGranted s
  | .ahu => ahuGranted s
  | .smp => smpGranted s
  | .rpw => rpwGranted s

/-- A grant: the pointer moves past the requester, its transaction is on the M-port, and the requester takes the grant
(R16, R17). -/
def grant (r : Requester) (t : MTxn) (s : State) : State :=
  grantedAt r { s with mpi := { pointer := r.succ, port := some t } }

/-! ### Completions -/

/-- The M-port free again, with what the transaction leaves in memory (R2, R17). -/
def freePort (m : MTxn) (s : State) : State :=
  { s with mpi := { s.mpi with port := none }, mem := s.mem.complete m.txn }

/-- The words that a completed read returns, after the second port's writes up to then (R18; log 5). -/
def readBack (port2 : List PortWrite) (m : MTxn) (s : State) : State × List Word :=
  let mem := s.mem.port2 port2
  ({ s with mpi := { s.mpi with port := none }, mem := mem }, mem.readBeats m.txn)

/-- The word of a single read, none when its beat has a parity fault (R19). -/
def beatWord (fault : Bool) (ws : List Word) : Option Word := if fault then none else ws.head?

end Sys2Proof.Machine
end

