-- ==== Sys2Proof/WellFormed.lean ====
section
/-! DEFINITION. Which commands a row can carry: a transaction has 1 to 8 beats (R1), an unknown kind is outside 1 to 5
(R64), an invalid maintenance operation is none of 1, 2, 3 (R181). -/

namespace Sys2Proof

/-- A transaction has 1 to 8 beats (R1). -/
def beatsOk (len : Nat) : Bool := 1 ≤ len && len ≤ 8

/-- A kind outside 1 to 5 (R64). -/
def kindUnknown (kind : BitVec 4) : Bool := kind = 0 || 5 < kind

/-- An operation byte other than 1, 2 or 3 (R181). -/
def opInvalid (op : BitVec 8) : Bool := op = 0 || 3 < op

/-- The check on a command's operands. Rows not named carry any operands. -/
def Instr.wellFormed : Instr → Bool
  | .cPortRead _ _ len => beatsOk len
  | .controllerWrite _ _ data => beatsOk data.length
  | .unknownKind _ kind _ _ _ => kindUnknown kind
  | .maintInvalid op _ => opInvalid op
  | .assign .. | .cancel .. | .load .. | .collect .. | .clear .. | .codeWrite .. | .orderWrite ..
  | .readIndexWrite .. | .statusWrite .. | .attentionWrite .. | .mportGrant | .fwdWriteLand
  | .fwdReadComplete .. | .mrwWriteLand | .probeComplete .. | .probeTimeout .. | .probeInterval | .frameStart
  | .secondsEvent .. | .expiry .. | .lockoutEnd .. | .openWaitExpiry .. | .hatchHeld .. | .framePollComplete ..
  | .fastPollComplete .. | .feedCrossing .. | .shedTrip | .cutTrip | .shedRelease | .cutRelease | .ringRecordLand
  | .writeIndexLand | .statusLand | .powerOnReset | .logicBrownout | .resetPin | .resetRelease | .validationDone
  | .restoreReadComplete .. | .ringRestoreRead .. | .restoreEnd | .maintRead .. | .maintWrite .. | .maintErase ..
  | .readCellZeroLand => true

end Sys2Proof
end

