-- ==== Sys2Proof/Machine/EventRows.lean ====
section
/-! DEFINITION. The meanings of the rows of time, supply, reset and start-up, and the maintenance line. -/

namespace Sys2Proof.Machine

/-! ### Time -/

/-- PROBE_INTERVAL (R132, R145, R148): AHU in RESTORING and OPERATING, SMP in OPERATING. -/
def execProbeInterval (s : State) : Out :=
  if s.tmb.probe.isNone then .fault .noSuchEvent
  else
    let s := ahuInterval { s with tmb := s.tmb.probeEvent s.copies.frameMs }
    done (if s.mode = .operating then smpInterval s else s)

/-- FRAME_START (R111 to R113, R147). -/
def execFrameStart (s : State) : Out :=
  if s.tmb.frame.isNone then .fault .noSuchEvent
  else done (smpFrameStart (hscFrameStart { s with tmb := s.tmb.frameEvent s.copies.frameMs }))

/-- SECONDS_EVENT (R92, R144, R157): the counter first, then LKE and LTC, each with its own event; the operand says which
takes it first (log 15). -/
def execSecondsEvent (latchesFirst : Bool) (s : State) : Out :=
  if s.tmb.second.isNone then .fault .noSuchEvent
  else
    let s := { s with tmb := s.tmb.secondEvent s.copies.frameMs }
    done (if latchesFirst then lkeSeconds (ltcSeconds s) else ltcSeconds (lkeSeconds s))

/-- EXPIRY (R53, R158): a locker's share of a seconds event, where that share brings a count to its limit (log 16). -/
def execExpiry (l : Locker) (s : State) : Out :=
  let s' := countLocker l s
  if l.val < s.copies.lockerCount ∧ (s'.ctx l).judged ∧ (expiryOf (s'.opts l) (s'.ctx l)).isSome then
    done (judgeExpiry l s')
  else .next s

/-- LOCKOUT_END (R76): a locker's share of a seconds event, where it brings the lockout remaining to 0 (log 16). -/
def execLockoutEnd (l : Locker) (s : State) : Out :=
  if l.val < s.copies.lockerCount ∧ (s.ctx l).lockedOut ∧ (s.ctx l).lockoutLeft ≤ 1 then done (endLockout l s) else .next s

/-- OPEN_WAIT_EXPIRY (R92): a latch's share of a seconds event, where it brings the open-wait remaining to 0 (log 16). -/
def execOpenWaitExpiry (l : Locker) (h : Hatch) (s : State) : Out :=
  if l.val < s.copies.lockerCount ∧ (s.latch l h).st = .openWait ∧ (s.latch l h).openWait ≤ 1 then
    done (expireOpenWait l h s)
  else .next s

/-- HATCH_HELD (R89, R92): a latch's share of a seconds event, where it brings the hatch-held remaining from 1 to 0
(log 16). -/
def execHatchHeld (l : Locker) (h : Hatch) (s : State) : Out :=
  if l.val < s.copies.lockerCount ∧ (s.latch l h).st = .opened ∧ (s.latch l h).hatchHeld = 1 then
    done (expireHatchHeld l h s)
  else .next s

/-- PROBE_TIMEOUT (R136): a path's share of a probe with no answer, where it brings the probe count to the ack-limit
(log 16). -/
def execProbeTimeout (l : Locker) (k : PathKind) (s : State) : Out :=
  let r := (s.paths l).get k
  if l.val < s.copies.lockerCount ∧ r.st = .probing ∧ s.copies.ackLimit ≤ r.probes + 1 then
    done (pathError l k { r with probes := r.probes + 1 } s)
  else .next s

/-! ### Supply -/

/-- FEED_CROSSING (R163, R164): FEED at a new level, some ms after SUP's last event. -/
def execFeedCrossing (feed elapsed : Nat) (s : State) : Out := done (crossFeed feed elapsed s)

/-- SHED_TRIP (R165): the shed-trip timer completes in NORMAL; where the cut trip completes with it, SUP goes to CUT
(log 19). With the timer clear there is no trip (R172). -/
def execShedTrip (s : State) : Out :=
  match s.sup.st, s.sup.shedTrip with
  | .normal, some e => done (supplyTo (if s.sup.cutFirst then .cut else .shed) (Config.tripDwellMs - e) s)
  | _, _ => .next s

/-- CUT_TRIP (R165): the cut-trip timer completes in SHED, or in NORMAL together with the shed-trip timer (log 19). With the
timer clear, or the shed trip first to complete, there is no cut trip (R165, R172). -/
def execCutTrip (s : State) : Out :=
  match s.sup.st, s.sup.cutTrip with
  | .normal, some c => if s.sup.cutFirst then done (supplyTo .cut (Config.tripDwellMs - c) s) else .next s
  | .shed, some c => done (supplyTo .cut (Config.tripDwellMs - c) s)
  | _, _ => .next s

/-- SHED_RELEASE (R165). With the timer clear there is no release (R172). -/
def execShedRelease (s : State) : Out :=
  match s.sup.st, s.sup.shedRelease with
  | .shed, some e => done (supplyTo .normal (Config.releaseDwellMs - e) s)
  | _, _ => .next s

/-- CUT_RELEASE (R165). With the timer clear there is no release (R172). -/
def execCutRelease (s : State) : Out :=
  match s.sup.st, s.sup.cutRelease with
  | .cut, some e => done (supplyTo .shed (Config.releaseDwellMs - e) s)
  | _, _ => .next s

/-! ### Reset and start-up -/

/-- POWER_ON_RESET (R170, R183). -/
def execPowerOnReset (s : State) : Out := .next (resetBy .powerOn s)

/-- LOGIC_BROWNOUT (R170, R183). -/
def execLogicBrownout (s : State) : Out := .next (resetBy .brownout s)

/-- RESET_PIN (R170, R183). -/
def execResetPin (s : State) : Out := .next (resetBy .pin s)

/-- RESET_RELEASE (R183): OPS begins to read and validate the store. -/
def execResetRelease (s : State) : Out :=
  if s.mode = .inReset then .next { s with mode := .validating } else .fault .noSuchEvent

/-- VALIDATION_DONE (R184). -/
def execValidationDone (s : State) : Out :=
  if s.mode = .validating then done (endValidation s) else .fault .noSuchEvent

/-- RESTORE_END (R187). -/
def execRestoreEnd (s : State) : Out :=
  if s.mode = .restoring ∧ s.restoreComplete then done (enterOperating s) else .fault .noSuchEvent

/-! ### The maintenance line (R181). While reset is asserted no frame is served (log 3). -/

/-- MAINT_READ (R181, R182). -/
def execMaintRead (index : BitVec 8) (s : State) : Out := .next (if s.served then maintReadFrame index s else s)

/-- MAINT_WRITE (R181, R182). -/
def execMaintWrite (prog : Bool) (index : BitVec 8) (data : Word) (s : State) : Out :=
  .next (if s.served then maintWriteFrame prog index data s else s)

/-- MAINT_ERASE (R181, R182). The word index is ignored (R36). -/
def execMaintErase (prog : Bool) (_index : BitVec 8) (s : State) : Out :=
  .next (if s.served then maintEraseFrame prog s else s)

/-- MAINT_INVALID (R181): answered REFUSED, no effect. -/
def execMaintInvalid (op : BitVec 8) (_index : BitVec 8) (s : State) : Out :=
  if opInvalid op then .next (if s.served then maintAnswer .refused s else s) else .fault .malformed

end Sys2Proof.Machine
end

