-- ==== Sys2Proof/Machine/PortRows.lean ====
section
/-! DEFINITION. The meanings of the C-port rows and of the M-port rows. -/

namespace Sys2Proof.Machine

/-! ### The controller's transactions -/

/-- A transaction presented at the C-port: while reset is asserted the port takes none (R3); the bus form allows one only
while CPI is IDLE (R2). -/
def present (t : Txn) (s : State) : Out :=
  if s.mode = .inReset then .next s
  else if s.cpi = .idle then done (arrive t s)
  else .fault .busBusy

/-- A single full write of a COMMAND word of a kind (R13, R63). -/
def presentCommand (kind : BitVec 4) (addr : Addr) (tag : BitVec 8) (cls : BitVec 3) (hi : BitVec 17) (s : State) : Out :=
  present (writeTxn addr [commandWord tag kind cls hi]) s

/-- C_PORT_READ (R10, R11): a READ transaction arrives; it is forwarded, or held for START, MIRROR or RING. -/
def execCPortRead (addr : Addr) (lanes : BitVec 4) (len : Nat) (s : State) : Out :=
  if beatsOk len then present { write := false, addr := addr, lanes := lanes, len := len, data := [] } s
  else .fault .malformed

/-- ASSIGN (R66). -/
def execAssign (addr : Addr) (tag : BitVec 8) (cls : BitVec 3) (hi : BitVec 17) (s : State) : Out :=
  presentCommand 1 addr tag cls hi s

/-- CANCEL (R67). -/
def execCancel (addr : Addr) (tag : BitVec 8) (cls : BitVec 3) (hi : BitVec 17) (s : State) : Out :=
  presentCommand 2 addr tag cls hi s

/-- LOAD (R68). -/
def execLoad (addr : Addr) (tag : BitVec 8) (cls : BitVec 3) (hi : BitVec 17) (s : State) : Out :=
  presentCommand 3 addr tag cls hi s

/-- COLLECT (R69). -/
def execCollect (addr : Addr) (tag : BitVec 8) (cls : BitVec 3) (hi : BitVec 17) (s : State) : Out :=
  presentCommand 4 addr tag cls hi s

/-- CLEAR (R70). -/
def execClear (addr : Addr) (tag : BitVec 8) (cls : BitVec 3) (hi : BitVec 17) (s : State) : Out :=
  presentCommand 5 addr tag cls hi s

/-- UNKNOWN_KIND (R64): a kind outside 1 to 5. -/
def execUnknownKind (addr : Addr) (kind : BitVec 4) (tag : BitVec 8) (cls : BitVec 3) (hi : BitVec 17) (s : State) : Out :=
  if kindUnknown kind then presentCommand kind addr tag cls hi s else .fault .malformed

/-- CODE_WRITE (R20). -/
def execCodeWrite (addr : Addr) (data : Word) (s : State) : Out := present (writeTxn addr [data]) s

/-- ORDER_WRITE (R21). -/
def execOrderWrite (addr : Addr) (data : Word) (s : State) : Out := present (writeTxn addr [data]) s

/-- READ_INDEX_WRITE (R7, R177). -/
def execReadIndexWrite (addr : Addr) (data : Word) (s : State) : Out := present (writeTxn addr [data]) s

/-- STATUS_WRITE (R7, R176). -/
def execStatusWrite (addr : Addr) (data : Word) (s : State) : Out := present (writeTxn addr [data]) s

/-- ATTENTION_WRITE (R7, R178). -/
def execAttentionWrite (addr : Addr) (data : Word) (s : State) : Out := present (writeTxn addr [data]) s

/-- CONTROLLER_WRITE (R5): any write, checked beat by beat. -/
def execControllerWrite (addr : Addr) (lanes : BitVec 4) (data : List Word) (s : State) : Out :=
  if beatsOk data.length then present { write := true, addr := addr, lanes := lanes, len := data.length, data := data } s
  else .fault .malformed

/-! ### The M-port -/

/-- MPORT_GRANT (R16, R17): the M-port is free and a request stands. -/
def execMportGrant (s : State) : Out :=
  if s.mpi.port.isSome then .fault .noSuchEvent
  else
    match nextGrant s with
    | some (r, t) => done (grant r t s)
    | none => .fault .noSuchEvent

/-- A forwarded write has landed: DONE, and RPW takes the value of a ring word (R2, R7). -/
def fwdLanded (m : MTxn) (land : LandEffect) (s : State) : State :=
  takeLanded land (m.txn.data.headD 0) { freePort m s with cpi := .idle, answer := some (.done []) }

/-- FWD_WRITE_LAND (R2, R178). -/
def execFwdWriteLand (s : State) : Out :=
  match s.mpi.port, s.cpi with
  | some m, .carrying _ land => if m.tag = .fwd ∧ m.txn.write then done (fwdLanded m land s) else .fault .noSuchEvent
  | _, _ => .fault .noSuchEvent

/-- The first beat of a read that the memory has marked with a parity fault (R12). -/
def firstFault (t : Txn) (faults : BitVec 8) : Option Addr :=
  ((List.range t.len).find? fun k => faults.getLsbD k).map t.beatAddr

/-- A forwarded read has completed: DONE with its data, or REFUSED with a PARITY record, which UNCONFIGURED does not make
(R2, R12, R14). -/
def fwdCompleted (port2 : List PortWrite) (faults : BitVec 8) (m : MTxn) (s : State) : State :=
  let (s, ws) := readBack port2 m s
  match firstFault m.txn faults with
  | none => { s with cpi := .idle, answer := some (.done ws) }
  | some a =>
    let s' := { s with cpi := .idle, answer := some .refused }
    if s.mode = .unconfigured then s' else handRecord (beatRecord s .parity parityCode a) s'

/-- FWD_READ_COMPLETE (R12). -/
def execFwdReadComplete (port2 : List PortWrite) (faults : BitVec 8) (s : State) : Out :=
  match s.mpi.port, s.cpi with
  | some m, .carrying _ _ =>
    if m.tag = .fwd ∧ ¬ m.txn.write then done (fwdCompleted port2 faults m s) else .fault .noSuchEvent
  | _, _ => .fault .noSuchEvent

/-- MRW_WRITE_LAND (R27). -/
def execMrwWriteLand (s : State) : Out :=
  match s.mpi.port with
  | some ⟨.mirror l c seq, t⟩ => done (mirrorLanded l c seq (freePort ⟨.mirror l c seq, t⟩ s))
  | _ => .fault .noSuchEvent

/-- PROBE_COMPLETE (R133). -/
def execProbeComplete (port2 : List PortWrite) (fault : Bool) (s : State) : Out :=
  match s.mpi.port with
  | some ⟨.probe l, t⟩ =>
    let (s, ws) := readBack port2 ⟨.probe l, t⟩ s
    done (judgeProbe l (beatWord fault ws) s)
  | _ => .fault .noSuchEvent

/-- FRAME_POLL_COMPLETE (R150). -/
def execFramePollComplete (port2 : List PortWrite) (fault : Bool) (s : State) : Out :=
  match s.mpi.port with
  | some ⟨.poll .frame l, t⟩ =>
    let (s, ws) := readBack port2 ⟨.poll .frame l, t⟩ s
    done (pollResult .frame l (beatWord fault ws) (leaveSweep l s))
  | _ => .fault .noSuchEvent

/-- FAST_POLL_COMPLETE (R148, R150). -/
def execFastPollComplete (port2 : List PortWrite) (fault : Bool) (s : State) : Out :=
  match s.mpi.port with
  | some ⟨.poll .fast l, t⟩ =>
    let (s, ws) := readBack port2 ⟨.poll .fast l, t⟩ s
    done (pollResult .fast l (beatWord fault ws) s)
  | _ => .fault .noSuchEvent

/-- RING_RECORD_LAND (R175). -/
def execRingRecordLand (s : State) : Out :=
  match s.mpi.port with
  | some ⟨.ringRecord, t⟩ => done (recordLanded (freePort ⟨.ringRecord, t⟩ s))
  | _ => .fault .noSuchEvent

/-- WRITE_INDEX_LAND (R175, R178), or the restore's zero of the WRITE cell (R186). -/
def execWriteIndexLand (s : State) : Out :=
  match s.mpi.port with
  | some ⟨.ringWriteIndex, t⟩ =>
    let s' := freePort ⟨.ringWriteIndex, t⟩ s
    match s.rpw.op with
    | .indexFly k => done (indexLanded k s')
    | .idle | .statusReq | .statusFly | .recordReq | .recordFly | .indexReq _ => done (writeCellZeroed s')
  | _ => .fault .noSuchEvent

/-- STATUS_LAND (R175, R186). -/
def execStatusLand (s : State) : Out :=
  match s.mpi.port with
  | some ⟨.ringStatus, t⟩ => done (statusLanded (freePort ⟨.ringStatus, t⟩ s))
  | _ => .fault .noSuchEvent

/-- RESTORE_READ_COMPLETE (R185). -/
def execRestoreReadComplete (port2 : List PortWrite) (fault : Bool) (s : State) : Out :=
  match s.mpi.port, s.restoring with
  | some ⟨.restoreRead, t⟩, some l =>
    let (s, ws) := readBack port2 ⟨.restoreRead, t⟩ s
    done (restoreWordRead l (beatWord fault ws) s)
  | _, _ => .fault .noSuchEvent

/-- RING_RESTORE_READ (R186). -/
def execRingRestoreRead (port2 : List PortWrite) (fault : Bool) (s : State) : Out :=
  match s.mpi.port with
  | some ⟨.ringRestoreRead, t⟩ =>
    let (s, ws) := readBack port2 ⟨.ringRestoreRead, t⟩ s
    done (ringWordRead (beatWord fault ws) s)
  | _ => .fault .noSuchEvent

/-- READ_CELL_ZERO_LAND (R186). -/
def execReadCellZeroLand (s : State) : Out :=
  match s.mpi.port with
  | some ⟨.ringReadCell, t⟩ => done (readCellZeroed (freePort ⟨.ringReadCell, t⟩ s))
  | _ => .fault .noSuchEvent

end Sys2Proof.Machine
end

