-- ==== Sys2Proof/Machine/Dispatch.lean ====
section
/-! DEFINITION. One arm for each command. -/

namespace Sys2Proof.Machine

def exec (i : Instr) (s : State) : Host.Outcome State Fault Refusal :=
  match i with
  | .cPortRead addr lanes len => Sys2Proof.Machine.execCPortRead addr lanes len s
  | .assign addr tag cls hi => Sys2Proof.Machine.execAssign addr tag cls hi s
  | .cancel addr tag cls hi => Sys2Proof.Machine.execCancel addr tag cls hi s
  | .load addr tag cls hi => Sys2Proof.Machine.execLoad addr tag cls hi s
  | .collect addr tag cls hi => Sys2Proof.Machine.execCollect addr tag cls hi s
  | .clear addr tag cls hi => Sys2Proof.Machine.execClear addr tag cls hi s
  | .unknownKind addr kind tag cls hi => Sys2Proof.Machine.execUnknownKind addr kind tag cls hi s
  | .codeWrite addr data => Sys2Proof.Machine.execCodeWrite addr data s
  | .orderWrite addr data => Sys2Proof.Machine.execOrderWrite addr data s
  | .readIndexWrite addr data => Sys2Proof.Machine.execReadIndexWrite addr data s
  | .statusWrite addr data => Sys2Proof.Machine.execStatusWrite addr data s
  | .attentionWrite addr data => Sys2Proof.Machine.execAttentionWrite addr data s
  | .controllerWrite addr lanes data => Sys2Proof.Machine.execControllerWrite addr lanes data s
  | .mportGrant => Sys2Proof.Machine.execMportGrant s
  | .fwdWriteLand => Sys2Proof.Machine.execFwdWriteLand s
  | .fwdReadComplete port2 faults => Sys2Proof.Machine.execFwdReadComplete port2 faults s
  | .mrwWriteLand => Sys2Proof.Machine.execMrwWriteLand s
  | .probeComplete port2 fault => Sys2Proof.Machine.execProbeComplete port2 fault s
  | .probeTimeout locker path => Sys2Proof.Machine.execProbeTimeout locker path s
  | .probeInterval => Sys2Proof.Machine.execProbeInterval s
  | .frameStart => Sys2Proof.Machine.execFrameStart s
  | .secondsEvent latchesFirst => Sys2Proof.Machine.execSecondsEvent latchesFirst s
  | .expiry locker => Sys2Proof.Machine.execExpiry locker s
  | .lockoutEnd locker => Sys2Proof.Machine.execLockoutEnd locker s
  | .openWaitExpiry locker hatch => Sys2Proof.Machine.execOpenWaitExpiry locker hatch s
  | .hatchHeld locker hatch => Sys2Proof.Machine.execHatchHeld locker hatch s
  | .framePollComplete port2 fault => Sys2Proof.Machine.execFramePollComplete port2 fault s
  | .fastPollComplete port2 fault => Sys2Proof.Machine.execFastPollComplete port2 fault s
  | .feedCrossing feed elapsed => Sys2Proof.Machine.execFeedCrossing feed elapsed s
  | .shedTrip => Sys2Proof.Machine.execShedTrip s
  | .cutTrip => Sys2Proof.Machine.execCutTrip s
  | .shedRelease => Sys2Proof.Machine.execShedRelease s
  | .cutRelease => Sys2Proof.Machine.execCutRelease s
  | .ringRecordLand => Sys2Proof.Machine.execRingRecordLand s
  | .writeIndexLand => Sys2Proof.Machine.execWriteIndexLand s
  | .statusLand => Sys2Proof.Machine.execStatusLand s
  | .powerOnReset => Sys2Proof.Machine.execPowerOnReset s
  | .logicBrownout => Sys2Proof.Machine.execLogicBrownout s
  | .resetPin => Sys2Proof.Machine.execResetPin s
  | .resetRelease => Sys2Proof.Machine.execResetRelease s
  | .validationDone => Sys2Proof.Machine.execValidationDone s
  | .restoreReadComplete port2 fault => Sys2Proof.Machine.execRestoreReadComplete port2 fault s
  | .ringRestoreRead port2 fault => Sys2Proof.Machine.execRingRestoreRead port2 fault s
  | .restoreEnd => Sys2Proof.Machine.execRestoreEnd s
  | .maintRead index => Sys2Proof.Machine.execMaintRead index s
  | .maintWrite prog index data => Sys2Proof.Machine.execMaintWrite prog index data s
  | .maintErase prog index => Sys2Proof.Machine.execMaintErase prog index s
  | .maintInvalid op index => Sys2Proof.Machine.execMaintInvalid op index s
  | .readCellZeroLand => Sys2Proof.Machine.execReadCellZeroLand s

end Sys2Proof.Machine
end

