-- ==== Sys2Proof/Safety.lean ====
section
/-! DEFINITION. What safety means on this part: the conditions that every step keeps, and the words in which the
statements about single commands are written. -/

namespace Sys2Proof

open Machine

/-! ### What holds of every state that a run reaches -/

/-- The memory is in its canonical form. -/
def MemoryCanonical (s : State) : Prop := s.mem.wf = true

/-- A locker is in the fast-poll set exactly while one of its latches is in a sequence (R97). -/
def FastPollExact (s : State) : Prop := ∀ l : Locker, s.smp.fastPoll[l.val] = (s.latches l).inSeq

/-- The interlock of one locker (R84): one of its latches is LATCHED; or both are FAILED; or, during RESTORING, the
restore's relatch holds both, and its latch command is still outstanding. -/
def LockerInterlocked (s : State) (l : Locker) : Prop :=
  (s.latches l).front.st = .latched ∨ (s.latches l).rear.st = .latched
    ∨ ((s.latches l).front.st = .failed ∧ (s.latches l).rear.st = .failed)
    ∨ (s.mode = .restoring ∧ l.val < s.copies.lockerCount ∧ (s.paths l).latch.st ≠ .idle
        ∧ (s.latches l).front.st = .relatchPending ∧ (s.latches l).front.kind = .restore
        ∧ (s.latches l).rear.st = .relatchPending ∧ (s.latches l).rear.kind = .restore)

/-- The interlock of every locker (R84). -/
def Interlocked (s : State) : Prop := ∀ l : Locker, LockerInterlocked s l

/-- No two channels are attached to one locker (R102). -/
def ChannelsDistinct (s : State) : Prop :=
  ∀ (i j : Chan) (l : Locker), (s.chan i).st.attached = some l → (s.chan j).st.attached = some l → i = j

/-- Outside OPERATING no channel is attached and no frame start can come (R124, R144). -/
def HeatIdleOutsideOperating (s : State) : Prop :=
  s.mode ≠ .operating → (∀ i : Chan, (s.chan i).st.attached = none) ∧ s.tmb.frame = none

/-- The energised count is at most the capacity (R105), with what keeps it so. -/
def HeatWithinCapacity (s : State) : Prop :=
  s.energisedCount ≤ s.hsc.capacity ∧ ChannelsDistinct s ∧ HeatIdleOutsideOperating s

/-- An energised channel belongs to a locker with both latches LATCHED (R116), and a queue entry to a locker that
qualifies for it (R109), with what keeps it so. -/
def HeatBehindLatched (s : State) : Prop :=
  (∀ (i : Chan) (l : Locker), (s.chan i).st.energised = some l → s.bothLatched l = true)
    ∧ (∀ l ∈ s.hsc.hq, s.qualifiesHq l = true) ∧ (∀ l ∈ s.hsc.wq, s.qualifiesWq l = true)
    ∧ ChannelsDistinct s ∧ HeatIdleOutsideOperating s

/-- The quarantine count is the number of lockers in QUARANTINE (R179). -/
def QuarantineCounted (s : State) : Prop :=
  s.rpw.quarantined = (List.finRange 64).countP fun l => (s.ctx l).life = .quarantine

/-- The lost-channel count is the number of channels in LOST (R179). -/
def LostChannelsCounted (s : State) : Prop :=
  s.rpw.lostChannels = allChans.countP fun i => (s.chan i).st = .lost

/-- The append queue holds at most 4 records (R173). -/
def AppendQueueBounded (s : State) : Prop := s.rpw.queue.length ≤ Config.queueMax

/-- A locker has at most one entry in the hold queue and the warm-up queue taken together (R106). -/
def QueuesDistinct (s : State) : Prop := s.ranking.Nodup

/-- Everything above. -/
structure SafeState (s : State) : Prop where
  memory : MemoryCanonical s
  fastPoll : FastPollExact s
  interlock : Interlocked s
  capacity : HeatWithinCapacity s
  latched : HeatBehindLatched s
  quarantine : QuarantineCounted s
  lost : LostChannelsCounted s
  queue : AppendQueueBounded s
  entries : QueuesDistinct s

/-! ### The words of the statements about commands -/

/-- A command completes: its meaning answers a next state, of which something holds. -/
def Completes (c : Instr) (s : State) (P : State → Prop) : Prop := ∃ t, exec c s = .next t ∧ P t

/-- What no event inside OPERATING or RESTORING touches, and the memory with it. -/
structure OutsideKept (s t : State) : Prop where
  pending : t.pending = s.pending
  mode : t.mode = s.mode
  cause : t.cause = s.cause
  store : t.store = s.store
  copies : t.copies = s.copies
  restore : t.restore = s.restore
  feed : t.feed = s.feed
  maint : t.maint = s.maint
  memory : ∀ a, t.mem.readByte a = s.mem.readByte a

/-- The clock and the supply monitor stand. -/
def ClockKept (s t : State) : Prop := t.tmb = s.tmb ∧ t.sup = s.sup

/-- Every locker's context and latches stand. -/
def LockersKept (s t : State) : Prop := t.lke = s.lke ∧ t.ltc = s.ltc

/-- The contexts and latches of every locker but one stand. -/
def OtherLockersKept (l : Locker) (s t : State) : Prop :=
  ∀ k : Locker, k ≠ l → t.ctx k = s.ctx k ∧ t.latches k = s.latches k

/-- The channels, the queues and every locker's command paths stand. -/
def HeatKept (s t : State) : Prop := t.hsc = s.hsc ∧ t.ahu.paths = s.ahu.paths

/-- The sampler's records and the fast-poll set stand. -/
def SamplesKept (s t : State) : Prop := t.smp.recs = s.smp.recs ∧ t.smp.fastPoll = s.smp.fastPoll

/-- What RPW has taken from the ring and from the blocks stands: the indices, attention, the mask and the two counts. -/
structure RingKept (s t : State) : Prop where
  adopted : t.rpw.adopted = s.rpw.adopted
  write : t.rpw.write = s.rpw.write
  read : t.rpw.read = s.rpw.read
  attention : t.rpw.attention = s.rpw.attention
  mask : t.rpw.mask = s.rpw.mask
  quarantined : t.rpw.quarantined = s.rpw.quarantined
  lostChannels : t.rpw.lostChannels = s.rpw.lostChannels

/-- A record has been handed to RPW (R174, R176): the queue, the lost count and the overrun are as the hand-off leaves
them. -/
def Handed (rec : Record) (s t : State) : Prop :=
  t.rpw.queue = (s.rpw.hand rec).queue ∧ t.rpw.lost = (s.rpw.hand rec).lost ∧ t.rpw.overrun = (s.rpw.hand rec).overrun

/-- Several records have been handed to RPW, in their order (R174, R176). -/
abbrev HandedAll (recs : List Record) (s t : State) : Prop :=
  t.rpw.queue = (recs.foldl Rpw.hand s.rpw).queue ∧ t.rpw.lost = (recs.foldl Rpw.hand s.rpw).lost
    ∧ t.rpw.overrun = (recs.foldl Rpw.hand s.rpw).overrun

/-- A record about a locker, at the event that makes it: its order reference and the seconds counter as they stand
(R62). -/
abbrev recordOf (s : State) (l : Locker) (kind : ReportKind) (detail : BitVec 16) (data : Word) : Record :=
  { kind := kind, locker := BitVec.ofNat 8 l.val, detail := detail, order := (s.ctx l).order, time := s.tmb.seconds,
    data := data }

/-- A record about no locker (section 10.7). -/
abbrev recordOfNone (s : State) (kind : ReportKind) (detail : BitVec 16) (data : Word) : Record :=
  { kind := kind, locker := 255, detail := detail, order := 0, time := s.tmb.seconds, data := data }

/-- What a quarantine cause leaves of a locker's context; QUARANTINE itself keeps all of it (R41, R45). -/
abbrev QuarantinedBy (r : Reason) (l : Locker) (s t : State) : Prop :=
  t.ctx l = if (s.ctx l).life = .quarantine then s.ctx l
    else { s.ctx l with life := .quarantine, reason := r, ret := .none, collExp := none }

/-- The QUARANTINED record, which a locker that is QUARANTINE already does not make (R45, R62). -/
abbrev quarantinedRecords (r : Reason) (l : Locker) (s : State) : List Record :=
  if (s.ctx l).life = .quarantine then []
  else [recordOf s l .quarantined (BitVec.ofNat 16 r.code) (BitVec.ofNat 32 (s.ctx l).life.code)]

/-- The code of a hatch in a report: 0 front, 1 rear (R62, R100). -/
abbrev hatchWord : Hatch → Word
  | .front => 0 | .rear => 1

/-- The closed bit of a hatch in a reading (R88). -/
abbrev closedAt (x : Sense) : Hatch → Bool
  | .front => x.frontClosed | .rear => x.rearClosed

/-- A latch command without release issued on a locker's latch path: the next sequence, to be written (R90, R92, R96). -/
abbrev LatchCommanded (l : Locker) (s t : State) : Prop :=
  (t.paths l).relFront = false ∧ (t.paths l).relRear = false ∧ (t.paths l).latch.st = .writing
    ∧ (t.paths l).latch.seq = (s.paths l).latch.seq + 1 ∧ (t.marks l).latch = true

/-- A heat command issued on a locker's heat path: the next sequence, to be written (R103, R130). -/
abbrev HeatCommanded (l : Locker) (on : Bool) (s t : State) : Prop :=
  (t.paths l).heatOn = on ∧ (t.paths l).heat.st = .writing ∧ (t.paths l).heat.seq = (s.paths l).heat.seq + 1
    ∧ (t.marks l).heat = true

/-- The cells of the write order HEAT, LATCH, STATE, HOLD, CODE-zero that come after the one last granted (R26). -/
abbrev cellsAfter : Option MarkCell → List MarkCell
  | none => [.heat, .latch, .state, .hold, .codeZero]
  | some .heat => [.latch, .state, .hold, .codeZero]
  | some .latch => [.state, .hold, .codeZero]
  | some .state => [.hold, .codeZero]
  | some .hold => [.codeZero]
  | some .codeZero => []

/-- A cell is the first marked one of a part of the write order (R26). -/
abbrev FirstMarked (m : Marks) (cells : List MarkCell) (c : MarkCell) : Prop := cells.find? m.has = some c

/-- A locker is the first below a count to meet a condition, from an index on and round again to it (R26, R132, R148). -/
abbrev FirstFrom (count : Nat) (P : Locker → Prop) (start : Nat) (k : Locker) : Prop :=
  k.val < count ∧ P k ∧ ∀ j : Locker, j.val < count → P j →
    (start ≤ k.val ∧ j.val < start) ∨ ((start ≤ k.val ↔ start ≤ j.val) ∧ k.val ≤ j.val)

/-- A locker is the first with any mark, from an index on (R26). -/
abbrev FirstMarkedFrom (s : State) (start : Nat) (k : Locker) : Prop :=
  FirstFrom s.copies.lockerCount (fun j => (s.marks j).any = true) start k

/-- A search position has moved past a locker: to the one after it, or past the last to 0 (R132, R148). -/
abbrev MovedPast (count : Nat) (k pos : Locker) : Prop := pos.val = if k.val + 1 < min 64 count then k.val + 1 else 0

/-- No locker below the locker count has a mark (R26). -/
abbrev Unmarked (s : State) : Prop := ∀ k : Locker, k.val < s.copies.lockerCount → (s.marks k).any = false

/-- MRW's next turn, looked for from an index on: the first locker with a mark, and its first marked cell requested; with no
mark anywhere, neither (R26). -/
abbrev TurnFrom (start : Nat) (s t : State) : Prop :=
  (∀ k c, FirstMarkedFrom s start k → FirstMarked (s.marks k) (cellsAfter none) c →
    t.mrw.turn = some (k, none) ∧ t.mrw.req = some (k, c))
  ∧ (Unmarked s → t.mrw.turn = none ∧ t.mrw.req = none)

/-- The FREE channels below Cmax, the lowest number first (R102). -/
abbrev freeChans (u : State) : List Chan :=
  allChans.filter fun i => decide (i.val < u.copies.cmax) && decide ((u.chan i).st = .free)

/-- The ranked lockers with no channel attached, in their rank (R106, R114). -/
abbrev unserved (u : State) : List Locker :=
  (u.hsc.hq ++ u.hsc.wq).filter fun l => allChans.all fun i => decide ((u.chan i).st.attached ≠ some l)

/-- How many grants a late grant makes: until no FREE channel, no unserved entry or no capacity is left (R114). -/
abbrev lateGrants (u : State) : Nat :=
  min (min (freeChans u).length (unserved u).length) (u.hsc.capacity - u.energisedCount)

/-- From u, a late grant has been made (R102, R103, R114): the unserved lockers in their rank have the FREE channels in
their order, each with the next stamp and an on command; no other channel and no entry has changed. -/
structure LateGranted (u t : State) : Prop where
  granted : ∀ k < lateGrants u, ∀ i l, (freeChans u)[k]? = some i → (unserved u)[k]? = some l →
    t.chan i = { st := .onPending l, stamp := u.hsc.grants + BitVec.ofNat 32 (k + 1) } ∧ HeatCommanded l true u t
      ∧ (t.marks l).state = true
  others : ∀ i : Chan, i ∉ (freeChans u).take (lateGrants u) → t.chan i = u.chan i
  grants : t.hsc.grants = u.hsc.grants + BitVec.ofNat 32 (lateGrants u)
  hq : t.hsc.hq = u.hsc.hq
  wq : t.hsc.wq = u.hsc.wq

/-- A channel's locker is warming up: ASSIGNED or LOADABLE (R118). -/
abbrev warming (s : State) (i : Chan) : Prop :=
  ∃ l : Locker, (s.chan i).st.energised = some l ∧ ((s.ctx l).life = .assigned ∨ (s.ctx l).life = .loadable)

/-- A capacity decrease takes one energised channel ahead of another, or not behind it: a warming locker's before the
others', the more recent grant first (R102, R118). -/
abbrev HaltedAhead (s : State) (v w : Chan) : Prop :=
  (warming s v ∧ ¬ warming s w)
    ∨ ((warming s v ↔ warming s w) ∧ s.hsc.grants - (s.chan v).stamp ≤ s.hsc.grants - (s.chan w).stamp)

/-- An entry that the walk of a frame start leaves standing for want of a channel: its locker's channel is OFF_PENDING, or it
has none and no FREE channel is left (R111). -/
abbrev PassedOver (l : Locker) (s t : State) : Prop :=
  (∃ i : Chan, (s.chan i).st = .offPending l) ∨ ((∀ i : Chan, (s.chan i).st.attached ≠ some l) ∧ freeChans t = [])

/-- A probe's answer to a path's current command (R133): NAK, FAULT, or none. -/
abbrev AnswersNak (k : PathKind) (fault : Bool) (w : Word) (r : PathRec) : Prop :=
  fault = false ∧ ackSeq k w = r.seq ∧ ackCode k w = .nak

abbrev AnswersFault (k : PathKind) (fault : Bool) (w : Word) (r : PathRec) : Prop :=
  fault = false ∧ ackSeq k w = r.seq ∧ ackCode k w = .fault

abbrev AnswersNone (k : PathKind) (fault : Bool) (w : Word) (r : PathRec) : Prop :=
  fault = true ∨ ackSeq k w ≠ r.seq ∨ ackCode k w = .none

/-- A probe's answer is an error: the 32nd NAK, or no answer with the probe count brought to the ack-limit (R135, R136). -/
abbrev AnswersError (limit : Nat) (k : PathKind) (fault : Bool) (w : Word) (r : PathRec) : Prop :=
  (AnswersNak k fault w r ∧ 32 ≤ r.naks + 1) ∨ (AnswersNone k fault w r ∧ limit ≤ r.probes + 1)

/-- A probe's answer fails the command: a FAULT, the error that brings the error count to 3, or with the count at 3 the one
that brings the final-attempt count to 3 (R137). -/
abbrev FailsCommand (limit : Nat) (k : PathKind) (fault : Bool) (w : Word) (r : PathRec) : Prop :=
  AnswersFault k fault w r ∨ (AnswersError limit k fault w r ∧ (r.errs = 2 ∨ (3 ≤ r.errs ∧ 3 ≤ r.fin + 1)))

/-- A probe of a locker is on the M-port, memory holds a word in its ACK cell, and one path alone is PROBING (R132, R133). -/
abbrev ProbeOf (l : Locker) (k : PathKind) (w : Word) (x : Txn) (port2 : List PortWrite) (s : State) : Prop :=
  s.mpi.port = some ⟨.probe l, x⟩ ∧ (s.mem.port2 port2).readBeats x = [w] ∧ ((s.paths l).get k).st = .probing
    ∧ ∀ j : PathKind, j ≠ k → ((s.paths l).get j).st ≠ .probing

/-- A poll of a locker is on the M-port in OPERATING, and memory holds a word in its SENSE cell (R149, R150). -/
abbrev PollOf (k : PollKind) (l : Locker) (w : Word) (x : Txn) (port2 : List PortWrite) (s : State) : Prop :=
  s.mode = .operating ∧ s.mpi.port = some ⟨.poll k l, x⟩ ∧ (s.mem.port2 port2).readBeats x = [w]

/-- A temperature within −40 to 300 half-degrees (R151). -/
abbrev plausibleTemp (t : Int) : Prop := -40 ≤ t ∧ t ≤ 300

/-- What validation leaves of a sampler record, from a reading with fields: the latest valid sample, and on frame polls the
sequence and the two counts (R151, R152). -/
abbrev judgedSampler (k : PollKind) (staleLimit : Nat) (r : SamplerRec) (x : Sense) : SamplerRec :=
  let latest := if plausibleTemp x.temp then some x.temp else r.latest
  match k with
  | .fast => { r with latest := latest }
  | .frame =>
    { latest := latest, lastSeq := some x.seq,
      stale := if r.lastSeq = some x.seq then min staleLimit (r.stale + 1) else 0,
      implausible := if plausibleTemp x.temp then 0 else min 3 (r.implausible + 1) }

/-- The first quarantine cause that a reading with fields hands on (R151 to R153): on a frame poll IMPLAUSIBLE at the third
implausible in a row, or STALE at the stale limit; on any poll OVERTEMP. -/
abbrev pollCause (k : PollKind) (c : Copies) (r : SamplerRec) (x : Sense) : Option Reason :=
  if k = .frame ∧ ¬ plausibleTemp x.temp ∧ 3 ≤ r.implausible + 1 then some .implausible
  else if k = .frame ∧ r.lastSeq = some x.seq ∧ c.staleLimit ≤ r.stale + 1 then some .stale
  else if plausibleTemp x.temp ∧ 2 * (c.overtempC : Int) ≤ x.temp then some .overtemp
  else none

/-- The row of a poll's completion. -/
abbrev pollComplete (k : PollKind) (port2 : List PortWrite) (fault : Bool) : Instr :=
  match k with
  | .frame => .framePollComplete port2 fault
  | .fast => .fastPollComplete port2 fault

/-- A path whose command has failed: no command outstanding, its error count at 3 (R137). -/
abbrev failedPath (r : PathRec) : PathRec := { r with st := .idle, probes := 0, naks := 0, fin := 0, errs := 3 }

/-- What a seconds event leaves of a locker's lockout (R76). -/
abbrev lockoutCounted (c : Context) : Context :=
  if c.lockedOut = false then c
  else if c.lockoutLeft ≤ 1 then { c with lockedOut := false, lockoutLeft := 0, attempts := 0 }
  else { c with lockoutLeft := c.lockoutLeft - 1 }

/-- What a seconds event counts of a HOLDING or COLLECTING locker's times (R156, R157). -/
abbrev timesCounted (s : State) (l : Locker) : Context :=
  { s.ctx l with
    hold := min 65535 ((s.ctx l).hold + 1),
    cold := if (∃ v, (s.sampler l).latest = some v ∧ v < (s.opts l).lower) then min 65535 ((s.ctx l).cold + 1)
      else (s.ctx l).cold }

/-- A count has reached its class limit: hold-elapsed, or cold-dwell where its limit is not 0 (R158). -/
abbrev holdReached (s : State) (l : Locker) (c : Context) : Prop := (s.opts l).holdMin * 60 ≤ c.hold
abbrev coldReached (s : State) (l : Locker) (c : Context) : Prop := (s.opts l).coldLimit ≠ 0 ∧ (s.opts l).coldLimit ≤ c.cold

/-- The ms left of the dwell that a supply row completes (R164). -/
abbrev dwellLeft (c : Instr) (u : Sup) : Nat :=
  match c with
  | .shedTrip => 20 - u.shedTrip.getD 0
  | .cutTrip => 20 - u.cutTrip.getD 0
  | .shedRelease => 2000 - u.shedRelease.getD 0
  | .cutRelease => 2000 - u.cutRelease.getD 0
  | _ => 0

/-- A dwell timer some ms later: it runs on, at most to its dwell, or starts at 0, in a supply state that names it while its
condition holds, and is clear otherwise (R164, R166). -/
abbrev timerAfter (dwell elapsed : Nat) (named condition : Prop) [Decidable named] [Decidable condition]
    (timer : Option Nat) : Option Nat :=
  if named ∧ condition then some (min dwell ((timer.map (· + elapsed)).getD 0)) else none

/-- The four dwell timers of a supply state after some ms, at a level of FEED (R163, R164, R166). -/
abbrev timersOf (st : Supply) (feed elapsed : Nat) (c : Copies) (u : Sup) : Sup :=
  { st := st,
    shedTrip := timerAfter 20 elapsed (st = .normal) (feed < (Config.shedPoints c.shedCode).1) u.shedTrip,
    cutTrip := timerAfter 20 elapsed (st = .normal ∨ st = .shed) (feed < (Config.cutPoints c.cutCode).1) u.cutTrip,
    shedRelease := timerAfter 2000 elapsed (st = .shed) ((Config.shedPoints c.shedCode).2 < feed) u.shedRelease,
    cutRelease := timerAfter 2000 elapsed (st = .cut) ((Config.cutPoints c.cutCode).2 < feed) u.cutRelease }

/-- The six rows that write a COMMAND word, with the address and the word (R22, R63). -/
def commandRow : Instr → Option (Addr × Word)
  | .assign addr tag cls hi => some (addr, commandWord tag 1 cls hi)
  | .cancel addr tag cls hi => some (addr, commandWord tag 2 cls hi)
  | .load addr tag cls hi => some (addr, commandWord tag 3 cls hi)
  | .collect addr tag cls hi => some (addr, commandWord tag 4 cls hi)
  | .clear addr tag cls hi => some (addr, commandWord tag 5 cls hi)
  | .unknownKind addr kind tag cls hi => if kindUnknown kind then some (addr, commandWord tag kind cls hi) else none
  | _ => none

/-- The rows that present a transaction at the C-port (R1). -/
def onCPort : Instr → Bool
  | .cPortRead .. | .assign .. | .cancel .. | .load .. | .collect .. | .clear .. | .unknownKind .. | .codeWrite ..
  | .orderWrite .. | .readIndexWrite .. | .statusWrite .. | .attentionWrite .. | .controllerWrite .. => true
  | _ => false

/-- The rows that end a transaction on the M-port (R17). -/
def endsMPort : Instr → Bool
  | .fwdWriteLand | .fwdReadComplete .. | .mrwWriteLand | .probeComplete .. | .framePollComplete ..
  | .fastPollComplete .. | .ringRecordLand | .writeIndexLand | .statusLand | .restoreReadComplete ..
  | .ringRestoreRead .. | .readCellZeroLand => true
  | _ => false

/-- The part is OPERATING and CPI can take a transaction (R2, R5). -/
abbrev Ready (s : State) : Prop := s.mode = .operating ∧ s.cpi = .idle

/-- An address is a cell of a locker's record, the locker being below the locker count (R4, R6). -/
abbrev CellAt (s : State) (addr : Addr) (l : Locker) (cell : Fin 16) : Prop :=
  classify s.copies addr = .ltw l cell ∧ l.val < s.copies.lockerCount

end Sys2Proof
end

