-- ==== Sys2Proof/Certificates/Slice0/Obligations.lean ====
section
/-! DEFINITION. The statements for the provers, in the order of OBLIGATIONS.json. -/

open Sys2Proof Sys2Proof.Machine

/-! ### Steps and the queue of commands -/

/-- A step takes the command at the front of the queue and runs its meaning on the queue's rest; an empty queue idles
(log 26, a choice of the model). -/
def Obligations.StepRunsFrontCommand : Prop :=
  (∀ (c : Instr) (rest : List Instr) (s : State), s.pending = c :: rest → step s = exec c { s with pending := rest })
    ∧ ∀ s : State, s.pending = [] → step s = .next s

/-- No command's meaning touches the queue. -/
def Obligations.ExecKeepsWaitingCommands : Prop :=
  ∀ (c : Instr) (s t : State), exec c s = .next t → t.pending = s.pending

/-- The bytes of a maintenance frame read back as the frame's command, whatever its operands (R36). -/
def Obligations.MaintFrameReadsBack : Prop :=
  ∀ (prog : Bool) (op index : BitVec 8) (data : Word),
    (frameBytes (.maintRead index)).bind (decodeFrame prog) = some (.maintRead index)
    ∧ (frameBytes (.maintWrite prog index data)).bind (decodeFrame prog) = some (.maintWrite prog index data)
    ∧ (frameBytes (.maintErase prog index)).bind (decodeFrame prog) = some (.maintErase prog index)
    ∧ (opInvalid op = true →
        (frameBytes (.maintInvalid op index)).bind (decodeFrame prog) = some (.maintInvalid op index))

/-- What cannot arrive stops by name, with nothing done (log 2, a choice of the model): a transaction while another is in
progress, a grant while the M-port carries a transaction, a landing or completion while it carries none, an operand that
the row cannot carry (R2). While reset is asserted the C-port takes no transaction, and a transaction presented then leaves
the state as it is, held over nowhere (log 3, the model's reading of R3). -/
def Obligations.ImpossibleEventsStopByName : Prop :=
  (∀ (c : Instr) (s : State), c.wellFormed = true → onCPort c = true →
    (s.mode = .inReset → exec c s = .next s)
    ∧ (s.mode ≠ .inReset → s.cpi ≠ .idle → exec c s = .fault .busBusy))
  ∧ (∀ s : State, s.mpi.port ≠ none → exec .mportGrant s = .fault .noSuchEvent)
  ∧ (∀ (c : Instr) (s : State), s.mpi.port = none → endsMPort c = true → exec c s = .fault .noSuchEvent)
  ∧ (∀ (c : Instr) (s : State), c.wellFormed = false → exec c s = .fault .malformed)

/-! ### What every step keeps -/

/-- Every step keeps the memory in its canonical form. -/
def Obligations.StepKeepsMemoryCanonical : Prop :=
  ∀ s t : State, MemoryCanonical s → step s = .next t → MemoryCanonical t

/-- Every step keeps the fast-poll set the lockers with a latch in a sequence (R97). -/
def Obligations.StepKeepsFastPollExact : Prop :=
  ∀ s t : State, FastPollExact s → step s = .next t → FastPollExact t

/-- Every step keeps the interlock of the two latches of each locker (R84). -/
def Obligations.StepKeepsInterlock : Prop := ∀ s t : State, Interlocked s → step s = .next t → Interlocked t

/-- Every step keeps the energised count within the capacity (R105). -/
def Obligations.StepKeepsHeatWithinCapacity : Prop :=
  ∀ s t : State, HeatWithinCapacity s → step s = .next t → HeatWithinCapacity t

/-- Every step keeps energised channels behind latched hatches, and queue entries with lockers that qualify (R109,
R116). -/
def Obligations.StepKeepsHeatBehindLatched : Prop :=
  ∀ s t : State, HeatBehindLatched s → step s = .next t → HeatBehindLatched t

/-- Every step keeps the quarantine count the number of lockers in QUARANTINE (R179). -/
def Obligations.StepKeepsQuarantineCount : Prop :=
  ∀ s t : State, QuarantineCounted s → step s = .next t → QuarantineCounted t

/-- Every step keeps the lost-channel count the number of LOST channels (R179), the append queue at no more than 4 records
(R173), and at most one queue entry for each locker (R106). -/
def Obligations.StepKeepsCountsAndQueues : Prop :=
  ∀ s t : State, step s = .next t →
    (LostChannelsCounted s → LostChannelsCounted t) ∧ (AppendQueueBounded s → AppendQueueBounded t)
      ∧ (QueuesDistinct s → QueuesDistinct t)

/-- The machine right after reset is safe in every respect that steps keep. The contents of the store, FEED and memory at
reset are the model's (logs 6 and 8) and play no part here. -/
def Obligations.ResetStateIsSafe : Prop := SafeState State.reset

/-! ### Reset, validation, restore -/

/-- Each reset source leaves every block at its reset values, keeps the store and FEED, becomes the reset cause, and lets
the transaction on the M-port complete: the state is that after reset but for the queue of commands, the cause, the store,
FEED and memory; and block by block (R3, R17, R26, R30, R97, R141, R146 to R149, R170, R183). That the completion falls
inside the reset step is log 7, that FEED stands log 8, and that no copies are held is copies of 0 log 9: the model's
readings and choices. -/
def Obligations.ResetReturnsEveryBlock : Prop :=
  ∀ (s : State) (c : Instr) (cause : ResetCause),
    (c, cause) ∈ [(Instr.powerOnReset, ResetCause.powerOn), (.logicBrownout, .brownout), (.resetPin, .pin)] →
    Completes c s fun t =>
      t = { State.reset with
        pending := s.pending, cause := cause, store := s.store, feed := s.feed, mem := t.mem }
        ∧ t.mode = .inReset ∧ t.cause = cause ∧ t.store = s.store ∧ t.feed = s.feed ∧ t.cpi = .idle ∧ t.answer = none
        ∧ (∀ l : Locker, t.ctx l = Context.reset ∧ t.latch l .front = LatchRec.reset ∧ t.latch l .rear = LatchRec.reset
            ∧ (t.paths l).heat = PathRec.reset ∧ (t.paths l).latch = PathRec.reset ∧ (t.paths l).heatOn = false
            ∧ (t.paths l).relFront = false ∧ (t.paths l).relRear = false ∧ t.sampler l = SamplerRec.reset
            ∧ t.marks l = Marks.none)
        ∧ (∀ i : Chan, t.chan i = { st := .free, stamp := 0 })
        ∧ t.hsc.hq = [] ∧ t.hsc.wq = [] ∧ t.hsc.capacity = 0 ∧ t.hsc.grants = 0 ∧ t.hsc.overrun = false
        ∧ (∀ l : Locker, t.ahu.due[l.val] = false) ∧ t.ahu.probePos = 0 ∧ t.ahu.req = none
        ∧ t.smp.sweep = none ∧ t.smp.owed = false ∧ t.smp.fastPos = 0 ∧ t.smp.toggle = .fast ∧ t.smp.req = none
        ∧ (∀ l : Locker, t.smp.fastPoll[l.val] = false ∧ t.smp.fastDue[l.val] = false)
        ∧ t.mrw.lastServed = 63 ∧ t.mrw.turn = none ∧ t.mrw.promo = [] ∧ t.mrw.promoLast = none ∧ t.mrw.req = none
        ∧ t.sup = Sup.reset ∧ t.tmb = Tmb.reset ∧ t.rpw = Rpw.reset ∧ t.copies = Copies.reset ∧ t.restore = Restore.reset
        ∧ t.mpi = { pointer := .fwd, port := none } ∧ t.attnLine = false ∧ t.faultLine = false
        ∧ (s.mpi.port = none → t.mem = s.mem) ∧ (∀ m, s.mpi.port = some m → t.mem = s.mem.complete m.txn)

/-- The tests of validation, on the words of the store (R37, R184). -/
def StorePasses (st : Vector Word 64) : Prop :=
  let field (w : Word) (lo width : Nat) : Nat := (w.extractLsb' lo width).toNat
  let temp (w : Word) (lo : Nat) : Int := (w.extractLsb' lo 12).toInt
  let lt := field st[1] 0 24
  let rg := field st[2] 0 24
  let ring := 16 + 16 * (16 * 2 ^ field st[0] 12 3)
  st[63] = (st.toList.take 62).sum
  ∧ (1 ≤ field st[0] 0 7 ∧ field st[0] 0 7 ≤ 64) ∧ field st[0] 12 3 ≤ 4
  ∧ (1 ≤ field st[0] 16 5 ∧ field st[0] 16 5 ≤ 16) ∧ field st[0] 24 5 ≤ field st[0] 16 5
  ∧ lt % 4096 = 0 ∧ rg % 16 = 0 ∧ rg + ring - 1 ≤ 0xFFFFFF
  ∧ (∀ a, ¬ (lt ≤ a ∧ a < lt + 4096 ∧ rg ≤ a ∧ a < rg + ring))
  ∧ (2 ≤ field st[7] 12 4 ∧ field st[7] 12 4 ≤ 15) ∧ (4 ≤ field st[7] 16 4 ∧ field st[7] 16 4 ≤ 15)
  ∧ (1 ≤ field st[7] 20 4 ∧ field st[7] 20 4 ≤ 15) ∧ (5 ≤ field st[8] 0 6 ∧ field st[8] 0 6 ≤ 60)
  ∧ (30 ≤ field st[8] 16 10 ∧ field st[8] 16 10 ≤ 600) ∧ (1 ≤ field st[9] 8 6 ∧ field st[9] 8 6 ≤ 60)
  ∧ (60 ≤ field st[9] 0 8 ∧ field st[9] 0 8 ≤ 150)
  ∧ ∀ c : Fin 8,
      let lower := temp st[10 + 2 * c.val] 0
      let upper := temp st[10 + 2 * c.val] 16
      let load := temp st[11 + 2 * c.val] 0
      plausibleTemp lower ∧ plausibleTemp upper ∧ lower < upper ∧ plausibleTemp load ∧ load ≤ upper
      ∧ field st[11 + 2 * c.val] 12 8 ≤ 240 ∧ field st[11 + 2 * c.val] 20 10 ≤ 900
      ∧ upper < 2 * (field st[9] 0 8 : Int)

/-- The copies that the words of the store give (R37, R71, R184). -/
def StoreGives (st : Vector Word 64) (c : Copies) : Prop :=
  let field (w : Word) (lo width : Nat) : Nat := (w.extractLsb' lo width).toNat
  let temp (w : Word) (lo : Nat) : Int := (w.extractLsb' lo 12).toInt
  let window (base mask : Word) (enabled : Bool) : GuardWindow :=
    { base := (base &&& 0xFFFFFC).extractLsb' 0 24, mask := (mask &&& 0xFFFFFC).extractLsb' 0 24, enabled := enabled }
  c.lockerCount = field st[0] 0 7 ∧ c.frameMs = 125 * 2 ^ field st[0] 8 2 ∧ c.ringSize = 16 * 2 ^ field st[0] 12 3
  ∧ c.cmax = field st[0] 16 5 ∧ c.cshed = field st[0] 24 5
  ∧ c.ltBase.toNat = field st[1] 0 24 ∧ c.rgBase.toNat = field st[2] 0 24
  ∧ c.g0 = window st[3] st[4] (st[7].getLsbD 0) ∧ c.g1 = window st[5] st[6] (st[7].getLsbD 1)
  ∧ c.shedCode.val = field st[7] 4 2 ∧ c.cutCode.val = field st[7] 8 2 ∧ c.ackLimit = field st[7] 12 4
  ∧ c.staleLimit = field st[7] 16 4 ∧ c.lockoutAttempts = field st[7] 20 4 ∧ c.openWait = field st[8] 0 6
  ∧ c.hatchHeld = field st[8] 16 10 ∧ c.overtempC = field st[9] 0 8 ∧ c.lockoutMin = field st[9] 8 6
  ∧ (∀ k : Fin 8, c.classes[k.val] = {
      lower := temp st[10 + 2 * k.val] 0, upper := temp st[10 + 2 * k.val] 16, load := temp st[11 + 2 * k.val] 0,
      holdMin := field st[11 + 2 * k.val] 12 8, coldLimit := field st[11 + 2 * k.val] 20 10 })
  ∧ ∀ e : Fin 4, c.staff[e.val] = {
      code := st[26 + 2 * e.val], mask := st[27 + 2 * e.val], enabled := st[34].getLsbD e.val }

/-- The release of reset begins validation and changes nothing else. A store is valid when it passes every test of R184, and
the copies are its fields. With no transaction held, validation that passes gives every block its copies, sets the capacity
to Cmax, starts the probe-interval phase and enters RESTORING; validation that fails enters UNCONFIGURED and changes nothing
else (R37, R71, R183, R184). -/
def Obligations.ValidationSetsModeAndCopies : Prop :=
  (∀ st : Vector Word 64, (storeValid st = true ↔ StorePasses st) ∧ StoreGives st (storeCopies st)) ∧
  (∀ s : State, s.mode = .inReset → exec .resetRelease s = .next { s with mode := .validating })
  ∧ ∀ s : State, s.mode = .validating → s.cpi = .idle →
    (storeValid s.store = false → exec .validationDone s = .next { s with mode := .unconfigured })
    ∧ (storeValid s.store = true → s.mrw.turn = none → Completes .validationDone s fun t =>
        t.mode = .restoring ∧ t.copies = storeCopies s.store ∧ t.hsc.capacity = (storeCopies s.store).cmax
          ∧ t.mrw.lastServed.val = ((storeCopies s.store).lockerCount - 1) % 64 ∧ t.tmb.probe = some 0
          ∧ t.rpw.stage = .readWrite ∧ t.restore = Restore.reset ∧ t.store = s.store ∧ LockersKept s t
          ∧ t.hsc.chans = s.hsc.chans ∧ t.ahu.paths = s.ahu.paths ∧ t.mem = s.mem)

/-- A transaction that arrives during validation is held with reason START. At a validation that fails, a write is then
refused with no report and a read is forwarded. At one that passes it is released under RESTORING: a read is forwarded; a
write that touches the locker table window or the ring window is refused with no report; one that touches neither but a
guard window is refused with a GUARD record of the first such beat; one that is all passthrough is forwarded unchanged (R3,
R9, R14, R15). -/
def Obligations.ValidationHoldsTransactions : Prop :=
  (∀ (s : State) (addr : Addr) (lanes : BitVec 4) (data : List Word),
    s.mode = .validating → s.cpi = .idle → beatsOk data.length = true →
    exec (.controllerWrite addr lanes data) s = .next { s with
      answer := none, cpi := .held { write := true, addr := addr, lanes := lanes, len := data.length, data := data }
        true false false })
  ∧ (∀ (s : State) (addr : Addr) (lanes : BitVec 4) (len : Nat),
    s.mode = .validating → s.cpi = .idle → beatsOk len = true →
    exec (.cPortRead addr lanes len) s = .next { s with
      answer := none, cpi := .held { write := false, addr := addr, lanes := lanes, len := len, data := [] }
        true false false })
  ∧ (∀ (s : State) (x : Txn), s.mode = .validating → s.cpi = .held x true false false → 1 ≤ x.len →
    storeValid s.store = false →
    exec .validationDone s = .next (if x.write then { s with mode := .unconfigured, cpi := .idle, answer := some .refused }
      else { s with mode := .unconfigured, cpi := .waiting x .none }))
  ∧ (∀ (s : State) (x : Txn), s.mode = .validating → s.cpi = .held x true false false → storeValid s.store = true →
    s.rpw.adopted = false →
    let classOf := classify (storeCopies s.store)
    Completes .validationDone s fun t =>
      t.mode = .restoring ∧ t.copies = storeCopies s.store ∧ t.mem = s.mem ∧ LockersKept s t
      ∧ t.mrw.marks = s.mrw.marks
      ∧ (x.write = false → t.cpi = .waiting x .none ∧ t.rpw.queue = s.rpw.queue)
      ∧ (x.write = true → (∃ a ∈ x.beats, classOf a ≠ .guard ∧ classOf a ≠ .pass) →
          t.cpi = .idle ∧ t.answer = some .refused ∧ t.rpw.queue = s.rpw.queue)
      ∧ (∀ k < x.len, x.write = true → (∀ a ∈ x.beats, classOf a = .guard ∨ classOf a = .pass) →
          classOf (x.beatAddr k) = .guard → (∀ j < k, classOf (x.beatAddr j) ≠ .guard) →
          t.cpi = .idle ∧ t.answer = some .refused
            ∧ Handed (recordOfNone s .writeRefused 1 ((x.beatAddr k).zeroExtend 32)) s t)
      ∧ (x.write = true → (∀ a ∈ x.beats, classOf a = .pass) →
          t.cpi = .waiting x .none ∧ t.rpw.queue = s.rpw.queue))

/-- In UNCONFIGURED every write is refused at arrival with no report, and every read is forwarded at arrival (R14). -/
def Obligations.UnconfiguredPassage : Prop :=
  ∀ (s : State) (addr : Addr) (lanes : BitVec 4), s.mode = .unconfigured → s.cpi = .idle →
    (∀ data : List Word, beatsOk data.length = true →
      exec (.controllerWrite addr lanes data) s = .next { s with cpi := .idle, answer := some .refused })
    ∧ (∀ len : Nat, beatsOk len = true →
      exec (.cPortRead addr lanes len) s = .next { s with
        answer := none, cpi := .waiting { write := false, addr := addr, lanes := lanes, len := len, data := [] } .none })

/-- In RESTORING a write that touches the locker table window or the ring window is refused with no report; one that
touches neither but a guard window is refused, with a GUARD record that names the first such beat; one whose beats are all
passthrough is forwarded unchanged; and reads are forwarded and not held (R9, R15). -/
def Obligations.RestoringPassage : Prop :=
  ∀ (s : State) (addr : Addr) (lanes : BitVec 4), s.mode = .restoring → s.cpi = .idle →
    (∀ (data : List Word), beatsOk data.length = true →
      let x : Txn := { write := true, addr := addr, lanes := lanes, len := data.length, data := data }
      ((∃ a ∈ x.beats, classify s.copies a ≠ .guard ∧ classify s.copies a ≠ .pass) →
        Completes (.controllerWrite addr lanes data) s fun t =>
          t.cpi = .idle ∧ t.answer = some .refused ∧ OutsideKept s t ∧ ClockKept s t ∧ LockersKept s t ∧ HeatKept s t
            ∧ t.mrw.marks = s.mrw.marks ∧ RingKept s t ∧ (s.ringFull = false → t.rpw.queue = s.rpw.queue))
      ∧ (∀ k < data.length, (∀ a ∈ x.beats, classify s.copies a = .guard ∨ classify s.copies a = .pass) →
          classify s.copies (x.beatAddr k) = .guard → (∀ j < k, classify s.copies (x.beatAddr j) ≠ .guard) →
          s.ringFull = false →
        Completes (.controllerWrite addr lanes data) s fun t =>
          t.cpi = .idle ∧ t.answer = some .refused ∧ OutsideKept s t ∧ ClockKept s t ∧ LockersKept s t ∧ HeatKept s t
            ∧ t.mrw.marks = s.mrw.marks ∧ RingKept s t
            ∧ Handed (recordOfNone s .writeRefused 1 ((x.beatAddr k).zeroExtend 32)) s t)
      ∧ ((∀ a ∈ x.beats, classify s.copies a = .pass) →
        Completes (.controllerWrite addr lanes data) s fun t =>
          t.cpi = .waiting x .none ∧ OutsideKept s t ∧ ClockKept s t ∧ LockersKept s t ∧ HeatKept s t
            ∧ t.mrw.marks = s.mrw.marks ∧ RingKept s t))
    ∧ (∀ len : Nat, beatsOk len = true → Completes (.cPortRead addr lanes len) s fun t =>
        t.cpi = .waiting { write := false, addr := addr, lanes := lanes, len := len, data := [] } .none ∧ OutsideKept s t
          ∧ ClockKept s t ∧ LockersKept s t ∧ HeatKept s t ∧ t.mrw.marks = s.mrw.marks)

/-- When the third of a locker's restore reads completes, the locker is restored in one event: its context from STATE, the
two restore commands with the sequences read plus 1, both latches in the restore's relatch, and all five marks (R40,
R185). -/
def Obligations.RestoreReadRestoresLocker : Prop :=
  ∀ (s : State) (m : MTxn) (l : Locker) (port2 : List PortWrite) (fault : Bool) (w : Word),
    s.mode = .restoring → s.mpi.port = some m → m.tag = .restoreRead → s.restoring = some l → s.restore.cell = .latch →
    (s.mem.port2 port2).readBeats m.txn = [w] →
    Completes (.restoreReadComplete port2 fault) s fun t =>
      (∀ st, s.restore.stateWord = some st → readsVacant st = true → t.ctx l = Context.reset)
      ∧ (∀ st, s.restore.stateWord = some st → readsVacant st = false →
          t.ctx l = { Context.reset with life := .quarantine, reason := .restart, cls := stateClass st })
      ∧ (s.restore.stateWord = none → t.ctx l = { Context.reset with life := .quarantine, reason := .restart })
      ∧ (t.paths l).heatOn = false ∧ (t.paths l).heat.st = .writing
      ∧ (t.paths l).heat.seq = (s.restore.heatWord.map cellSeq).getD 0 + 1
      ∧ (t.paths l).relFront = false ∧ (t.paths l).relRear = false ∧ (t.paths l).latch.st = .writing
      ∧ (t.paths l).latch.seq = (if fault then 0 else cellSeq w) + 1
      ∧ (t.latch l .front).st = .relatchPending ∧ (t.latch l .front).kind = .restore
      ∧ (t.latch l .rear).st = .relatchPending ∧ (t.latch l .rear).kind = .restore
      ∧ t.marks l = { heat := true, latch := true, state := true, hold := true, codeZero := true }
      ∧ t.smp.fastPoll[l.val] = true ∧ t.restore.next = s.restore.next + 1 ∧ OtherLockersKept l s t

/-- The ring's part of the restore: the third control word read keeps indices below R or has both cells zeroed, and the
landing of the READ cell's zero takes 0 for both indices (R186). -/
def Obligations.RingRestoreKeepsOrZeroesIndices : Prop :=
  (∀ (s : State) (m : MTxn) (port2 : List PortWrite) (fault : Bool) (w : Word),
    s.mode = .restoring → s.mpi.port = some m → m.tag = .ringRestoreRead → s.rpw.stage = .readAttention →
    s.rpw.adopted = false → (s.mem.port2 port2).readBeats m.txn = [w] →
    Completes (.ringRestoreRead port2 fault) s fun t =>
      t.rpw.mask = (if fault then 0 else w &&& 0x003FFFFE) ∧ t.rpw.queue = s.rpw.queue ∧ LockersKept s t
      ∧ (∀ x y, s.rpw.keptWrite = some x → s.rpw.keptRead = some y → x.toNat < s.copies.ringSize →
          y.toNat < s.copies.ringSize → t.rpw.write = x.toNat ∧ t.rpw.read = y.toNat ∧ t.rpw.stage = .zeroStatus)
      ∧ ((∀ x y, s.rpw.keptWrite = some x → s.rpw.keptRead = some y →
          ¬ (x.toNat < s.copies.ringSize ∧ y.toNat < s.copies.ringSize)) → t.rpw.stage = .zeroWrite))
  ∧ (∀ (s : State) (m : MTxn), s.mode = .restoring → s.mpi.port = some m → m.tag = .ringReadCell →
    s.rpw.adopted = false →
    Completes .readCellZeroLand s fun t =>
      t.rpw.write = 0 ∧ t.rpw.read = 0 ∧ t.rpw.stage = .zeroStatus ∧ t.mem = s.mem.complete m.txn)

/-- When its conditions hold, the restore ends: the mode is OPERATING, the seconds counter is 0, the frame and seconds
phases start, and the RESTORED record is handed to RPW (R187). -/
def Obligations.RestoreEndEntersOperating : Prop :=
  ∀ s : State, s.mode = .restoring → s.copies.lockerCount ≤ s.restore.next → s.rpw.adopted = true →
    s.ringFull = false →
    (∀ l : Locker, l.val < s.copies.lockerCount →
      (s.paths l).heat.st = .idle ∧ (s.paths l).latch.st = .idle ∧ (s.marks l).any = false) →
    Completes .restoreEnd s fun t =>
      t.mode = .operating ∧ t.tmb.seconds = 0 ∧ t.tmb.frame = some 0 ∧ t.tmb.second = some 0
        ∧ t.tmb.probe = s.tmb.probe ∧ LockersKept s t ∧ HeatKept s t ∧ t.mem = s.mem
        ∧ Handed { kind := .restored, locker := 255, detail := BitVec.ofNat 16 s.cause.code, order := 0, time := 0,
                   data := BitVec.ofNat 32 (s.lockers.countP fun l => (s.ctx l).life = .quarantine) } s t

/-! ### The controller's transactions -/

/-- An address agrees with an enabled guard window's base in every bit of its mask, bits 1 and 0 apart (R4). -/
abbrev InGuard (g : GuardWindow) (a : Addr) : Prop :=
  g.enabled = true ∧ ∀ i : Nat, 2 ≤ i → i < 24 → g.mask.getLsbD i = true → a.getLsbD i = g.base.getLsbD i

/-- The cause that a write beat shows in OPERATING, by its word address. In the locker table window: RANGE for a record at or
above the locker count; of the other records' words, 0 to 2 TORN unless the write is a single full one, 3 to 8 OWNER, 9 to 15
none. In the ring window: OWNER for the WRITE index and the record area, and for READ, STATUS and ATTENTION TORN unless the
write is a single full one, when a READ index outside the unread span shows RANGE. Elsewhere: GUARD in a guard window (R4, R6
to R8). -/
def BeatCauses : Prop :=
  ∀ (s : State) (x : Txn) (a : Addr), s.mode = .operating →
    let full : Prop := x.len = 1 ∧ x.lanes = 0xF
    let w := (wordAddr a).toNat
    let lt := s.copies.ltBase.toNat
    let rg := s.copies.rgBase.toNat
    let r := s.copies.ringSize
    let inTable : Prop := lt ≤ w ∧ w < lt + 4096
    let inRing : Prop := ¬ inTable ∧ rg ≤ w ∧ w < rg + (16 + 16 * r)
    let record := (w - lt) / 64
    let cell := (w - lt) % 64 / 4
    let word := (w - rg) / 4
    (inTable →
      (s.copies.lockerCount ≤ record → causeOf s x a = some .range)
      ∧ (record < s.copies.lockerCount →
          (cell ≤ 2 → full → causeOf s x a = none)
          ∧ (cell ≤ 2 → ¬ full → causeOf s x a = some .torn)
          ∧ (3 ≤ cell → cell ≤ 8 → causeOf s x a = some .owner)
          ∧ (9 ≤ cell → causeOf s x a = none)))
    ∧ (inRing →
      (word = 0 ∨ 4 ≤ word → causeOf s x a = some .owner)
      ∧ (1 ≤ word → word ≤ 3 → ¬ full → causeOf s x a = some .torn)
      ∧ (2 ≤ word → word ≤ 3 → full → causeOf s x a = none)
      ∧ ∀ d : Word, word = 1 → full → x.data = [d] →
          let taken : Prop := d.toNat < r ∧ (d.toNat + r - s.rpw.read) % r ≤ (s.rpw.write + r - s.rpw.read) % r
          (taken → causeOf s x a = none) ∧ (¬ taken → causeOf s x a = some .range))
    ∧ (¬ inTable → ¬ inRing →
      (InGuard s.copies.g0 a ∨ InGuard s.copies.g1 a → causeOf s x a = some .guard)
      ∧ (¬ InGuard s.copies.g0 a → ¬ InGuard s.copies.g1 a → causeOf s x a = none))

/-- A refused write of OPERATING. Which cause a beat shows follows from its word address, the lanes, the length, and for the
READ index its value. The governing cause is the first in the order NOT_READY, RANGE, OWNER, TORN, GUARD that a beat shows,
and the governing beat the earliest that shows it. The answer is REFUSED, nothing but the report queue changes, and one
record names the cause, the beat and its locker (R4, R5, R6 to R9). -/
def Obligations.RefusedWriteIsReported : Prop :=
  BeatCauses ∧
  ∀ (s : State) (addr : Addr) (lanes : BitVec 4) (data : List Word) (k : Nat) (c : Cause),
    Ready s → beatsOk data.length = true → s.ringFull = false → k < data.length →
    let x : Txn := { write := true, addr := addr, lanes := lanes, len := data.length, data := data }
    causeOf s x (x.beatAddr k) = some c → (∀ j < k, causeOf s x (x.beatAddr j) ≠ some c) →
    (∀ before after, [Cause.notReady, .range, .owner, .torn, .guard] = before ++ c :: after →
      ∀ d ∈ before, ∀ j < data.length, causeOf s x (x.beatAddr j) ≠ some d) →
    Completes (.controllerWrite addr lanes data) s fun t =>
      t.cpi = .idle ∧ t.answer = some .refused ∧ OutsideKept s t ∧ ClockKept s t ∧ LockersKept s t ∧ HeatKept s t
        ∧ SamplesKept s t ∧ t.mrw.marks = s.mrw.marks ∧ RingKept s t
        ∧ (∀ l : Locker, (∃ cell, classify s.copies (x.beatAddr k) = .ltw l cell) → l.val < s.copies.lockerCount →
            Handed { kind := .writeRefused, locker := BitVec.ofNat 8 l.val, detail := BitVec.ofNat 16 c.code,
                     order := (s.ctx l).order, time := s.tmb.seconds, data := (x.beatAddr k).zeroExtend 32 } s t)
        ∧ ((∀ l cell, classify s.copies (x.beatAddr k) = .ltw l cell → s.copies.lockerCount ≤ l.val) →
            Handed { kind := .writeRefused, locker := 255, detail := BitVec.ofNat 16 c.code, order := 0,
                     time := s.tmb.seconds, data := (x.beatAddr k).zeroExtend 32 } s t)

/-- A beat of a guard window shows GUARD, and a passthrough beat no cause. A write whose beats show no cause, one of them
passthrough or all of them words 9 to 15 of records, is forwarded unchanged, with its length and lanes, and nothing else
changes (R8, R23). -/
def Obligations.OrdinaryWriteIsForwarded : Prop :=
  ∀ (s : State) (addr : Addr) (lanes : BitVec 4) (data : List Word), Ready s → beatsOk data.length = true →
    let x : Txn := { write := true, addr := addr, lanes := lanes, len := data.length, data := data }
    (∀ a, classify s.copies a = .guard → causeOf s x a = some .guard)
    ∧ (∀ a, classify s.copies a = .pass → causeOf s x a = none)
    ∧ ((∀ a ∈ x.beats, causeOf s x a = none) →
       ((∃ a ∈ x.beats, classify s.copies a = .pass)
          ∨ ∀ a ∈ x.beats, ∃ l cell, classify s.copies a = .ltw l cell ∧ 9 ≤ cell.val) →
       Completes (.controllerWrite addr lanes data) s fun t =>
        t.cpi = .waiting x .none ∧ OutsideKept s t ∧ ClockKept s t ∧ LockersKept s t ∧ HeatKept s t ∧ SamplesKept s t
          ∧ t.mrw.marks = s.mrw.marks ∧ RingKept s t)

/-- A CODE write is captured at once as the presented code, clears the CODE-zero mark, and is forwarded unchanged; nothing
else of the lockers changes (R6, R20). -/
def Obligations.CodeWriteIsCaptured : Prop :=
  ∀ (s : State) (addr : Addr) (data : Word) (l : Locker), Ready s → CellAt s addr l 1 →
    Completes (.codeWrite addr data) s fun t =>
      t.cpi = .waiting (writeTxn addr [data]) .none ∧ t.ctx l = { s.ctx l with presCode := data }
        ∧ (∀ (k : Locker) (c : MarkCell), (t.marks k).has c = if k = l ∧ c = .codeZero then false else (s.marks k).has c)
        ∧ OtherLockersKept l s t ∧ t.ltc = s.ltc ∧ OutsideKept s t ∧ ClockKept s t ∧ HeatKept s t ∧ SamplesKept s t
        ∧ RingKept s t

/-- An ORDER write sets the presented order to bits 23 to 0 of the written word; the whole word is forwarded (R6, R21). -/
def Obligations.OrderWriteIsCaptured : Prop :=
  ∀ (s : State) (addr : Addr) (data : Word) (l : Locker), Ready s → CellAt s addr l 2 →
    Completes (.orderWrite addr data) s fun t =>
      t.cpi = .waiting (writeTxn addr [data]) .none ∧ t.ctx l = { s.ctx l with presOrder := data.extractLsb' 0 24 }
        ∧ t.mrw.marks = s.mrw.marks ∧ OtherLockersKept l s t ∧ t.ltc = s.ltc ∧ OutsideKept s t ∧ ClockKept s t
        ∧ HeatKept s t ∧ SamplesKept s t ∧ RingKept s t

/-- A READ index write is taken and forwarded unchanged when its value lies in the unread span, and is otherwise refused
RANGE with a record, READ and memory unchanged (R7, R177). -/
def Obligations.ReadIndexWriteIsJudgedBySpan : Prop :=
  ∀ (s : State) (addr : Addr) (data : Word), Ready s → classify s.copies addr = .ringCtl 1 →
    s.rpw.read < s.copies.ringSize → s.rpw.write < s.copies.ringSize →
    let taken := data.toNat < s.copies.ringSize
      ∧ (data.toNat + s.copies.ringSize - s.rpw.read) % s.copies.ringSize
        ≤ (s.rpw.write + s.copies.ringSize - s.rpw.read) % s.copies.ringSize
    (taken → Completes (.readIndexWrite addr data) s fun t =>
      t.cpi = .waiting (writeTxn addr [data]) .readIndex ∧ RingKept s t ∧ OutsideKept s t ∧ LockersKept s t)
    ∧ (¬ taken → Completes (.readIndexWrite addr data) s fun t =>
      t.cpi = .idle ∧ t.answer = some .refused ∧ RingKept s t ∧ OutsideKept s t ∧ LockersKept s t
        ∧ (s.ringFull = false → Handed
            { kind := .writeRefused, locker := 255, detail := 4, order := 0, time := s.tmb.seconds,
              data := (wordAddr addr).zeroExtend 32 } s t))

/-- A single full write of STATUS is forwarded as a word of zero, and one of the ATTENTION mask unchanged (R7). -/
def Obligations.StatusAndAttentionWritesAreForwarded : Prop :=
  ∀ (s : State) (addr : Addr) (data : Word), Ready s →
    (classify s.copies addr = .ringCtl 2 → Completes (.statusWrite addr data) s fun t =>
      t.cpi = .waiting (writeTxn addr [0]) .status ∧ RingKept s t ∧ OutsideKept s t ∧ LockersKept s t ∧ HeatKept s t)
    ∧ (classify s.copies addr = .ringCtl 3 → Completes (.attentionWrite addr data) s fun t =>
      t.cpi = .waiting (writeTxn addr [data]) .attention ∧ RingKept s t ∧ OutsideKept s t ∧ LockersKept s t
        ∧ HeatKept s t)

/-- A read is held with reason MIRROR when it touches a marked record below the locker count, and with reason RING when it
touches the ring while a ring operation is in flight; otherwise it is forwarded at arrival. For MIRROR, MRW takes the
records named, in ascending index, as its promotion list, the write order of its head begun again at HEAT; a request that
stands is then one for the head: the one that stood for it, or, where no mirror write is on the M-port and none stood, one
for the head's first marked cell (R10, R11, R26, R28). -/
def Obligations.ReadIsHeldBehindMarksAndRing : Prop :=
  ∀ (s : State) (addr : Addr) (lanes : BitVec 4) (len : Nat), Ready s → beatsOk len = true →
    let x : Txn := { write := false, addr := addr, lanes := lanes, len := len, data := [] }
    let touched (l : Locker) : Prop := l.val < s.copies.lockerCount ∧ (s.marks l).any = true
      ∧ ∃ a ∈ x.beats, ∃ cell, classify s.copies a = .ltw l cell
    let named : Prop := ∃ l : Locker, touched l
    let ring : Prop := s.rpw.op.inFlight = true
      ∧ ∃ a ∈ x.beats, (∃ w, classify s.copies a = .ringCtl w) ∨ classify s.copies a = .ringArea
    Completes (.cPortRead addr lanes len) s fun t =>
      (¬ named ∧ ¬ ring → t.cpi = .waiting x .none)
      ∧ (named ∧ ¬ ring → t.cpi = .held x false true false)
      ∧ (¬ named ∧ ring → t.cpi = .held x false false true)
      ∧ (named ∧ ring → t.cpi = .held x false true true)
      ∧ (named → (∀ l : Locker, l ∈ t.mrw.promo ↔ touched l) ∧ t.mrw.promo.Pairwise (fun k l => k.val < l.val)
          ∧ t.mrw.promoLast = none ∧ (∀ l c, t.mrw.req = some (l, c) → t.mrw.promo.head? = some l)
          ∧ ∀ l c, t.mrw.promo.head? = some l →
              (s.mrw.req = some (l, c) → (s.marks l).has c = true → t.mrw.req = some (l, c))
              ∧ (s.mirrorFlying = false → (∀ d, s.mrw.req ≠ some (l, d)) →
                  FirstMarked (s.marks l) (cellsAfter none) c → t.mrw.req = some (l, c)))
      ∧ (¬ named → t.mrw.promo = s.mrw.promo ∧ t.mrw.promoLast = s.mrw.promoLast)
      ∧ t.answer = none ∧ OutsideKept s t ∧ ClockKept s t ∧ LockersKept s t ∧ HeatKept s t ∧ SamplesKept s t
      ∧ t.mrw.marks = s.mrw.marks ∧ RingKept s t

/-! ### Commands -/

/-- Every command write to a locker's COMMAND cell is evaluated at its arrival: the word forwarded carries the tag, kind
and class as written, the outcome, and no other bit; the presented code is zeroed and the CODE-zero mark set; no other
locker changes (R13, R22, R65). -/
def Obligations.CommandIsEvaluatedAndForwarded : Prop :=
  ∀ (c : Instr) (addr : Addr) (w : Word) (s : State) (l : Locker),
    commandRow c = some (addr, w) → Ready s → CellAt s addr l 0 →
    Completes c s fun t =>
      (∃ f : Word, t.cpi = .waiting (writeTxn addr [f]) .none ∧ f.extractLsb' 0 8 = w.extractLsb' 0 8
        ∧ f.extractLsb' 8 4 = w.extractLsb' 8 4 ∧ f.extractLsb' 12 3 = w.extractLsb' 12 3
        ∧ f.extractLsb' 16 4 = (evaluate s l w).toCode ∧ f.extractLsb' 15 1 = 0 ∧ f.extractLsb' 20 12 = 0)
      ∧ (t.ctx l).presCode = 0 ∧ (t.ctx l).presOrder = (s.ctx l).presOrder ∧ (t.marks l).codeZero = true
      ∧ OtherLockersKept l s t ∧ OutsideKept s t ∧ ClockKept s t

/-- The outcome is that of the first test that fails: the kind, the running sequence, then the tests of the kind in their
order. A code matches the staff table when an enabled entry's code agrees with it in every bit where the entry's mask holds 1
(R64, R66 to R70, R71). -/
def Obligations.OutcomeFollowsTestOrder : Prop :=
  (∀ (s : State) (code : Word), s.staffMatch code = true ↔
    ∃ e : Fin 4, let entry := s.copies.staff[e.val]
      entry.enabled = true ∧ ∀ i : Nat, i < 32 → entry.mask.getLsbD i = true → code.getLsbD i = entry.code.getLsbD i) ∧
  ∀ (s : State) (l : Locker) (w : Word),
    let c := s.ctx l
    let kind := w.extractLsb' 8 4
    let busy := c.life = .loading ∨ c.life = .collecting ∨ c.life = .clearing
    (kind = 0 ∨ 5 < kind → evaluate s l w = .unknown)
    ∧ (0 < kind ∧ kind ≤ 5 ∧ busy → evaluate s l w = .busy)
    ∧ (¬ busy →
      (kind = 1 → evaluate s l w =
        if c.life ≠ .vacant then .state
        else if (s.copies.classes[(w.extractLsb' 12 3).toFin.val]).holdMin = 0 then .cls
        else if c.presCode = 0 then .code else .accepted)
      ∧ (kind = 2 → evaluate s l w = if c.life = .assigned ∨ c.life = .loadable then .accepted else .state)
      ∧ (kind = 3 → evaluate s l w = if c.life = .loadable then .accepted else .state)
      ∧ (kind = 4 → evaluate s l w =
        if c.life = .expired then .expired
        else if c.life ≠ .holding then .state
        else if s.staffMatch c.presCode then .accepted
        else if c.lockedOut then .locked
        else if c.presCode ≠ c.customer then .code else .accepted)
      ∧ (kind = 5 → evaluate s l w =
        if ¬ (c.life = .holding ∨ c.life = .expired ∨ c.life = .quarantine) then .state
        else if s.staffMatch c.presCode = false then .code
        else if (s.latch l .front).st = .latched ∧ (s.latch l .rear).st = .latched then .accepted else .state))

/-- ASSIGN accepted: the locker is ASSIGNED with the presented code as customer code, the presented order as order
reference and the command's class; latches and channels stand (R46, R66). -/
def Obligations.AssignBindsOrder : Prop :=
  ∀ (s : State) (addr : Addr) (tag : BitVec 8) (cls : BitVec 3) (hi : BitVec 17) (l : Locker),
    Ready s → CellAt s addr l 0 → (s.ctx l).life = .vacant → (s.copies.classes[cls.toFin.val]).holdMin ≠ 0 →
    (s.ctx l).presCode ≠ 0 →
    Completes (.assign addr tag cls hi) s fun t =>
      t.ctx l = { s.ctx l with
        life := .assigned, reason := .none, customer := (s.ctx l).presCode, order := (s.ctx l).presOrder,
        cls := cls.toFin, presCode := 0 }
      ∧ (t.marks l).state = true ∧ (t.marks l).codeZero = true ∧ OtherLockersKept l s t ∧ t.ltc = s.ltc
      ∧ t.hsc.chans = s.hsc.chans ∧ t.ahu.paths = s.ahu.paths ∧ SamplesKept s t ∧ OutsideKept s t ∧ ClockKept s t
      ∧ RingKept s t

/-- CANCEL accepted: the locker is VACANT with its context cleared but for the presented order, its queue entry gone, its
channel halted, its error counts 0 and its sampler record reset; a running sweep no longer lists it, and no sweep read of it
stands (log 22, read from R147); no report is made (R42, R43, R48, R67, R147). -/
def Obligations.CancelClearsLocker : Prop :=
  ∀ (s : State) (addr : Addr) (tag : BitVec 8) (cls : BitVec 3) (hi : BitVec 17) (l : Locker),
    Ready s → CellAt s addr l 0 → (s.ctx l).life = .assigned ∨ (s.ctx l).life = .loadable → ChannelsDistinct s →
    s.ringFull = false →
    Completes (.cancel addr tag cls hi) s fun t =>
      t.ctx l = { Context.reset with presOrder := (s.ctx l).presOrder }
      ∧ l ∉ t.hsc.hq ∧ l ∉ t.hsc.wq ∧ (∀ i : Chan, (t.chan i).st.energised ≠ some l)
      ∧ (t.paths l).heat.errs = 0 ∧ (t.paths l).latch.errs = 0 ∧ t.sampler l = SamplerRec.reset
      ∧ (∀ ls, t.smp.sweep = some ls → l ∉ ls) ∧ t.smp.req ≠ some (.frame, l)
      ∧ t.rpw.queue = s.rpw.queue ∧ t.ltc = s.ltc ∧ OtherLockersKept l s t ∧ OutsideKept s t ∧ ClockKept s t
      ∧ RingKept s t

/-- What a release leaves at a hatch that was LATCHED, the other one LATCHED too: HALT_WAIT while a channel is attached to
the locker, else UNLATCH_PENDING with the release command issued; in both cases the locker is fast-polled (R84, R85). -/
def ReleaseBegun (l : Locker) (h : Hatch) (s t : State) : Prop :=
  (s.attachedChan l ≠ none → (t.latch l h).st = .haltWait ∧ (t.paths l).latch = (s.paths l).latch)
  ∧ (s.attachedChan l = none → (t.latch l h).st = .unlatchPending ∧ (t.paths l).latch.st = .writing
      ∧ (t.paths l).latch.seq = (s.paths l).latch.seq + 1 ∧ (t.paths l).relFront = decide (h = .front)
      ∧ (t.paths l).relRear = decide (h = .rear) ∧ (t.marks l).latch = true)
  ∧ (t.latch l h).note = false ∧ (∀ g : Hatch, g ≠ h → t.latch l g = s.latch l g)
  ∧ t.smp.fastPoll[l.val] = true

/-- LOAD accepted: the locker is LOADING with return state LOADABLE, its entry is gone, its channel halted, and the rear
release has begun; where the latches are not both LATCHED, the hatch counts as not opened at once, and the locker is
LOADABLE with an OPEN_TIMEOUT report (R49, R50, R68, R84, R85). -/
def Obligations.LoadReleasesRear : Prop :=
  ∀ (s : State) (addr : Addr) (tag : BitVec 8) (cls : BitVec 3) (hi : BitVec 17) (l : Locker),
    Ready s → CellAt s addr l 0 → (s.ctx l).life = .loadable → ChannelsDistinct s →
    (s.bothLatched l = true → Completes (.load addr tag cls hi) s fun t =>
      t.ctx l = { s.ctx l with life := .loading, reason := .none, ret := .loadable, presCode := 0 }
      ∧ ReleaseBegun l .rear s t ∧ l ∉ t.hsc.wq ∧ (∀ i : Chan, (t.chan i).st.energised ≠ some l)
      ∧ OtherLockersKept l s t ∧ OutsideKept s t ∧ ClockKept s t ∧ RingKept s t)
    ∧ (s.bothLatched l = false → s.ringFull = false → Completes (.load addr tag cls hi) s fun t =>
      t.ctx l = { s.ctx l with life := .loadable, reason := .none, ret := .none, presCode := 0 } ∧ t.ltc = s.ltc
      ∧ Handed { kind := .openTimeout, locker := BitVec.ofNat 8 l.val, detail := 2, order := (s.ctx l).order,
                 time := s.tmb.seconds, data := 1 } s t
      ∧ (∀ i : Chan, (t.chan i).st.energised ≠ some l) ∧ OtherLockersKept l s t ∧ OutsideKept s t ∧ ClockKept s t
      ∧ RingKept s t)

/-- COLLECT accepted: the locker is COLLECTING with return state HOLDING and the front release has begun. A staff match
leaves attempts and the lockout as they stand, whether the locker is locked out or not; a customer match sets attempts to
0. Where the latches are not both LATCHED, the hatch counts as not opened at once, and the locker is HOLDING with an
OPEN_TIMEOUT report (R51, R52, R69, R73, R74, R84). -/
def Obligations.CollectReleasesFront : Prop :=
  ∀ (s : State) (addr : Addr) (tag : BitVec 8) (cls : BitVec 3) (hi : BitVec 17) (l : Locker) (attempts : Nat),
    Ready s → CellAt s addr l 0 → (s.ctx l).life = .holding → ChannelsDistinct s →
    (s.staffMatch (s.ctx l).presCode = true ∧ attempts = (s.ctx l).attempts
      ∨ s.staffMatch (s.ctx l).presCode = false ∧ (s.ctx l).lockedOut = false
        ∧ (s.ctx l).presCode = (s.ctx l).customer ∧ attempts = 0) →
    (s.bothLatched l = true → Completes (.collect addr tag cls hi) s fun t =>
      t.ctx l = { s.ctx l with
        life := .collecting, reason := .none, ret := .holding, collExp := none, presCode := 0, attempts := attempts }
      ∧ ReleaseBegun l .front s t ∧ l ∉ t.hsc.hq ∧ OtherLockersKept l s t ∧ OutsideKept s t ∧ ClockKept s t
      ∧ RingKept s t)
    ∧ (s.bothLatched l = false → s.ringFull = false → Completes (.collect addr tag cls hi) s fun t =>
      t.ctx l = { s.ctx l with
        life := .holding, reason := .none, ret := .none, collExp := none, presCode := 0, attempts := attempts }
      ∧ t.ltc = s.ltc
      ∧ Handed { kind := .openTimeout, locker := BitVec.ofNat 8 l.val, detail := 4, order := (s.ctx l).order,
                 time := s.tmb.seconds, data := 0 } s t
      ∧ t.hsc.chans = s.hsc.chans ∧ OtherLockersKept l s t ∧ OutsideKept s t ∧ ClockKept s t ∧ RingKept s t)

/-- CLEAR accepted: the locker is CLEARING with the state it left as return state and its reason kept, its channel is
halted, the rear release has begun, and the exit from QUARANTINE is counted (R41, R56, R70, R179). -/
def Obligations.ClearReleasesRear : Prop :=
  ∀ (s : State) (addr : Addr) (tag : BitVec 8) (cls : BitVec 3) (hi : BitVec 17) (l : Locker) (r : ReturnState),
    Ready s → CellAt s addr l 0 →
    ((s.ctx l).life, r) ∈ [(Lifecycle.holding, ReturnState.holding), (.expired, .expired), (.quarantine, .quarantine)] →
    s.staffMatch (s.ctx l).presCode = true → s.bothLatched l = true → ChannelsDistinct s →
    Completes (.clear addr tag cls hi) s fun t =>
      t.ctx l = { s.ctx l with life := .clearing, ret := r, presCode := 0 }
      ∧ ReleaseBegun l .rear s t ∧ l ∉ t.hsc.hq ∧ (∀ i : Chan, (t.chan i).st.energised ≠ some l)
      ∧ t.rpw.quarantined = (if (s.ctx l).life = .quarantine then s.rpw.quarantined - 1 else s.rpw.quarantined)
      ∧ OtherLockersKept l s t ∧ OutsideKept s t ∧ ClockKept s t

/-- A COLLECT refused CODE counts an attempt; the attempt that reaches the setting starts a lockout of the set minutes and
makes a LOCKOUT report; latches, channels, queues and paths stand (R74, R75, R78). -/
def Obligations.WrongCodeCountsAndLocksOut : Prop :=
  ∀ (s : State) (addr : Addr) (tag : BitVec 8) (cls : BitVec 3) (hi : BitVec 17) (l : Locker),
    Ready s → CellAt s addr l 0 → (s.ctx l).life = .holding → s.staffMatch (s.ctx l).presCode = false →
    (s.ctx l).lockedOut = false → (s.ctx l).presCode ≠ (s.ctx l).customer → s.ringFull = false →
    Completes (.collect addr tag cls hi) s fun t =>
      ((s.ctx l).attempts + 1 ≠ s.copies.lockoutAttempts →
        t.ctx l = { s.ctx l with attempts := (s.ctx l).attempts + 1, presCode := 0 } ∧ t.rpw.queue = s.rpw.queue)
      ∧ ((s.ctx l).attempts + 1 = s.copies.lockoutAttempts →
        t.ctx l = { s.ctx l with
          attempts := s.copies.lockoutAttempts, lockedOut := true, lockoutLeft := s.copies.lockoutMin * 60,
          presCode := 0 }
        ∧ Handed { kind := .lockout, locker := BitVec.ofNat 8 l.val,
                   detail := BitVec.ofNat 16 s.copies.lockoutAttempts, order := (s.ctx l).order, time := s.tmb.seconds,
                   data := BitVec.ofNat 32 (s.copies.lockoutMin * 60) } s t)
      ∧ (t.marks l).state = true ∧ t.ltc = s.ltc ∧ HeatKept s t ∧ OtherLockersKept l s t ∧ OutsideKept s t
      ∧ ClockKept s t ∧ SamplesKept s t ∧ RingKept s t

/-- A command refused with any other outcome, an unknown kind among them, changes no field of the context but the
presented code, no latch, no queue entry, no channel, and sets no mark but CODE-zero (R64, R65). -/
def Obligations.RefusedCommandChangesNothingElse : Prop :=
  ∀ (c : Instr) (addr : Addr) (w : Word) (s : State) (l : Locker),
    commandRow c = some (addr, w) → Ready s → CellAt s addr l 0 → evaluate s l w ≠ .accepted →
    ¬ (w.extractLsb' 8 4 = 4 ∧ evaluate s l w = .code) →
    Completes c s fun t =>
      t.ctx l = { s.ctx l with presCode := 0 } ∧ OtherLockersKept l s t ∧ t.ltc = s.ltc ∧ HeatKept s t ∧ SamplesKept s t
      ∧ (∀ (k : Locker) (d : MarkCell), (t.marks k).has d = if k = l ∧ d = .codeZero then true else (s.marks k).has d)
      ∧ RingKept s t ∧ OutsideKept s t ∧ ClockKept s t

/-! ### The M-port -/

/-- When the M-port is free, the grant goes to the first requester with a standing request from the pointer on round the
circle FWD, MRW, AHU, SMP, RPW; the pointer moves to the one after it (R16). -/
def Obligations.GrantGoesRoundTheCircle : Prop :=
  ∀ (s : State) (before after : List Requester) (r : Requester) (m : MTxn),
    s.mpi.port = none → circleFrom s.mpi.pointer = before ++ r :: after → (∀ q ∈ before, request s q = none) →
    request s r = some m →
    Completes .mportGrant s fun t =>
      t.mpi.port = some m ∧ circleFrom t.mpi.pointer = after ++ before ++ [r] ∧ LockersKept s t ∧ HeatKept s t
        ∧ SamplesKept s t ∧ ClockKept s t ∧ OutsideKept s t ∧ (r ≠ .mrw → t.mrw.marks = s.mrw.marks)

/-- At the grant of a mirror write its content is the part's state as it then stands, and its mark is cleared; no other mark
changes. The write becomes the last granted of its turn, or of the head of the promotion list. A head with no mark left
leaves the list, and a turn of its locker ends there, with that locker the last served. A read held with reason MIRROR is
released when the list is empty (R10, R17, R25, R26, R28). That the hold ends at this grant and not at the landing, and with
the list, is the model's reading (logs 10 and 11). -/
def Obligations.MirrorGrantFixesContent : Prop :=
  ∀ (s : State) (m : MTxn) (l : Locker) (c : MarkCell),
    s.mpi.port = none → nextGrant s = some (.mrw, m) → s.mrw.req = some (l, c) →
    let left : Prop := ∃ d : MarkCell, d ≠ c ∧ (s.marks l).has d = true
    Completes .mportGrant s fun t =>
      t.mpi.port = some m
      ∧ m.txn = writeTxn (s.cellAddr l c.word) [match c with
          | .heat => heatWord (s.paths l)
          | .latch => latchWord (s.paths l)
          | .state => stateWord (s.ctx l) (s.latches l) (s.attachedChan l).isSome (s.paths l)
          | .hold => countsWord (s.ctx l)
          | .codeZero => 0]
      ∧ (∀ (k : Locker) (d : MarkCell), (t.marks k).has d = if k = l ∧ d = c then false else (s.marks k).has d)
      ∧ t.mrw.req = none
      ∧ (s.mrw.promo.head? ≠ some l →
          t.mrw.promo = s.mrw.promo ∧ t.mrw.promoLast = s.mrw.promoLast ∧ t.mrw.lastServed = s.mrw.lastServed
            ∧ t.mrw.turn = s.mrw.turn.map fun k => (k.1, some c))
      ∧ (s.mrw.promo.head? = some l → left →
          t.mrw.promo = s.mrw.promo ∧ t.mrw.promoLast = some c ∧ t.mrw.lastServed = s.mrw.lastServed
            ∧ t.mrw.turn = s.mrw.turn)
      ∧ (s.mrw.promo.head? = some l → ¬ left →
          t.mrw.promo = s.mrw.promo.tail ∧ t.mrw.promoLast = none
            ∧ (∀ last, s.mrw.turn = some (l, last) → t.mrw.turn = none ∧ t.mrw.lastServed = l)
            ∧ ((∀ last, s.mrw.turn ≠ some (l, last)) →
                t.mrw.turn = s.mrw.turn ∧ t.mrw.lastServed = s.mrw.lastServed))
      ∧ (∀ x ring, s.mode = .operating → s.cpi = .held x false true ring →
          let ring' := ring && s.rpw.op.inFlight
          (t.mrw.promo = [] → t.cpi = if ring' then .held x false false true else .waiting x .none)
          ∧ (t.mrw.promo ≠ [] → t.cpi = .held x false true ring'))
      ∧ LockersKept s t ∧ HeatKept s t ∧ OutsideKept s t

/-- A forwarded write lands: the answer is DONE, the M-port and CPI are free, and memory has the words the transaction
carried; a single full word is read back from its address, and no other byte changes (R2). -/
def Obligations.ForwardedWriteLands : Prop :=
  ∀ (s : State) (m : MTxn) (x : Txn) (land : LandEffect),
    s.mpi.port = some m → m.tag = .fwd → m.txn.write = true → s.cpi = .carrying x land →
    Completes .fwdWriteLand s fun t =>
      t.answer = some (.done []) ∧ t.cpi = .idle ∧ t.mpi.port = none ∧ t.mem = s.mem.complete m.txn
      ∧ LockersKept s t ∧ HeatKept s t ∧ t.mrw.marks = s.mrw.marks ∧ ClockKept s t
      ∧ (MemoryCanonical s → ∀ w : Word, m.txn.data = [w] → m.txn.lanes = 0xF →
          t.mem.readWord (wordAddr m.txn.addr) = w
          ∧ ∀ a : Nat, (∀ i < 4, a ≠ laneAddr (wordAddr m.txn.addr) i) → t.mem.readByte a = s.mem.readByte a)

/-- What RPW takes when a controller's ring word lands: READ, with attention cleared when it equals WRITE; a cleared lost
count, overrun and STATUS mark; the mask's bits 1 to 21 (R7, R176, R178). -/
def Obligations.LandedRingWordsAreTaken : Prop :=
  ∀ (s : State) (m : MTxn) (x : Txn) (w : Word) (land : LandEffect),
    s.mpi.port = some m → m.tag = .fwd → m.txn.write = true → m.txn.data = [w] → s.cpi = .carrying x land →
    s.rpw.queue = [] →
    Completes .fwdWriteLand s fun t =>
      (land = .readIndex → t.rpw.read = w.toNat
        ∧ t.rpw.attention = (if w.toNat = s.rpw.write then false else s.rpw.attention) ∧ t.rpw.mask = s.rpw.mask)
      ∧ (land = .status → t.rpw.lost = 0 ∧ t.rpw.overrun = false ∧ t.rpw.statusMark = false ∧ t.rpw.read = s.rpw.read)
      ∧ (land = .attention → t.rpw.mask = w &&& 0x003FFFFE ∧ t.rpw.attention = s.rpw.attention)
      ∧ t.rpw.write = s.rpw.write ∧ t.rpw.quarantined = s.rpw.quarantined
      ∧ t.rpw.lostChannels = s.rpw.lostChannels

/-- A forwarded read completes, in OPERATING, RESTORING and UNCONFIGURED: DONE, or REFUSED where a beat has a parity fault,
with one PARITY record of the first faulty beat, which names the beat's locker below the locker count, and otherwise 255
with order reference 0; UNCONFIGURED makes no record (R2, R12, R14, R15). That DONE carries the words that memory holds at
the completion, all beats together and whole words whatever the lanes, is the model's choice (log 5). -/
def Obligations.ForwardedReadCompletes : Prop :=
  ∀ (s : State) (m : MTxn) (x : Txn) (land : LandEffect) (port2 : List PortWrite) (faults : BitVec 8),
    s.mode = .operating ∨ s.mode = .restoring ∨ s.mode = .unconfigured →
    s.mpi.port = some m → m.tag = .fwd → m.txn.write = false → s.cpi = .carrying x land →
    ((∀ k < m.txn.len, faults.getLsbD k = false) →
      Completes (.fwdReadComplete port2 faults) s fun t =>
        t.answer = some (.done (m.txn.beats.map (s.mem.port2 port2).readWord)) ∧ t.cpi = .idle ∧ t.mpi.port = none
          ∧ LockersKept s t ∧ HeatKept s t ∧ t.mrw.marks = s.mrw.marks ∧ RingKept s t)
    ∧ (∀ k < m.txn.len, faults.getLsbD k = true → (∀ j < k, faults.getLsbD j = false) → s.ringFull = false →
      Completes (.fwdReadComplete port2 faults) s fun t =>
        t.answer = some .refused ∧ t.cpi = .idle ∧ t.mpi.port = none ∧ LockersKept s t ∧ HeatKept s t
          ∧ t.mrw.marks = s.mrw.marks ∧ RingKept s t ∧ t.mem = s.mem.port2 port2
          ∧ (s.mode = .unconfigured → t.rpw = s.rpw)
          ∧ (s.mode ≠ .unconfigured →
              (∀ l cell, classify s.copies (m.txn.beatAddr k) = .ltw l cell → l.val < s.copies.lockerCount →
                Handed (recordOf s l .parity 6 ((m.txn.beatAddr k).zeroExtend 32)) s t)
              ∧ ((∀ l cell, classify s.copies (m.txn.beatAddr k) = .ltw l cell → s.copies.lockerCount ≤ l.val) →
                Handed (recordOfNone s .parity 6 ((m.txn.beatAddr k).zeroExtend 32)) s t)))

/-- The landing of a HEAT or LATCH write that carries the current sequence of a WRITING path starts its probing; any other
landing changes no path. In RESTORING and OPERATING, with no request standing, MRW then requests its next write: for the
head of the promotion list the next marked cell in the write order, or past its last the first; with the list empty the next
marked cell of the turn; past its last the turn ends, with its locker the last served, and the next turn is that of the
first marked locker after it, round the index (R26, R27, R28, R131). -/
def Obligations.MirrorLandingStartsProbing : Prop :=
  ∀ (s : State) (x : Txn) (l : Locker) (c : MarkCell) (q : BitVec 4),
    s.mpi.port = some ⟨.mirror l c q, x⟩ →
    Completes .mrwWriteLand s fun t =>
      t.mem = s.mem.complete x ∧ t.mpi.port = none ∧ LockersKept s t ∧ t.hsc = s.hsc ∧ t.mrw.marks = s.mrw.marks
      ∧ (∀ k : PathKind, (k = .heat ∧ c = .heat) ∨ (k = .latch ∧ c = .latch) →
          ((s.paths l).get k).st = .writing → ((s.paths l).get k).seq = q →
          t.paths l = (s.paths l).set k { (s.paths l).get k with st := .probing, probes := 0 })
      ∧ ((c = .heat → (s.paths l).heat.st ≠ .writing ∨ (s.paths l).heat.seq ≠ q) →
         (c = .latch → (s.paths l).latch.st ≠ .writing ∨ (s.paths l).latch.seq ≠ q) → t.ahu.paths = s.ahu.paths)
      ∧ t.mrw.promo = s.mrw.promo ∧ t.mrw.promoLast = s.mrw.promoLast
      ∧ (s.mode = .restoring ∨ s.mode = .operating → s.mrw.req = none →
          (∀ k d, s.mrw.promo.head? = some k →
            (FirstMarked (s.marks k) (cellsAfter s.mrw.promoLast) d → t.mrw.req = some (k, d))
            ∧ ((∀ e ∈ cellsAfter s.mrw.promoLast, (s.marks k).has e = false) →
                FirstMarked (s.marks k) (cellsAfter none) d → t.mrw.req = some (k, d)))
          ∧ (∀ k last, s.mrw.promo = [] → s.mrw.turn = some (k, last) →
              (∀ d, FirstMarked (s.marks k) (cellsAfter last) d →
                t.mrw.req = some (k, d) ∧ t.mrw.turn = s.mrw.turn ∧ t.mrw.lastServed = s.mrw.lastServed)
              ∧ ((∀ d ∈ cellsAfter last, (s.marks k).has d = false) →
                  t.mrw.lastServed = k ∧ TurnFrom (k.val + 1) s t))
          ∧ (s.mrw.promo = [] → s.mrw.turn = none →
              t.mrw.lastServed = s.mrw.lastServed ∧ TurnFrom (s.mrw.lastServed.val + 1) s t))

/-- A probe without an ACK that does not fail the command, on one path, the other not PROBING: a NAK counts and clears the
probe count, no answer counts a probe, and an error re-issues the command with the next sequence, its image as it was, and
adds 1 to the error count below 3, to the final-attempt count at 3 (R133, R135, R136, R137). -/
def ProbeBelowTheLimits : Prop :=
  ∀ (s : State) (x : Txn) (l : Locker) (k : PathKind) (port2 : List PortWrite) (fault : Bool) (w : Word),
    ProbeOf l k w x port2 s →
    let r := (s.paths l).get k
    let limit := s.copies.ackLimit
    (AnswersNak k fault w r ∧ r.naks + 1 < 32 ∨ AnswersNone k fault w r ∧ r.probes + 1 < limit
      ∨ AnswersError limit k fault w r ∧ (r.errs + 1 < 3 ∨ 3 ≤ r.errs ∧ r.fin + 1 < 3)) →
    Completes (.probeComplete port2 fault) s fun t =>
      (AnswersNak k fault w r → r.naks + 1 < 32 →
        t.paths l = (s.paths l).set k { r with naks := r.naks + 1, probes := 0 })
      ∧ (AnswersNone k fault w r → r.probes + 1 < limit →
          t.paths l = (s.paths l).set k { r with probes := r.probes + 1 })
      ∧ (AnswersError limit k fault w r → r.errs + 1 < 3 →
          t.paths l = (s.paths l).set k
            { r with seq := r.seq + 1, st := .writing, probes := 0, naks := 0, errs := r.errs + 1 }
          ∧ (t.marks l).has (pathMark k) = true ∧ (t.marks l).state = true)
      ∧ (AnswersError limit k fault w r → 3 ≤ r.errs →
          t.paths l = (s.paths l).set k
            { r with seq := r.seq + 1, st := .writing, probes := 0, naks := 0, fin := r.fin + 1 }
          ∧ (t.marks l).has (pathMark k) = true)
      ∧ (∀ j : Locker, j ≠ l → t.paths j = s.paths j) ∧ LockersKept s t ∧ t.hsc = s.hsc
      ∧ t.mem = s.mem.port2 port2 ∧ RingKept s t

/-- A probe that fails an on command in OPERATING, by a FAULT, the third error or the third final attempt: the channel goes
to OFF_PENDING and an off command is issued with the error count at 3, and the locker is QUARANTINE with reason
HEAT_ACTUATOR, unless it was QUARANTINE already, with its record (R45, R121, R135, R136, R137, R139). -/
def FailedOnCommand : Prop :=
  ∀ (s : State) (x : Txn) (l : Locker) (i : Chan) (port2 : List PortWrite) (fault : Bool) (w : Word),
    ProbeOf l .heat w x port2 s → FailsCommand s.copies.ackLimit .heat fault w (s.paths l).heat → s.mode = .operating →
    (s.paths l).heatOn = true → (s.chan i).st = .onPending l → ChannelsDistinct s → s.bothLatched l = true →
    s.ringFull = false →
    Completes (.probeComplete port2 fault) s fun t =>
      t.chan i = { s.chan i with st := .offPending l } ∧ (∀ j : Chan, j ≠ i → t.chan j = s.chan j)
      ∧ HeatCommanded l false s t ∧ (t.paths l).heat = { failedPath (s.paths l).heat with
          seq := (s.paths l).heat.seq + 1, st := .writing }
      ∧ (t.paths l).latch = (s.paths l).latch ∧ QuarantinedBy .heatActuator l s t ∧ t.ltc = s.ltc
      ∧ ((s.ctx l).life ≠ .quarantine → l ∉ t.hsc.hq ∧ l ∉ t.hsc.wq)
      ∧ HandedAll (quarantinedRecords .heatActuator l s) s t ∧ OtherLockersKept l s t ∧ t.mem = s.mem.port2 port2

/-- A probe that fails an off command in OPERATING: the channel is LOST and counted, CHANNEL_LOST is reported, and the
locker is QUARANTINE with reason CHANNEL_LOST, unless it was QUARANTINE already, with its record after that. A release that
waited in HALT_WAIT for this channel is withdrawn, with its report last; no late grant follows (R44, R45, R122, R125, R137,
R139, R179). -/
def FailedOffCommand : Prop :=
  ∀ (s : State) (x : Txn) (l : Locker) (i : Chan) (port2 : List PortWrite) (fault : Bool) (w : Word),
    ProbeOf l .heat w x port2 s → FailsCommand s.copies.ackLimit .heat fault w (s.paths l).heat → s.mode = .operating →
    (s.paths l).heatOn = false → (s.chan i).st = .offPending l → ChannelsDistinct s → s.ringFull = false →
    let lost : Record := recordOf s l .channelLost (BitVec.ofNat 16 i.val) (BitVec.ofNat 32 (s.ctx l).life.code)
    (s.bothLatched l = true →
      Completes (.probeComplete port2 fault) s fun t =>
        t.chan i = { s.chan i with st := .lost } ∧ (∀ j : Chan, j ≠ i → t.chan j = s.chan j)
        ∧ t.rpw.lostChannels = s.rpw.lostChannels + 1 ∧ (t.marks l).state = true
        ∧ t.paths l = { s.paths l with heat := failedPath (s.paths l).heat }
        ∧ QuarantinedBy .channelLost l s t ∧ t.ltc = s.ltc
        ∧ HandedAll (lost :: quarantinedRecords .channelLost l s) s t ∧ OtherLockersKept l s t
        ∧ t.hsc.grants = s.hsc.grants)
    ∧ (∀ h : Hatch, (s.latch l h).st = .haltWait → (∀ g : Hatch, g ≠ h → (s.latch l g).st = .latched) →
        (s.ctx l).life ≠ .quarantine →
      Completes (.probeComplete port2 fault) s fun t =>
        t.chan i = { s.chan i with st := .lost } ∧ (∀ j : Chan, j ≠ i → t.chan j = s.chan j)
        ∧ t.rpw.lostChannels = s.rpw.lostChannels + 1
        ∧ t.paths l = { s.paths l with heat := failedPath (s.paths l).heat }
        ∧ QuarantinedBy .channelLost l s t
        ∧ t.latch l h = { s.latch l h with st := .latched, kind := .none, tray := false, openWait := 0, hatchHeld := 0 }
        ∧ (∀ g : Hatch, g ≠ h → t.latch l g = s.latch l g) ∧ t.smp.fastPoll[l.val] = false
        ∧ HandedAll (lost :: quarantinedRecords .channelLost l s
            ++ [recordOf s l .collectWithdrawn 8 (hatchWord h)]) s t
        ∧ OtherLockersKept l s t ∧ t.hsc.grants = s.hsc.grants)

/-- A probe that fails a heat command of the restore: the locker is QUARANTINE with reason HEAT_ACTUATOR, replacing RESTART,
with no report; no channel is touched (R40, R59, R124, R139). -/
def FailedRestoreHeatCommand : Prop :=
  ∀ (s : State) (x : Txn) (l : Locker) (port2 : List PortWrite) (fault : Bool) (w : Word),
    ProbeOf l .heat w x port2 s → FailsCommand s.copies.ackLimit .heat fault w (s.paths l).heat → s.mode = .restoring →
    (∀ i : Chan, (s.chan i).st.attached = none) → s.ringFull = false →
    Completes (.probeComplete port2 fault) s fun t =>
      t.ctx l = { s.ctx l with life := .quarantine, reason := .heatActuator, ret := .none, collExp := none }
      ∧ t.paths l = { s.paths l with heat := failedPath (s.paths l).heat } ∧ t.hsc.chans = s.hsc.chans ∧ t.ltc = s.ltc
      ∧ t.rpw.queue = s.rpw.queue ∧ OtherLockersKept l s t

/-- A probe that fails a latch command: every latch of the locker with a command outstanding is FAILED, no channel of the
locker stays energised, and the locker leaves the fast-poll set. It is QUARANTINE with reason LATCH_ACTUATOR: in OPERATING
unless it was QUARANTINE already, with its record; in RESTORING in any case, with none (R40, R45, R59, R97, R98, R99, R137,
R139). -/
def FailedLatchCommand : Prop :=
  ∀ (s : State) (x : Txn) (l : Locker) (port2 : List PortWrite) (fault : Bool) (w : Word),
    let commanded (st : LatchState) : Prop := st = .unlatchPending ∨ st = .opened ∨ st = .relatchPending
    ProbeOf l .latch w x port2 s → FailsCommand s.copies.ackLimit .latch fault w (s.paths l).latch →
    s.mode = .operating ∨ s.mode = .restoring → ChannelsDistinct s → s.ringFull = false →
    (∃ h : Hatch, commanded (s.latch l h).st) →
    (∀ h : Hatch, commanded (s.latch l h).st ∨ (s.latch l h).st = .latched ∨ (s.latch l h).st = .failed) →
    Completes (.probeComplete port2 fault) s fun t =>
      (∀ h : Hatch, (commanded (s.latch l h).st → t.latch l h = { s.latch l h with
            st := .failed, kind := .none, tray := false, openWait := 0, hatchHeld := 0 })
          ∧ ((s.latch l h).st = .latched ∨ (s.latch l h).st = .failed → t.latch l h = s.latch l h))
      ∧ (t.paths l).latch = failedPath (s.paths l).latch ∧ t.smp.fastPoll[l.val] = false
      ∧ (s.mode = .operating → QuarantinedBy .latchActuator l s t
          ∧ HandedAll (quarantinedRecords .latchActuator l s) s t)
      ∧ (s.mode = .restoring →
          t.ctx l = { s.ctx l with life := .quarantine, reason := .latchActuator, ret := .none, collExp := none }
          ∧ t.rpw.queue = s.rpw.queue)
      ∧ ((s.ctx l).life ≠ .quarantine → ∀ i : Chan, (t.chan i).st.energised ≠ some l)
      ∧ OtherLockersKept l s t ∧ t.mem = s.mem.port2 port2

/-- A probe without an ACK, on the heat or the latch path, the other path not PROBING. Below the limits it counts, or
re-issues the command with the next sequence. The 32nd NAK and the probe that brings the count to the ack-limit are errors;
a FAULT, the third error, and at three errors the third final attempt fail the command: a failed on command sends its
channel to OFF_PENDING and the locker to QUARANTINE with HEAT_ACTUATOR; a failed off command loses the channel, with
CHANNEL_LOST; a failed latch command leaves the latch FAILED, with LATCH_ACTUATOR; in RESTORING the causes reach LKE with
no report (R40, R44, R45, R59, R98, R121, R122, R133, R135, R136, R137, R139). -/
def Obligations.ProbeWithoutAckCounts : Prop :=
  ProbeBelowTheLimits ∧ FailedOnCommand ∧ FailedOffCommand ∧ FailedRestoreHeatCommand ∧ FailedLatchCommand

/-- PROBE_TIMEOUT, a path's own share of a probe with no answer (log 16, a choice of the model): below the error limit the
command is re-issued with the next sequence and the error counted; the owner is not told (R136, R137). -/
def Obligations.TimeoutReissuesCommand : Prop :=
  ∀ (s : State) (l : Locker) (k : PathKind), l.val < s.copies.lockerCount → ((s.paths l).get k).st = .probing →
    s.copies.ackLimit ≤ ((s.paths l).get k).probes + 1 → ((s.paths l).get k).errs + 1 < 3 →
    Completes (.probeTimeout l k) s fun t =>
      let r := (s.paths l).get k
      t.paths l = (s.paths l).set k
        { r with seq := r.seq + 1, st := .writing, probes := 0, naks := 0, errs := r.errs + 1 }
      ∧ (t.marks l).has (pathMark k) = true ∧ (t.marks l).state = true ∧ LockersKept s t ∧ t.hsc = s.hsc
      ∧ OutsideKept s t ∧ ClockKept s t ∧ RingKept s t

/-- An ACK of the current heat command ends it: unless a late grant issues the next, the path is IDLE and an error count
below 3 is 0. A channel in ON_PENDING goes to ON. One in OFF_PENDING is FREE: a latch in HALT_WAIT has its release command
issued, and in OPERATING a late grant follows, which gives the FREE channels in ascending number to the entries without a
channel in their rank, within the capacity (R86, R102, R104, R114, R134). -/
def Obligations.HeatAckMovesChannel : Prop :=
  ∀ (s : State) (x : Txn) (l : Locker) (i : Chan) (port2 : List PortWrite) (w : Word),
    ProbeOf l .heat w x port2 s → ackSeq .heat w = (s.paths l).heat.seq → ackCode .heat w = .ack →
    ChannelsDistinct s → QueuesDistinct s → (∀ h : Hatch, (s.latch l h).st = .haltWait → l ∉ s.ranking) →
    (s.chan i).st = .onPending l ∨ (s.chan i).st = .offPending l →
    Completes (.probeComplete port2 false) s fun t =>
      ((s.chan i).st = .onPending l ∨ l ∉ s.ranking →
        (t.paths l).heatOn = (s.paths l).heatOn
        ∧ (t.paths l).heat = { (s.paths l).heat with
            st := .idle, probes := 0, naks := 0, fin := 0,
            errs := if (s.paths l).heat.errs < 3 then 0 else (s.paths l).heat.errs })
      ∧ ((s.chan i).st = .onPending l →
          t.chan i = { s.chan i with st := .on l } ∧ (∀ j : Chan, j ≠ i → t.chan j = s.chan j) ∧ LockersKept s t
            ∧ t.hsc.grants = s.hsc.grants ∧ t.hsc.hq = s.hsc.hq ∧ t.hsc.wq = s.hsc.wq)
      ∧ ((s.chan i).st = .offPending l →
          let u : State := { s with
            hsc := { s.hsc with chans := s.hsc.chans.set i.val { s.chan i with st := .free } } }
          (s.mode = .operating → LateGranted u t) ∧ (s.mode ≠ .operating → t.hsc = u.hsc)
          ∧ (s.hsc.hq = [] → s.hsc.wq = [] → (t.chan i).st = .free ∧ ∀ j : Chan, j ≠ i → t.chan j = s.chan j)
          ∧ (∀ h : Hatch, (s.latch l h).st = .haltWait → (∀ g : Hatch, g ≠ h → (s.latch l g).st ≠ .haltWait) →
              t.latch l h = { s.latch l h with st := .unlatchPending }
              ∧ (∀ g : Hatch, g ≠ h → t.latch l g = s.latch l g)
              ∧ (t.paths l).relFront = decide (h = .front) ∧ (t.paths l).relRear = decide (h = .rear)
              ∧ (t.paths l).latch.st = .writing ∧ (t.paths l).latch.seq = (s.paths l).latch.seq + 1
              ∧ (t.marks l).latch = true)
          ∧ ((∀ h : Hatch, (s.latch l h).st ≠ .haltWait) → t.ltc = s.ltc)
          ∧ (t.marks l).state = true ∧ t.lke = s.lke)
      ∧ t.mem = s.mem.port2 port2

/-- An acknowledgement that relatches one hatch of a locker in OPERATING, the other LATCHED: the latch is LATCHED and the
path IDLE, the locker leaves the fast-poll set, and no other locker changes (R87, R91, R97). What the outcome does to the
locker stands in `after`. -/
def Relatches (l : Locker) (h : Hatch) (s : State) (after : State → Prop) : Prop :=
  ∀ (x : Txn) (port2 : List PortWrite) (w : Word),
    s.mode = .operating → ProbeOf l .latch w x port2 s →
    ackSeq .latch w = (s.paths l).latch.seq → ackCode .latch w = .ack →
    (s.latch l h).st = .relatchPending → (∀ g : Hatch, g ≠ h → (s.latch l g).st = .latched) → s.ringFull = false →
    Completes (.probeComplete port2 false) s fun t =>
      t.latch l h = { s.latch l h with st := .latched, kind := .none, tray := false, openWait := 0, hatchHeld := 0 }
      ∧ (∀ g : Hatch, g ≠ h → t.latch l g = s.latch l g) ∧ (t.paths l).latch.st = .idle
      ∧ t.smp.fastPoll[l.val] = false ∧ OtherLockersKept l s t ∧ after t

/-- The front relatch of a COLLECTING locker: with the hatch opened and the tray absent VACANT, cleared, with a COLLECTED
record of the order and counts as they stood; with the tray present HOLDING, or EXPIRED when a collection expiry stands,
with NOT_TAKEN; with the hatch not opened HOLDING with OPEN_TIMEOUT (R52, R62). -/
def CollectionOutcomes : Prop :=
  ∀ (s : State) (l : Locker), (s.ctx l).life = .collecting →
    let c := s.ctx l
    let r := s.latch l .front
    let counts : Word := (BitVec.ofNat 16 c.cold ++ BitVec.ofNat 16 c.hold : BitVec 32)
    let held : Context := { c with life := .holding, reason := .none, ret := .none, collExp := none }
    Relatches l .front s fun t =>
      (r.kind = .opened → r.tray = false →
          t.ctx l = { Context.reset with presCode := c.presCode, presOrder := c.presOrder }
          ∧ t.sampler l = SamplerRec.reset ∧ Handed (recordOf s l .collected 0 counts) s t)
      ∧ (r.kind = .opened → r.tray = true → c.collExp = none →
          t.ctx l = held ∧ Handed (recordOf s l .notTaken 4 counts) s t)
      ∧ (∀ e, r.kind = .opened → r.tray = true → c.collExp = some e →
          t.ctx l = { c with life := .expired, reason := e.reason, ret := .none, collExp := none }
          ∧ Handed (recordOf s l .notTaken 6 counts) s t)
      ∧ (r.kind = .notOpened → t.ctx l = held ∧ Handed (recordOf s l .openTimeout 4 0) s t)

/-- The rear relatch of a LOADING locker: with the tray present HOLDING, both counts 0, with LOADED; with the tray absent
LOADABLE with LOAD_EMPTY; with the hatch not opened LOADABLE with OPEN_TIMEOUT (R50, R62). -/
def LoadingOutcomes : Prop :=
  ∀ (s : State) (l : Locker), (s.ctx l).life = .loading →
    let c := s.ctx l
    let r := s.latch l .rear
    let empty : Context := { c with life := .loadable, reason := .none, ret := .none }
    Relatches l .rear s fun t =>
      (r.kind = .opened → r.tray = true →
          t.ctx l = { c with life := .holding, reason := .none, hold := 0, cold := 0, collExp := none, ret := .none }
          ∧ Handed (recordOf s l .loaded (BitVec.ofNat 16 c.cls.val) 0) s t)
      ∧ (r.kind = .opened → r.tray = false → t.ctx l = empty ∧ Handed (recordOf s l .loadEmpty 2 0) s t)
      ∧ (r.kind = .notOpened → t.ctx l = empty ∧ Handed (recordOf s l .openTimeout 2 1) s t)

/-- The rear relatch of a CLEARING locker: with the tray absent VACANT, cleared, with CLEARED, which names the return state;
with the tray present QUARANTINE with reason NOT_CLEARED; with the hatch not opened its return state, the reason kept, with
OPEN_TIMEOUT (R41, R45, R57, R62). -/
def ClearingOutcomes : Prop :=
  ∀ (s : State) (l : Locker), (s.ctx l).life = .clearing →
    let c := s.ctx l
    let r := s.latch l .rear
    let into : BitVec 16 := BitVec.ofNat 16 c.ret.life.code
    Relatches l .rear s fun t =>
      (r.kind = .opened → r.tray = false →
          t.ctx l = { Context.reset with presCode := c.presCode, presOrder := c.presOrder }
          ∧ t.sampler l = SamplerRec.reset ∧ Handed (recordOf s l .cleared into 0) s t)
      ∧ (r.kind = .opened → r.tray = true →
          QuarantinedBy .notCleared l s t ∧ HandedAll (quarantinedRecords .notCleared l s) s t)
      ∧ (r.kind = .notOpened → t.ctx l = { c with life := c.ret.life, ret := .none }
          ∧ Handed (recordOf s l .openTimeout into 1) s t)

/-- A relatch that ends no running sequence of the locker, a withdrawn release's among them, changes no context and makes no
report (R61, R91, R96). -/
def IdleOutcomes : Prop :=
  ∀ (s : State) (l : Locker) (h : Hatch),
    (s.ctx l).life ≠ .loading → (s.ctx l).life ≠ .collecting → (s.ctx l).life ≠ .clearing →
    Relatches l h s fun t => t.ctx l = s.ctx l ∧ t.rpw.queue = s.rpw.queue

/-- An acknowledgement of a locker's current latch command ends the command: the path is IDLE, an error count below 3 is 0,
and no other path, context, channel or record changes. What the acknowledgement does to the latches stands in `after` (R87,
R134). -/
def LatchAcked (l : Locker) (s : State) (after : State → Prop) : Prop :=
  ∀ (x : Txn) (port2 : List PortWrite) (w : Word),
    ProbeOf l .latch w x port2 s → ackSeq .latch w = (s.paths l).latch.seq → ackCode .latch w = .ack →
    s.ringFull = false →
    Completes (.probeComplete port2 false) s fun t =>
      let r := (s.paths l).latch
      t.paths l = { s.paths l with latch := { r with
        st := .idle, probes := 0, naks := 0, fin := 0, errs := if r.errs < 3 then 0 else r.errs } }
      ∧ (∀ k : Locker, k ≠ l → t.paths k = s.paths k ∧ t.latches k = s.latches k) ∧ t.lke = s.lke
      ∧ t.hsc.chans = s.hsc.chans ∧ t.rpw.queue = s.rpw.queue ∧ t.mem = s.mem.port2 port2 ∧ after t

/-- An acknowledged release: the latch goes from UNLATCH_PENDING to OPEN_WAIT with the open-wait setting, and the locker
stays in the fast-poll set (R87, R97). -/
def ReleaseAcked : Prop :=
  ∀ (s : State) (l : Locker) (h : Hatch), (s.latch l h).st = .unlatchPending →
    (∀ g : Hatch, g ≠ h → (s.latch l g).st ≠ .unlatchPending ∧ (s.latch l g).st ≠ .relatchPending) →
    LatchAcked l s fun t =>
      t.latch l h = { s.latch l h with st := .openWait, openWait := s.copies.openWait }
      ∧ (∀ g : Hatch, g ≠ h → t.latch l g = s.latch l g) ∧ t.smp.fastPoll[l.val] = true

/-- An acknowledgement that finds neither latch in UNLATCH_PENDING or RELATCH_PENDING, a latch in OPEN among them, changes no
latch (R87). -/
def OvertakenAck : Prop :=
  ∀ (s : State) (l : Locker),
    (∀ h : Hatch, (s.latch l h).st ≠ .unlatchPending ∧ (s.latch l h).st ≠ .relatchPending) →
    LatchAcked l s fun t => t.ltc = s.ltc ∧ t.smp.fastPoll = s.smp.fastPoll

/-- The restore's relatch acknowledged: both latches are LATCHED, the locker leaves the fast-poll set, and LKE hears of no
outcome (R91, R97, R99). -/
def RestoreRelatchAcked : Prop :=
  ∀ (s : State) (l : Locker), s.mode = .restoring →
    (∀ h : Hatch, (s.latch l h).st = .relatchPending ∧ (s.latch l h).kind = .restore) →
    LatchAcked l s fun t =>
      (∀ h : Hatch, t.latch l h = { s.latch l h with
        st := .latched, kind := .none, tray := false, openWait := 0, hatchHeld := 0 })
      ∧ t.smp.fastPoll[l.val] = false

/-- The acknowledgement of a latch command, by the state of the latch. In UNLATCH_PENDING the latch goes to OPEN_WAIT; at
OPEN it has no effect; the restore's relatch ends with both latches LATCHED. One that relatches a hatch in OPERATING ends the
sequence of its locker: a collection, a loading or a clearing, by whether the hatch was opened and by the tray seen; of any
other locker it ends the relatch alone (R50, R52, R57, R61, R62, R87, R91, R97, R99, R134). -/
def Obligations.RelatchEndsCollection : Prop :=
  ReleaseAcked ∧ OvertakenAck ∧ RestoreRelatchAcked
    ∧ CollectionOutcomes ∧ LoadingOutcomes ∧ ClearingOutcomes ∧ IdleOutcomes

/-- A frame poll that returns with a parity fault counts as implausible and hands on nothing else; the third in a row
quarantines the locker with reason IMPLAUSIBLE (R45, R151). -/
def FaultyFramePolls : Prop :=
  ∀ (s : State) (x : Txn) (l : Locker) (port2 : List PortWrite),
    s.mode = .operating → s.mpi.port = some ⟨.poll .frame l, x⟩ → (s.ctx l).life ≠ .vacant →
    (s.ctx l).life ≠ .quarantine →
    Completes (.framePollComplete port2 true) s fun t =>
      t.sampler l = { s.sampler l with implausible := min 3 ((s.sampler l).implausible + 1) }
      ∧ OtherLockersKept l s t ∧ ClockKept s t
      ∧ ((s.sampler l).implausible + 1 < 3 → LockersKept s t ∧ HeatKept s t)
      ∧ (3 ≤ (s.sampler l).implausible + 1 →
          t.ctx l = { s.ctx l with life := .quarantine, reason := .implausible, ret := .none, collExp := none }
          ∧ t.rpw.quarantined = s.rpw.quarantined + 1)

/-- A poll that returns fields, of a locker with both latches LATCHED and both hatches seen closed. The sampler record takes
the temperature if it lies within −40 to 300, and on a frame poll the sequence and both counts. The first cause handed on
makes the locker QUARANTINE, unless it was already, with its record, and leaves it no energised channel and no entry: on a
frame poll IMPLAUSIBLE at the third implausible in a row, then STALE at the stale limit; on any poll OVERTEMP. With no cause
the locker stands, unless the sample makes it LOADABLE. A temperature at or above the class upper limit halts its channel,
with an off command (R45, R108, R116, R150 to R154). -/
def PollsJudged : Prop :=
  ∀ (s : State) (x : Txn) (l : Locker) (k : PollKind) (port2 : List PortWrite) (w : Word),
    let y := senseOf w
    PollOf k l w x port2 s → (s.ctx l).life ≠ .vacant → s.bothLatched l = true → y.frontClosed = true →
    y.rearClosed = true → s.ringFull = false → ChannelsDistinct s →
    Completes (pollComplete k port2 false) s fun t =>
      t.sampler l = judgedSampler k s.copies.staleLimit (s.sampler l) y
      ∧ (∀ r, pollCause k s.copies (s.sampler l) y = some r →
          QuarantinedBy r l s t ∧ HandedAll (quarantinedRecords r l s) s t
          ∧ ((s.ctx l).life ≠ .quarantine →
              l ∉ t.hsc.hq ∧ l ∉ t.hsc.wq ∧ ∀ i : Chan, (t.chan i).st.energised ≠ some l))
      ∧ (pollCause k s.copies (s.sampler l) y = none →
          (s.ctx l).life ≠ .assigned ∨ ¬ plausibleTemp y.temp ∨ y.temp < (s.opts l).load →
          t.ctx l = s.ctx l ∧ t.rpw.queue = s.rpw.queue)
      ∧ (plausibleTemp y.temp → (s.opts l).upper ≤ y.temp →
          (∀ i : Chan, (s.chan i).st.energised = some l →
            t.chan i = { s.chan i with st := .offPending l } ∧ HeatCommanded l false s t)
          ∧ ((s.opts l).midpoint ≤ y.temp → l ∉ t.hsc.hq) ∧ ((s.opts l).load ≤ y.temp → l ∉ t.hsc.wq))
      ∧ OtherLockersKept l s t ∧ ClockKept s t

/-- A poll result is judged before anything acts on it: a parity fault or a temperature outside −40 to 300 is implausible, a
sequence that stands is stale, and a temperature at or above the over-temperature limit or the class upper limit is acted on
at once; the counts and causes follow (R45, R108, R116, R150 to R154). -/
def Obligations.ImplausiblePollsQuarantine : Prop := FaultyFramePolls ∧ PollsJudged

/-- A frame poll of a locker with both latches LATCHED that brings a valid reading, new in its sequence, below the class
upper limit and the over-temperature limit, with both hatches seen closed (R150 to R155). The sampler records it, no latch
changes but its forced-open note, and `after` says what becomes of the queues and the locker. -/
def ValidSample (l : Locker) (temp : Int) (s : State) (after : State → Prop) : Prop :=
  ∀ (x : Txn) (port2 : List PortWrite) (w : Word),
    PollOf .frame l w x port2 s → temp = (senseOf w).temp → s.bothLatched l = true → s.ringFull = false →
    -40 ≤ temp → temp ≤ 300 → temp < (s.opts l).upper → temp < 2 * (s.copies.overtempC : Int) →
    (s.sampler l).lastSeq ≠ some (senseOf w).seq → (senseOf w).frontClosed = true → (senseOf w).rearClosed = true →
    Completes (.framePollComplete port2 false) s fun t =>
      t.sampler l = { latest := some temp, lastSeq := some (senseOf w).seq, stale := 0, implausible := 0 }
      ∧ OtherLockersKept l s t ∧ s.bothLatched l = t.bothLatched l ∧ after t

/-- An ASSIGNED locker whose reading is at or above the load threshold is LOADABLE, with a READY record that carries the
temperature; it has no queue entry, and channels and paths stand (R47, R108). -/
def SampleMakesLoadable : Prop :=
  ∀ (s : State) (l : Locker) (temp : Int), (s.ctx l).life = .assigned → (s.opts l).load ≤ temp →
    ValidSample l temp s fun t =>
      t.ctx l = { s.ctx l with life := .loadable, reason := .none } ∧ l ∉ t.hsc.wq ∧ l ∉ t.hsc.hq
      ∧ t.hsc.chans = s.hsc.chans ∧ t.ahu.paths = s.ahu.paths
      ∧ Handed (recordOf s l .ready (BitVec.ofNat 16 (s.ctx l).cls.val) (BitVec.ofInt 32 temp)) s t

/-- A reading below the class midpoint posts a HOLDING locker at the tail of HQ, one below the load threshold an ASSIGNED or
LOADABLE locker at the tail of WQ, and a late grant follows; a locker that has an entry keeps it and its place (R107,
R114). -/
def SamplePosts : Prop :=
  ∀ (s : State) (l : Locker) (temp : Int), ChannelsDistinct s → QueuesDistinct s →
    ((s.ctx l).life = .holding → temp < (s.opts l).midpoint →
      ValidSample l temp s fun t => t.ctx l = s.ctx l
        ∧ (l ∉ s.ranking → LateGranted { s with hsc := { s.hsc with hq := s.hsc.hq ++ [l] } } t)
        ∧ (l ∈ s.hsc.hq → t.hsc = s.hsc ∧ t.ahu.paths = s.ahu.paths))
    ∧ ((s.ctx l).life = .assigned ∨ (s.ctx l).life = .loadable → temp < (s.opts l).load →
      ValidSample l temp s fun t => t.ctx l = s.ctx l
        ∧ (l ∉ s.ranking → LateGranted { s with hsc := { s.hsc with wq := s.hsc.wq ++ [l] } } t)
        ∧ (l ∈ s.hsc.wq → t.hsc = s.hsc ∧ t.ahu.paths = s.ahu.paths))

/-- A reading at or above the class midpoint takes a HOLDING locker's entry, one at or above the load threshold a LOADABLE
locker's, out of its queue; channels and paths stand (R108). -/
def SampleRemoves : Prop :=
  ∀ (s : State) (l : Locker) (temp : Int),
    ((s.ctx l).life = .holding → (s.opts l).midpoint ≤ temp →
      ValidSample l temp s fun t => t.ctx l = s.ctx l ∧ t.hsc.hq = s.hsc.hq.filter (· ≠ l)
        ∧ t.hsc.chans = s.hsc.chans ∧ t.ahu.paths = s.ahu.paths)
    ∧ ((s.ctx l).life = .loadable → (s.opts l).load ≤ temp →
      ValidSample l temp s fun t => t.ctx l = s.ctx l ∧ t.hsc.wq = s.hsc.wq.filter (· ≠ l)
        ∧ t.hsc.chans = s.hsc.chans ∧ t.ahu.paths = s.ahu.paths)

/-- A valid frame poll below the class upper limit, of a locker with both latches LATCHED and both hatches seen closed: at
or above the load threshold it makes an ASSIGNED locker LOADABLE, with a READY record; below the class midpoint or the load
threshold it posts the locker in HQ or WQ, with the late grant that follows; at or above them it takes the entry out (R47,
R107, R108, R114, R151, R152, R155). -/
def Obligations.SampleAtThresholdMakesLoadable : Prop := SampleMakesLoadable ∧ SamplePosts ∧ SampleRemoves

/-- A fast or frame poll that hands on no quarantine cause, of a locker that is not VACANT, with the other hatch's latch
LATCHED and that hatch seen closed: no other locker changes, nor the other latch but for its forced-open note. `after` says
what becomes of the hatch h (R88, R148, R151 to R153). -/
def HatchReading (l : Locker) (h : Hatch) (s : State) (after : Sense → State → Prop) : Prop :=
  ∀ (x : Txn) (k : PollKind) (port2 : List PortWrite) (w : Word),
    PollOf k l w x port2 s → (s.ctx l).life ≠ .vacant → s.ringFull = false →
    (∀ g : Hatch, g ≠ h → (s.latch l g).st = .latched ∧ closedAt (senseOf w) g = true) →
    pollCause k s.copies (s.sampler l) (senseOf w) = none →
    Completes (pollComplete k port2 false) s fun t =>
      (t.ctx l).customer = (s.ctx l).customer ∧ OtherLockersKept l s t
      ∧ t.sampler l = judgedSampler k s.copies.staleLimit (s.sampler l) (senseOf w)
      ∧ (∀ g : Hatch, g ≠ h → t.latch l g = { s.latch l g with note := false }) ∧ after (senseOf w) t

/-- A latch record at the opening of its hatch: OPEN, with the hatch-held time set (R89, R93, R94, R95). -/
abbrev openedFrom (s : State) (r : LatchRec) : LatchRec :=
  { r with st := .opened, kind := .none, tray := false, openWait := 0, hatchHeld := s.copies.hatchHeld }

/-- An expected opening, front or rear: at OPEN_WAIT, or at RELATCH_PENDING after the hatch was opened or was not, the latch
is OPEN with the hatch-held time set. A late opening of the front hatch of an EXPIRED locker makes it COLLECTING, with the
expiry it had as collection expiry; no other opening changes the locker (R54, R89, R93, R94). -/
def HatchOpens : Prop :=
  ∀ (s : State) (l : Locker) (h : Hatch),
    let c := s.ctx l
    let r := s.latch l h
    r.st = .openWait ∨ r.st = .relatchPending ∧ (r.kind = .opened ∨ r.kind = .notOpened) →
    HatchReading l h s fun x t => closedAt x h = false →
      t.latch l h = openedFrom s r ∧ t.smp.fastPoll[l.val] = true
      ∧ (r.st = .relatchPending → r.kind = .notOpened → h = .front → c.life = .expired →
          t.ctx l = { c with
            life := .collecting, ret := .holding, reason := .none,
            collExp := match c.reason with
              | .holdLimit => some .holdLimit
              | .coldDwell => some .coldDwell
              | _ => none })
      ∧ (c.life ≠ .assigned →
          ¬ (r.st = .relatchPending ∧ r.kind = .notOpened ∧ h = .front ∧ c.life = .expired) → t.ctx l = c)

/-- A closing, front or rear: at OPEN the latch goes to RELATCH_PENDING with the tray as read, and a latch command is issued;
at LATCHED the forced-open note is cleared; at any other state the latch stands (R88, R90). -/
def HatchCloses : Prop :=
  ∀ (s : State) (l : Locker) (h : Hatch),
    let r := s.latch l h
    HatchReading l h s fun x t => closedAt x h = true →
      (r.st = .opened →
        t.latch l h = { r with st := .relatchPending, kind := .opened, tray := x.tray, openWait := 0, hatchHeld := 0 }
        ∧ LatchCommanded l s t ∧ t.smp.fastPoll[l.val] = true)
      ∧ (r.st = .latched → t.latch l h = { r with note := false })
      ∧ (r.st ≠ .opened → r.st ≠ .latched → t.latch l h = r)
      ∧ ((s.ctx l).life ≠ .assigned → t.ctx l = s.ctx l)

/-- A forced hatch, front or rear: seen open at LATCHED with no note standing the latch takes the note, and at HALT_WAIT or
UNLATCH_PENDING it is OPEN with the hatch-held time set; a FORCED record names the state it was seen in and the hatch, and
the locker is QUARANTINE with reason FORCED, unless it was QUARANTINE already, with its record after that. With the note
standing, and at OPEN and FAILED, nothing follows (R45, R88, R95). The reading makes no ASSIGNED locker LOADABLE first. -/
def HatchForced : Prop :=
  ∀ (s : State) (l : Locker) (h : Hatch),
    let r := s.latch l h
    HatchReading l h s fun x t => closedAt x h = false →
      (s.ctx l).life ≠ .assigned ∨ 300 < x.temp ∨ x.temp < (s.opts l).load →
      (r.st = .latched ∧ r.note = false ∨ r.st = .haltWait ∨ r.st = .unlatchPending →
        t.latch l h = (if r.st = .latched then { r with note := true } else openedFrom s r)
        ∧ QuarantinedBy .forced l s t
        ∧ HandedAll (recordOf s l .forced (BitVec.ofNat 16 r.st.code) (hatchWord h)
            :: quarantinedRecords .forced l s) s t)
      ∧ (r.st = .latched ∧ r.note = true ∨ r.st = .opened ∨ r.st = .failed →
        t.latch l h = r ∧ t.ctx l = s.ctx l ∧ t.rpw.queue = s.rpw.queue)

/-- A poll, fast or frame, follows one hatch of a locker, front or rear, the other closed behind a LATCHED latch: an expected
opening (R89), a reopening (R94) or a late opening (R93, R54) takes the latch to OPEN; a closing takes it to RELATCH_PENDING
with a latch command (R90); an opening that no release allows, such as the frame sweep alone sees at a locker with both
latches LATCHED (R97), is a forced hatch, with its reports and QUARANTINE (R45, R95). -/
def Obligations.FastPollFollowsTheHatch : Prop := HatchOpens ∧ HatchCloses ∧ HatchForced

/-- RPW's own landings: the record's takes it off the queue and asks for the WRITE index, a RING hold standing on; the WRITE
index's advances WRITE modulo R and sets attention for a masked kind; a STATUS landing ends the operation, or in the restore
adopts the ring; the restore's zero of the WRITE cell is followed by that of the READ cell. The landings that end an
operation release a RING hold: a read held for that reason alone is forwarded, and RPW starts no operation while it stands
(R11, R175, R178, R186). -/
def RingLandings : Prop :=
  ∀ (s : State) (m : MTxn), s.mpi.port = some m →
    let released (t : State) : Prop := s.mode = .operating → ∀ x mirror, s.cpi = .held x false mirror true →
      (mirror = false ∨ s.mrw.promo = [] → t.cpi = .waiting x .none)
      ∧ (mirror = true → s.mrw.promo ≠ [] → t.cpi = .held x false true false)
      ∧ (x.write = false → x.touchesRing s.copies = true → t.rpw.op = .idle)
    (∀ (r : Record) (rest : List Record), m.tag = .ringRecord → s.rpw.queue = r :: rest →
      Completes .ringRecordLand s fun t =>
        t.rpw.queue = rest ∧ t.rpw.op = .indexReq r.kind ∧ t.mem = s.mem.complete m.txn ∧ RingKept s t ∧ LockersKept s t
          ∧ (∀ x, s.cpi = .held x false false true → t.cpi = s.cpi))
    ∧ (∀ k : ReportKind, m.tag = .ringWriteIndex → s.rpw.op = .indexFly k →
      Completes .writeIndexLand s fun t =>
        t.rpw.write = (s.rpw.write + 1) % s.copies.ringSize ∧ t.rpw.read = s.rpw.read
          ∧ t.rpw.attention = (s.rpw.attention || s.rpw.mask.getLsbD k.code) ∧ t.mem = s.mem.complete m.txn
          ∧ LockersKept s t ∧ released t)
    ∧ (m.tag = .ringWriteIndex → s.rpw.op = .idle → s.rpw.adopted = false →
      Completes .writeIndexLand s fun t => t.rpw.stage = .zeroRead ∧ t.mem = s.mem.complete m.txn ∧ LockersKept s t)
    ∧ (m.tag = .ringStatus → s.rpw.adopted = true →
      Completes .statusLand s fun t =>
        t.mem = s.mem.complete m.txn ∧ RingKept s t ∧ LockersKept s t ∧ released t
          ∧ (s.rpw.queue = [] → s.rpw.statusMark = false → t.rpw.op = .idle))
    ∧ (m.tag = .ringStatus → s.rpw.adopted = false →
      Completes .statusLand s fun t =>
        t.rpw.adopted = true ∧ t.rpw.attention = s.rpw.attention ∧ t.mem = s.mem.complete m.txn ∧ LockersKept s t)

/-- The landing that ends an append, with no STATUS mark, records left in the queue and no ring read standing, has RPW judge
the ring with the WRITE index just taken. A ring with room has the head record appended next. In a full ring every record of
the queue is dropped and counted, in this step whole (log 13, the model's reading of R175): the lost count gains them, up to
255, the overrun is set, and where either has changed STATUS is written next. With the mark set, STATUS comes first. Nothing
dropped makes a change to attention (R175, R176). -/
def FullRingDrops : Prop :=
  ∀ (s : State) (m : MTxn) (k : ReportKind),
    s.mpi.port = some m → m.tag = .ringWriteIndex → s.rpw.op = .indexFly k → s.rpw.adopted = true →
    s.mode = .operating ∨ s.mode = .restoring → s.ringReadStands = false → s.rpw.queue ≠ [] →
    let size := s.copies.ringSize
    let full : Prop := ((s.rpw.write + 1) % size + size - s.rpw.read) % size = size - 1
    Completes .writeIndexLand s fun t =>
      (s.rpw.statusMark = true → t.rpw.op = .statusReq ∧ t.rpw.queue = s.rpw.queue ∧ t.rpw.lost = s.rpw.lost)
      ∧ (s.rpw.statusMark = false → ¬ full →
          t.rpw.op = .recordReq ∧ t.rpw.queue = s.rpw.queue ∧ t.rpw.lost = s.rpw.lost
          ∧ t.rpw.overrun = s.rpw.overrun ∧ t.rpw.statusMark = false)
      ∧ (s.rpw.statusMark = false → full →
          t.rpw.queue = [] ∧ t.rpw.lost = min 255 (s.rpw.lost + s.rpw.queue.length) ∧ t.rpw.overrun = true
          ∧ (s.rpw.lost < 255 ∨ s.rpw.overrun = false → t.rpw.statusMark = true ∧ t.rpw.op = .statusReq)
          ∧ (255 ≤ s.rpw.lost → s.rpw.overrun = true → t.rpw.statusMark = false ∧ t.rpw.op = .idle))
      ∧ t.rpw.attention = (s.rpw.attention || s.rpw.mask.getLsbD k.code) ∧ LockersKept s t

/-- A record handed to RPW, by the example of a refused write of one GUARD beat, in any state of the ring. While RPW's
operation stands, requested or in flight, the record joins the queue's tail, or with 4 in the queue is dropped and counted,
which sets the overrun, and the STATUS mark where the count or the overrun has changed; the operation stands as it was, a
request for the head record too (log 34, a choice of the model). With no operation, no STATUS mark and a full ring the record
is dropped and counted with those before it (log 13), and STATUS is written next (R9, R174 to R176). -/
def HandOffMeetsTheRing : Prop :=
  ∀ (s : State) (addr : Addr) (lanes : BitVec 4) (data : Word),
    let x : Txn := { write := true, addr := addr, lanes := lanes, len := 1, data := [data] }
    let r := s.rpw
    let changed : Prop := r.lost < 255 ∨ r.overrun = false
    Ready s → r.adopted = true → causeOf s x (x.beatAddr 0) = some .guard →
    Completes (.controllerWrite addr lanes [data]) s fun t =>
      (r.op ≠ .idle → r.queue.length < 4 →
        t.rpw = { r with queue := r.queue ++ [recordOfNone s .writeRefused 1 ((x.beatAddr 0).zeroExtend 32)] })
      ∧ (r.op ≠ .idle → 4 ≤ r.queue.length →
          t.rpw.queue = r.queue ∧ t.rpw.lost = min 255 (r.lost + 1) ∧ t.rpw.overrun = true ∧ t.rpw.op = r.op
          ∧ (changed → t.rpw.statusMark = true) ∧ (¬ changed → t.rpw.statusMark = r.statusMark) ∧ RingKept s t)
      ∧ (r.op = .idle → r.statusMark = false → r.queue.length < 4 → s.ringFull = true →
          t.rpw.queue = [] ∧ t.rpw.lost = min 255 (r.lost + r.queue.length + 1) ∧ t.rpw.overrun = true
          ∧ (changed → t.rpw.statusMark = true ∧ t.rpw.op = .statusReq)
          ∧ (¬ changed → t.rpw.statusMark = false ∧ t.rpw.op = .idle) ∧ RingKept s t)
      ∧ t.answer = some .refused ∧ LockersKept s t

/-- RPW's landings advance the ring and release RING holds, and a ring that has no room for a record loses it: what a full
ring or a full queue drops is counted, the overrun is set, and STATUS is written. Logs 13 and 34 are the model's readings
where R175 leaves the order of the drops and of STATUS open (R9, R11, R174, R175, R176, R178, R186). -/
def Obligations.RingLandingsAdvanceTheRing : Prop := RingLandings ∧ FullRingDrops ∧ HandOffMeetsTheRing

/-! ### Time -/

/-- AHU's next probe, from the state a command finds: with none standing or in flight, the first locker due at or after the
probe position and round again, and the position moves past it; with nothing due, none (R132). -/
abbrev NextProbe (s t : State) (due : Locker → Prop) : Prop :=
  (∀ k, FirstFrom s.copies.lockerCount due s.ahu.probePos.val k →
    t.ahu.req = some k ∧ MovedPast s.copies.lockerCount k t.ahu.probePos)
  ∧ ((∀ k : Locker, k.val < s.copies.lockerCount → ¬ due k) → t.ahu.req = none ∧ t.ahu.probePos = s.ahu.probePos)

/-- SMP's next read, with none standing or in flight: of the sweep's next locker and the first locker due for a fast poll, the
kind that the toggle names, or the one there is; the toggle then names the other kind, and a fast poll moves the fast
position past its locker (R148, R149). -/
abbrev NextPoll (s t : State) (sweepNext : Option Locker) (due : Locker → Prop) : Prop :=
  let count := s.copies.lockerCount
  let noneDue : Prop := ∀ k : Locker, k.val < count → ¬ due k
  (∀ f, sweepNext = some f → s.smp.toggle = .frame ∨ noneDue →
    t.smp.req = some (.frame, f) ∧ t.smp.toggle = .fast ∧ t.smp.fastPos = s.smp.fastPos)
  ∧ (∀ k, FirstFrom count due s.smp.fastPos.val k → s.smp.toggle = .fast ∨ sweepNext = none →
    t.smp.req = some (.fast, k) ∧ t.smp.toggle = .frame ∧ MovedPast count k t.smp.fastPos)
  ∧ (sweepNext = none → noneDue →
    t.smp.req = none ∧ t.smp.toggle = s.smp.toggle ∧ t.smp.fastPos = s.smp.fastPos)

/-- A probe-interval event makes due every locker below the locker count with a path in PROBING, and in OPERATING every
member of the fast-poll set; its phase begins again. With no probe standing or in flight AHU requests its next, and with no
read standing or in flight SMP requests its own, of the fast polls and a sweep that has a locker left which is not VACANT, or
that does not run; a request of either that still has its ground stands (R132, R145, R147 to R149). -/
def IntervalMakesDue : Prop :=
  ∀ s : State, s.tmb.probe ≠ none →
    Completes .probeInterval s fun t =>
      (∀ l : Locker, l.val < s.copies.lockerCount → s.probing l = true → t.ahu.due[l.val] = true)
      ∧ (s.mode = .operating → ∀ l : Locker, s.smp.fastPoll[l.val] = true → t.smp.fastDue[l.val] = true)
      ∧ (s.mode = .operating ∨ s.mode = .restoring →
          (∀ l : Locker, l.val < s.copies.lockerCount → t.ahu.due[l.val] = s.probing l)
          ∧ (s.ahu.req = none → s.probeFlying = false → NextProbe s t fun l => s.probing l = true)
          ∧ ∀ l, s.ahu.req = some l → s.probing l = true → t.ahu.req = some l ∧ t.ahu.probePos = s.ahu.probePos)
      ∧ (s.mode = .operating →
          let due (l : Locker) : Prop := s.smp.fastDue[l.val] = true ∨ s.smp.fastPoll[l.val] = true
          (s.smp.req = none → s.pollFlying = false →
            (∀ before f after, s.smp.sweep = some (before ++ f :: after) → (∀ k ∈ before, (s.ctx k).life = .vacant) →
              (s.ctx f).life ≠ .vacant → NextPoll s t (some f) due)
            ∧ (s.smp.sweep = none → NextPoll s t none due))
          ∧ ∀ l, s.smp.req = some (.fast, l) → s.smp.fastPoll[l.val] = true → t.smp.req = s.smp.req)
      ∧ t.tmb.probe = some 0 ∧ t.tmb.seconds = s.tmb.seconds ∧ LockersKept s t ∧ HeatKept s t ∧ SamplesKept s t
      ∧ OutsideKept s t

/-- At the grant of a probe the locker leaves the due set, and at the grant of a fast poll the fast-due set (R132, R148). -/
def GrantEndsDue : Prop :=
  ∀ (s : State) (x : Txn) (l : Locker), s.mpi.port = none →
    (nextGrant s = some (.ahu, ⟨.probe l, x⟩) →
      Completes .mportGrant s fun t => t.ahu.due[l.val] = false ∧ t.ahu.req = none)
    ∧ (nextGrant s = some (.smp, ⟨.poll .fast l, x⟩) →
      Completes .mportGrant s fun t => t.smp.fastDue[l.val] = false ∧ t.smp.req = none)

/-- When a probe has completed whose command was superseded, AHU requests its next of the lockers that are still due. A locker
with no path left in PROBING is due no more, also where its request does not stand (log 33, read from R132), so that one
whose path enters PROBING again waits for the next probe-interval event (R132, R133). -/
def ProbesGoRound : Prop :=
  ∀ (s : State) (x : Txn) (l : Locker) (port2 : List PortWrite) (fault : Bool),
    s.mode = .operating ∨ s.mode = .restoring → s.mpi.port = some ⟨.probe l, x⟩ → s.probing l = false →
    s.ahu.req = none →
    Completes (.probeComplete port2 fault) s fun t =>
      NextProbe s t (fun k => s.ahu.due[k.val] = true ∧ s.probing k = true)
      ∧ (∀ k : Locker, t.ahu.due[k.val] = (s.ahu.due[k.val] && s.probing k)) ∧ t.ahu.paths = s.ahu.paths
      ∧ LockersKept s t

/-- Who is due, and who is read next. A probe-interval event makes lockers due for probes and fast polls; AHU and SMP each
take the first due from their position on and round again, SMP in turn with the sweep's reads; a grant ends a locker's being
due. That a locker left with no path in PROBING is due no more before its request is log 33, read from R132 (R132, R133, R145,
R147 to R149). -/
def Obligations.ProbeIntervalMakesLockersDue : Prop := IntervalMakesDue ∧ GrantEndsDue ∧ ProbesGoRound

/-- A frame start in OPERATING. The lockers that the walk of the ranking grants are those with an energised channel after
it, as many as the energised count, at most the capacity; their entries leave the queues and the others keep their places.
An entry that stays was passed over for want of a channel, or lies where the granted count had reached the capacity, with
nothing granted after it. A granted locker keeps its energised channel or has a FREE one with an on command; an energised
channel of any other locker is released with an off command. The overrun flag is judged by the hold queue left and the
granted count, with its reports. A sweep that runs makes the next one owed, and otherwise one starts; while a poll is in
flight, a sweep with nothing left to read runs still, and one that starts with nothing to read runs too (log 31, a choice of
the model). Contexts and latches stand (R111, R112, R113, R147). -/
def Obligations.FrameStartRationsHeat : Prop :=
  ∀ s : State, s.mode = .operating → s.tmb.frame ≠ none → ChannelsDistinct s → QueuesDistinct s →
    let granted := (walkRanking s).2
    Completes .frameStart s fun t =>
      (granted.length = t.energisedCount ∧ granted.length ≤ s.hsc.capacity
        ∧ (∀ l : Locker, l ∈ granted ↔ ∃ i : Chan, (t.chan i).st.energised = some l))
      ∧ (∀ l ∈ granted, l ∈ s.ranking)
      ∧ t.hsc.hq = s.hsc.hq.filter (· ∉ granted) ∧ t.hsc.wq = s.hsc.wq.filter (· ∉ granted)
      ∧ (∀ before l after, s.ranking = before ++ l :: after → l ∉ granted →
          PassedOver l s t ∨ granted.length = s.hsc.capacity ∧ ∀ k ∈ after, k ∉ granted)
      ∧ (∀ i l, (s.chan i).st.energised = some l → l ∈ granted → t.chan i = s.chan i)
      ∧ (∀ i l, (s.chan i).st.energised = some l → l ∉ granted →
          t.chan i = { s.chan i with st := .offPending l } ∧ HeatCommanded l false s t)
      ∧ (∀ l ∈ granted, (∀ i : Chan, (s.chan i).st.attached ≠ some l) →
          HeatCommanded l true s t ∧ ∃ i ∈ freeChans s, (t.chan i).st = .onPending l)
      ∧ (∀ i : Chan, (s.chan i).st.energised = none → i ∉ freeChans s → t.chan i = s.chan i)
      ∧ (t.hsc.hq = [] → t.hsc.overrun = false)
      ∧ (t.hsc.hq ≠ [] → granted.length = s.hsc.capacity → t.hsc.overrun = true)
      ∧ (t.hsc.hq ≠ [] → granted.length < s.hsc.capacity → t.hsc.overrun = s.hsc.overrun)
      ∧ (s.ringFull = false →
          (s.hsc.overrun = false → t.hsc.overrun = true → Handed (recordOfNone s .holdOverrun
            (BitVec.ofNat 16 s.hsc.capacity) (BitVec.ofNat 32 t.hsc.hq.length)) s t)
          ∧ (s.hsc.overrun = true → t.hsc.overrun = false → Handed (recordOfNone s .holdOverrunEnd
            (BitVec.ofNat 16 s.hsc.capacity) 0) s t)
          ∧ (t.hsc.overrun = s.hsc.overrun → t.rpw.queue = s.rpw.queue))
      ∧ t.hsc.capacity = s.hsc.capacity
      ∧ (s.pollFlying = true → s.smp.sweep ≠ none → t.smp.owed = true ∧ t.smp.sweep = s.smp.sweep)
      ∧ (s.pollFlying = true → s.smp.sweep = none → t.smp.owed = s.smp.owed
          ∧ t.smp.sweep = some (s.lockers.filter fun l => (s.ctx l).life ≠ .vacant))
      ∧ t.tmb.frame = some 0 ∧ t.tmb.seconds = s.tmb.seconds ∧ LockersKept s t ∧ SamplesKept s t ∧ OutsideKept s t

/-- A seconds event advances the seconds counter, and counts hold-elapsed, and cold-dwell when the latest valid sample is
below the class hold lower limit, of a HOLDING or COLLECTING locker. One that reaches no limit, and a COLLECTING locker with
a collection expiry whatever it reaches, changes in nothing else but its lockout, of which a second runs off: with none left
the lockout ends and attempts are 0. A locker in any other state changes in its lockout alone, and one that is not locked
out keeps its context. LKE and LTC may take the event in either order (R76, R144, R157, R158). -/
def Obligations.SecondsEventCountsHolding : Prop :=
  ∀ (s : State) (latchesFirst : Bool), s.tmb.second ≠ none →
    Completes (.secondsEvent latchesFirst) s fun t =>
      t.tmb.seconds = s.tmb.seconds + 1 ∧ t.tmb.second = some 0
      ∧ (∀ l : Locker, l.val < s.copies.lockerCount → (s.ctx l).life = .holding ∨ (s.ctx l).life = .collecting →
          let c := timesCounted s l
          (¬ holdReached s l c ∧ ¬ coldReached s l c) ∨ ((s.ctx l).life = .collecting ∧ (s.ctx l).collExp ≠ none) →
          t.ctx l = lockoutCounted c)
      ∧ (∀ l : Locker, l.val < s.copies.lockerCount → (s.ctx l).life ≠ .holding → (s.ctx l).life ≠ .collecting →
          t.ctx l = lockoutCounted (s.ctx l))
      ∧ (∀ l : Locker, s.copies.lockerCount ≤ l.val → t.ctx l = s.ctx l)
      ∧ (∀ l : Locker, (s.ctx l).life ≠ .holding → (s.ctx l).life ≠ .collecting → (s.ctx l).lockedOut = false →
          t.ctx l = s.ctx l)
      ∧ OutsideKept s t ∧ t.sup = s.sup

/-- EXPIRY, a locker's own share of a seconds event (log 16, a choice of the model): a HOLDING locker whose count reaches its
limit is EXPIRED, HOLD_LIMIT first, with its entry gone, its channel halted and an EXPIRED record of the counts. A COLLECTING
locker with no collection expiry stays COLLECTING with its front hatch open, or relatching after it was opened: it takes the
expiry as its collection expiry, with an EXPIRED record marked so. Otherwise it is EXPIRED, and a front release that is under
way is withdrawn, with its report (R42, R44, R53, R62, R158). -/
def Obligations.ExpiryEndsHolding : Prop :=
  ∀ (s : State) (l : Locker), l.val < s.copies.lockerCount → s.ringFull = false → ChannelsDistinct s →
    let c := timesCounted s l
    let e : ExpiryReason := if holdReached s l c then .holdLimit else .coldDwell
    let counts : Word := (BitVec.ofNat 16 c.cold ++ BitVec.ofNat 16 c.hold : BitVec 32)
    let expired : Context := { c with life := .expired, reason := e.reason, ret := .none, collExp := none }
    let record (mark : Nat) : Record :=
      recordOf s l .expired (BitVec.ofNat 16 ((if holdReached s l c then 1 else 2) + mark)) counts
    let withdrawn : Record := recordOf s l .collectWithdrawn 6 0
    let r := s.latch l .front
    (holdReached s l c ∨ coldReached s l c) →
    ((s.ctx l).life = .holding →
      Completes (.expiry l) s fun t =>
        t.ctx l = expired ∧ l ∉ t.hsc.hq ∧ (∀ i : Chan, (t.chan i).st.energised ≠ some l) ∧ t.ltc = s.ltc
        ∧ OtherLockersKept l s t ∧ Handed (record 0) s t ∧ OutsideKept s t ∧ ClockKept s t)
    ∧ ((s.ctx l).life = .collecting → (s.ctx l).collExp = none →
        r.st = .opened ∨ r.st = .relatchPending ∧ r.kind = .opened →
      Completes (.expiry l) s fun t =>
        t.ctx l = { c with collExp := some e } ∧ t.ltc = s.ltc ∧ HeatKept s t ∧ OtherLockersKept l s t
        ∧ Handed (record 256) s t ∧ OutsideKept s t ∧ ClockKept s t)
    ∧ ((s.ctx l).life = .collecting → (s.ctx l).collExp = none → (s.latch l .rear).st = .latched →
        ¬ (r.st = .opened ∨ r.st = .relatchPending ∧ r.kind = .opened) →
      Completes (.expiry l) s fun t =>
        t.ctx l = expired ∧ (∀ i : Chan, (t.chan i).st.energised ≠ some l) ∧ t.latch l .rear = s.latch l .rear
        ∧ (r.st = .haltWait →
            t.latch l .front = { r with st := .latched, kind := .none, tray := false, openWait := 0, hatchHeld := 0 }
            ∧ HandedAll [record 0, withdrawn] s t)
        ∧ (r.st = .unlatchPending ∨ r.st = .openWait →
            t.latch l .front = { r with
              st := .relatchPending, kind := .notOpened, tray := false, openWait := 0, hatchHeld := 0 }
            ∧ LatchCommanded l s t ∧ HandedAll [record 0, withdrawn] s t)
        ∧ (r.st = .relatchPending → r.kind = .notOpened →
            t.latch l .front = r ∧ HandedAll [record 0, withdrawn] s t)
        ∧ (r.st = .latched ∨ r.st = .failed → t.latch l .front = r ∧ Handed (record 0) s t)
        ∧ OtherLockersKept l s t ∧ OutsideKept s t ∧ ClockKept s t)

/-- LOCKOUT_END, OPEN_WAIT_EXPIRY and HATCH_HELD, each a locker's or latch's own share of a seconds event (log 16, a choice
of the model): a lockout with no second left ends with attempts 0 and its report; an open-wait with none left re-engages
the latch, not opened; a hatch held to its last second is reported once and stays OPEN (R76, R78, R89, R92, R100). -/
def Obligations.SecondsRunOut : Prop :=
  ∀ (s : State) (l : Locker), l.val < s.copies.lockerCount → s.ringFull = false →
    ((s.ctx l).lockedOut = true → (s.ctx l).lockoutLeft ≤ 1 → Completes (.lockoutEnd l) s fun t =>
      t.ctx l = { s.ctx l with lockedOut := false, lockoutLeft := 0, attempts := 0 } ∧ (t.marks l).state = true
      ∧ Handed { kind := .lockoutEnd, locker := BitVec.ofNat 8 l.val, detail := BitVec.ofNat 16 (s.ctx l).life.code,
                 order := (s.ctx l).order, time := s.tmb.seconds, data := 0 } s t
      ∧ OtherLockersKept l s t ∧ t.ltc = s.ltc ∧ HeatKept s t ∧ OutsideKept s t)
    ∧ (∀ h : Hatch, (s.latch l h).st = .openWait → (s.latch l h).openWait ≤ 1 →
      Completes (.openWaitExpiry l h) s fun t =>
        (t.latch l h).st = .relatchPending ∧ (t.latch l h).kind = .notOpened ∧ (t.latch l h).openWait = 0
        ∧ (t.paths l).relFront = false ∧ (t.paths l).relRear = false ∧ (t.paths l).latch.st = .writing
        ∧ (t.paths l).latch.seq = (s.paths l).latch.seq + 1 ∧ (t.marks l).latch = true ∧ t.lke = s.lke
        ∧ (∀ g : Hatch, g ≠ h → t.latch l g = s.latch l g) ∧ t.rpw.queue = s.rpw.queue ∧ OutsideKept s t)
    ∧ (∀ h : Hatch, (s.latch l h).st = .opened → (s.latch l h).hatchHeld = 1 →
      Completes (.hatchHeld l h) s fun t =>
        t.latch l h = { s.latch l h with hatchHeld := 0 } ∧ LockersKept s { t with ltc := s.ltc }
        ∧ (∀ g : Hatch, g ≠ h → t.latch l g = s.latch l g) ∧ HeatKept s t ∧ OutsideKept s t
        ∧ Handed { kind := .hatchHeld, locker := BitVec.ofNat 8 l.val, detail := BitVec.ofNat 16 (s.ctx l).life.code,
                   order := (s.ctx l).order, time := s.tmb.seconds,
                   data := match h with | .front => 0 | .rear => 1 } s t)

/-! ### The supply -/

/-- A crossing of FEED: each timer that the supply state names runs on or starts at 0 while its condition holds, and is
cleared otherwise; the supply state and the capacity stand (R163, R164). The time since SUP's last event comes with the
crossing (log 18, a choice of the model). -/
def Obligations.CrossingSetsTimers : Prop :=
  ∀ (s : State) (feed elapsed : Nat), s.mode = .restoring ∨ s.mode = .operating →
    Completes (.feedCrossing feed elapsed) s fun t =>
      t.feed = feed ∧ t.sup = timersOf s.sup.st feed elapsed s.copies s.sup ∧ LockersKept s t ∧ HeatKept s t ∧ t.tmb = s.tmb ∧ t.mem = s.mem

/-- The completions of the four dwell timers: the transition, the capacity handed to HSC with the energised count brought
within it, and the SUPPLY_STATE record of the state entered, the state left and the capacity. A capacity that falls halts
channels until the energised count is within it, each with an off command, those of warming lockers ahead of the others and
the most recent grant first; one that rises makes a late grant in OPERATING; one that stands changes no channel. The two
trips of NORMAL that complete together are one transition to CUT (log 19), and channels of lockers in no warming state are
one group, HOLDING or not (log 24). The timers are set for the state entered: one that it names runs on, by what was left of
the dwell completed (log 18), or starts at 0, while its condition holds, and any other is clear. An event whose timer is
clear changes nothing (R102, R105, R114, R118, R119, R164, R165, R166, R167, R168, R172). -/
def Obligations.CompletionsChangeSupply : Prop :=
  (∀ (s : State) (c : Instr) (left entered : Supply) (capacity : Nat),
    s.ringFull = false → s.energisedCount ≤ s.hsc.capacity → s.sup.st = left →
    (c = .shedTrip ∧ left = .normal ∧ entered = .shed ∧ capacity = s.copies.cshed
        ∧ (∃ e, s.sup.shedTrip = some e ∧ ∀ k, s.sup.cutTrip = some k → k < e)
      ∨ (c = .shedTrip ∨ c = .cutTrip) ∧ left = .normal ∧ entered = .cut ∧ capacity = 0
        ∧ (∃ e k, s.sup.shedTrip = some e ∧ s.sup.cutTrip = some k ∧ e ≤ k)
      ∨ c = .cutTrip ∧ left = .shed ∧ entered = .cut ∧ capacity = 0 ∧ s.sup.cutTrip ≠ none
      ∨ c = .shedRelease ∧ left = .shed ∧ entered = .normal ∧ capacity = s.copies.cmax ∧ s.sup.shedRelease ≠ none
      ∨ c = .cutRelease ∧ left = .cut ∧ entered = .shed ∧ capacity = s.copies.cshed ∧ s.sup.cutRelease ≠ none) →
    Completes c s fun t =>
      t.sup = timersOf entered s.feed (dwellLeft c s.sup) s.copies s.sup ∧ t.hsc.capacity = capacity ∧ t.energisedCount ≤ capacity
      ∧ Handed { kind := .supplyState, locker := 255, detail := BitVec.ofNat 16 entered.code, order := 0,
                 time := s.tmb.seconds,
                 data := BitVec.ofNat 32 (capacity % 65536 + 65536 * left.code) } s t
      ∧ t.hsc.hq = s.hsc.hq ∧ t.hsc.wq = s.hsc.wq ∧ t.hsc.overrun = s.hsc.overrun ∧ LockersKept s t ∧ t.tmb = s.tmb
      ∧ OutsideKept s t
      ∧ (capacity < s.hsc.capacity → ChannelsDistinct s →
          t.energisedCount = min s.energisedCount capacity ∧ t.hsc.grants = s.hsc.grants
          ∧ (∀ v l, (s.chan v).st.energised = some l →
              t.chan v = s.chan v
              ∨ t.chan v = { s.chan v with st := .offPending l } ∧ HeatCommanded l false s t
                ∧ ∀ w, (t.chan w).st.energised.isSome = true → HaltedAhead s v w)
          ∧ (∀ v : Chan, (s.chan v).st.energised = none → t.chan v = s.chan v))
      ∧ (s.hsc.capacity < capacity → s.mode = .operating → ChannelsDistinct s → QueuesDistinct s →
          LateGranted { s with hsc := { s.hsc with capacity := capacity } } t)
      ∧ (capacity = s.hsc.capacity ∨ s.hsc.capacity < capacity ∧ s.mode ≠ .operating →
          t.hsc.chans = s.hsc.chans ∧ t.ahu.paths = s.ahu.paths ∧ t.hsc.grants = s.hsc.grants))
  ∧ ∀ s : State,
    (s.sup.shedTrip = none → exec .shedTrip s = .next s) ∧ (s.sup.cutTrip = none → exec .cutTrip s = .next s)
    ∧ (s.sup.shedRelease = none → exec .shedRelease s = .next s) ∧ (s.sup.cutRelease = none → exec .cutRelease s = .next s)

/-! ### The maintenance line and the lines -/

/-- The maintenance operations out of reset: READ answers the word, or 0 for words 26 to 33 of a locked store; WRITE programs
an erased word with PROG high outside validation; ERASE with PROG high erases all words; everything else is REFUSED and
changes nothing (R181, R182). -/
def Obligations.MaintenanceOperations : Prop :=
  ∀ (s : State) (prog : Bool) (op index : BitVec 8) (data : Word), s.mode ≠ .inReset →
    (∀ h : index.toNat < 64, exec (.maintRead index) s = .next { s with
      maint := some (.ok (some (if s.store[62] = 0 ∧ 26 ≤ index.toNat ∧ index.toNat ≤ 33 then 0 else s.store[index.toNat]))) })
    ∧ (64 ≤ index.toNat → exec (.maintRead index) s = .next { s with maint := some .refused })
    ∧ (∀ h : index.toNat < 64, prog = true → s.mode ≠ .validating → s.store[index.toNat] = 0xFFFFFFFF →
        exec (.maintWrite prog index data) s = .next { s with
          store := s.store.set index.toNat data, maint := some (.ok none) })
    ∧ (prog = false ∨ s.mode = .validating ∨ 64 ≤ index.toNat
        ∨ (∃ h : index.toNat < 64, s.store[index.toNat] ≠ 0xFFFFFFFF) →
        exec (.maintWrite prog index data) s = .next { s with maint := some .refused })
    ∧ (prog = true → s.mode ≠ .validating → exec (.maintErase prog index) s = .next { s with
        store := Vector.replicate 64 0xFFFFFFFF, maint := some (.ok none) })
    ∧ (prog = false ∨ s.mode = .validating → exec (.maintErase prog index) s = .next { s with maint := some .refused })
    ∧ (opInvalid op = true → exec (.maintInvalid op index) s = .next { s with maint := some .refused })

/-- The store is locked while word 62 holds 0: a WRITE of 0 to the erased word locks it, a READ then answers 0 for words 26
to 33, no command but an ERASE ends it, and it changes neither the result of validation nor what is copied (R182). -/
def Obligations.StoreLockHidesStaffCodes : Prop :=
  (∀ s : State, s.storeLocked = true ↔ s.store[62] = 0)
  ∧ (∀ s : State, s.mode ≠ .inReset → s.mode ≠ .validating → s.store[62] = 0xFFFFFFFF →
      Completes (.maintWrite true 62 0) s fun t => t.maint = some (.ok none) ∧ t.storeLocked = true)
  ∧ (∀ (s : State) (index : BitVec 8), s.mode ≠ .inReset → s.storeLocked = true → 26 ≤ index.toNat → index.toNat ≤ 33 →
      exec (.maintRead index) s = .next { s with maint := some (.ok (some 0)) })
  ∧ (∀ (c : Instr) (s t : State), s.storeLocked = true → exec c s = .next t → t.storeLocked = false →
      ∃ prog index, c = .maintErase prog index ∧ t.store = Vector.replicate 64 0xFFFFFFFF)
  ∧ (∀ (st : Vector Word 64) (w : Word),
      storeValid (st.set 62 w) = storeValid st ∧ storeCopies (st.set 62 w) = storeCopies st)

/-- FAULT is asserted in UNCONFIGURED, and in RESTORING and OPERATING while a locker is in QUARANTINE or a channel is LOST;
ATTN while attention-pending is set and the ring is adopted; neither in reset or validation (R178, R179). -/
def Obligations.LinesFollowTheState : Prop :=
  ∀ s : State,
    (s.mode = .unconfigured → s.faultLine = true ∧ s.attnLine = false)
    ∧ (s.mode = .inReset ∨ s.mode = .validating → s.faultLine = false ∧ s.attnLine = false)
    ∧ (s.mode = .restoring ∨ s.mode = .operating → QuarantineCounted s → LostChannelsCounted s →
        (s.faultLine = true ↔ (∃ l : Locker, (s.ctx l).life = .quarantine) ∨ ∃ i : Chan, (s.chan i).st = .lost)
        ∧ (s.attnLine = true ↔ s.rpw.adopted = true ∧ s.rpw.attention = true))
end

