-- ==== Sys2Proof/Laws/State.lean ====
section
/-! SUPPORT. What each named update of the state leaves in each field, and what it leaves at each locker or channel. -/

namespace Sys2Proof.Machine

/-! ### putMark -/

@[simp] theorem putMark_pending (l : Locker) (c : MarkCell) (b : Bool) (s : State) : (putMark l c b s).pending = s.pending := rfl
@[simp] theorem putMark_mode (l : Locker) (c : MarkCell) (b : Bool) (s : State) : (putMark l c b s).mode = s.mode := rfl
@[simp] theorem putMark_cause (l : Locker) (c : MarkCell) (b : Bool) (s : State) : (putMark l c b s).cause = s.cause := rfl
@[simp] theorem putMark_store (l : Locker) (c : MarkCell) (b : Bool) (s : State) : (putMark l c b s).store = s.store := rfl
@[simp] theorem putMark_restore (l : Locker) (c : MarkCell) (b : Bool) (s : State) : (putMark l c b s).restore = s.restore := rfl
@[simp] theorem putMark_copies (l : Locker) (c : MarkCell) (b : Bool) (s : State) : (putMark l c b s).copies = s.copies := rfl
@[simp] theorem putMark_cpi (l : Locker) (c : MarkCell) (b : Bool) (s : State) : (putMark l c b s).cpi = s.cpi := rfl
@[simp] theorem putMark_answer (l : Locker) (c : MarkCell) (b : Bool) (s : State) : (putMark l c b s).answer = s.answer := rfl
@[simp] theorem putMark_lke (l : Locker) (c : MarkCell) (b : Bool) (s : State) : (putMark l c b s).lke = s.lke := rfl
@[simp] theorem putMark_ltc (l : Locker) (c : MarkCell) (b : Bool) (s : State) : (putMark l c b s).ltc = s.ltc := rfl
@[simp] theorem putMark_hsc (l : Locker) (c : MarkCell) (b : Bool) (s : State) : (putMark l c b s).hsc = s.hsc := rfl
@[simp] theorem putMark_ahu (l : Locker) (c : MarkCell) (b : Bool) (s : State) : (putMark l c b s).ahu = s.ahu := rfl
@[simp] theorem putMark_smp (l : Locker) (c : MarkCell) (b : Bool) (s : State) : (putMark l c b s).smp = s.smp := rfl
@[simp] theorem putMark_tmb (l : Locker) (c : MarkCell) (b : Bool) (s : State) : (putMark l c b s).tmb = s.tmb := rfl
@[simp] theorem putMark_sup (l : Locker) (c : MarkCell) (b : Bool) (s : State) : (putMark l c b s).sup = s.sup := rfl
@[simp] theorem putMark_feed (l : Locker) (c : MarkCell) (b : Bool) (s : State) : (putMark l c b s).feed = s.feed := rfl
@[simp] theorem putMark_rpw (l : Locker) (c : MarkCell) (b : Bool) (s : State) : (putMark l c b s).rpw = s.rpw := rfl
@[simp] theorem putMark_mpi (l : Locker) (c : MarkCell) (b : Bool) (s : State) : (putMark l c b s).mpi = s.mpi := rfl
@[simp] theorem putMark_maint (l : Locker) (c : MarkCell) (b : Bool) (s : State) : (putMark l c b s).maint = s.maint := rfl
@[simp] theorem putMark_mem (l : Locker) (c : MarkCell) (b : Bool) (s : State) : (putMark l c b s).mem = s.mem := rfl

/-! ### handRecord -/

@[simp] theorem handRecord_pending (r : Record) (s : State) : (handRecord r s).pending = s.pending := rfl
@[simp] theorem handRecord_mode (r : Record) (s : State) : (handRecord r s).mode = s.mode := rfl
@[simp] theorem handRecord_cause (r : Record) (s : State) : (handRecord r s).cause = s.cause := rfl
@[simp] theorem handRecord_store (r : Record) (s : State) : (handRecord r s).store = s.store := rfl
@[simp] theorem handRecord_restore (r : Record) (s : State) : (handRecord r s).restore = s.restore := rfl
@[simp] theorem handRecord_copies (r : Record) (s : State) : (handRecord r s).copies = s.copies := rfl
@[simp] theorem handRecord_cpi (r : Record) (s : State) : (handRecord r s).cpi = s.cpi := rfl
@[simp] theorem handRecord_answer (r : Record) (s : State) : (handRecord r s).answer = s.answer := rfl
@[simp] theorem handRecord_lke (r : Record) (s : State) : (handRecord r s).lke = s.lke := rfl
@[simp] theorem handRecord_ltc (r : Record) (s : State) : (handRecord r s).ltc = s.ltc := rfl
@[simp] theorem handRecord_hsc (r : Record) (s : State) : (handRecord r s).hsc = s.hsc := rfl
@[simp] theorem handRecord_ahu (r : Record) (s : State) : (handRecord r s).ahu = s.ahu := rfl
@[simp] theorem handRecord_smp (r : Record) (s : State) : (handRecord r s).smp = s.smp := rfl
@[simp] theorem handRecord_tmb (r : Record) (s : State) : (handRecord r s).tmb = s.tmb := rfl
@[simp] theorem handRecord_sup (r : Record) (s : State) : (handRecord r s).sup = s.sup := rfl
@[simp] theorem handRecord_feed (r : Record) (s : State) : (handRecord r s).feed = s.feed := rfl
@[simp] theorem handRecord_mrw (r : Record) (s : State) : (handRecord r s).mrw = s.mrw := rfl
@[simp] theorem handRecord_mpi (r : Record) (s : State) : (handRecord r s).mpi = s.mpi := rfl
@[simp] theorem handRecord_maint (r : Record) (s : State) : (handRecord r s).maint = s.maint := rfl
@[simp] theorem handRecord_mem (r : Record) (s : State) : (handRecord r s).mem = s.mem := rfl

/-! ### dropHq -/

@[simp] theorem dropHq_pending (l : Locker) (s : State) : (dropHq l s).pending = s.pending := rfl
@[simp] theorem dropHq_mode (l : Locker) (s : State) : (dropHq l s).mode = s.mode := rfl
@[simp] theorem dropHq_cause (l : Locker) (s : State) : (dropHq l s).cause = s.cause := rfl
@[simp] theorem dropHq_store (l : Locker) (s : State) : (dropHq l s).store = s.store := rfl
@[simp] theorem dropHq_restore (l : Locker) (s : State) : (dropHq l s).restore = s.restore := rfl
@[simp] theorem dropHq_copies (l : Locker) (s : State) : (dropHq l s).copies = s.copies := rfl
@[simp] theorem dropHq_cpi (l : Locker) (s : State) : (dropHq l s).cpi = s.cpi := rfl
@[simp] theorem dropHq_answer (l : Locker) (s : State) : (dropHq l s).answer = s.answer := rfl
@[simp] theorem dropHq_lke (l : Locker) (s : State) : (dropHq l s).lke = s.lke := rfl
@[simp] theorem dropHq_ltc (l : Locker) (s : State) : (dropHq l s).ltc = s.ltc := rfl
@[simp] theorem dropHq_ahu (l : Locker) (s : State) : (dropHq l s).ahu = s.ahu := rfl
@[simp] theorem dropHq_smp (l : Locker) (s : State) : (dropHq l s).smp = s.smp := rfl
@[simp] theorem dropHq_tmb (l : Locker) (s : State) : (dropHq l s).tmb = s.tmb := rfl
@[simp] theorem dropHq_sup (l : Locker) (s : State) : (dropHq l s).sup = s.sup := rfl
@[simp] theorem dropHq_feed (l : Locker) (s : State) : (dropHq l s).feed = s.feed := rfl
@[simp] theorem dropHq_mrw (l : Locker) (s : State) : (dropHq l s).mrw = s.mrw := rfl
@[simp] theorem dropHq_rpw (l : Locker) (s : State) : (dropHq l s).rpw = s.rpw := rfl
@[simp] theorem dropHq_mpi (l : Locker) (s : State) : (dropHq l s).mpi = s.mpi := rfl
@[simp] theorem dropHq_maint (l : Locker) (s : State) : (dropHq l s).maint = s.maint := rfl
@[simp] theorem dropHq_mem (l : Locker) (s : State) : (dropHq l s).mem = s.mem := rfl

/-! ### dropWq -/

@[simp] theorem dropWq_pending (l : Locker) (s : State) : (dropWq l s).pending = s.pending := rfl
@[simp] theorem dropWq_mode (l : Locker) (s : State) : (dropWq l s).mode = s.mode := rfl
@[simp] theorem dropWq_cause (l : Locker) (s : State) : (dropWq l s).cause = s.cause := rfl
@[simp] theorem dropWq_store (l : Locker) (s : State) : (dropWq l s).store = s.store := rfl
@[simp] theorem dropWq_restore (l : Locker) (s : State) : (dropWq l s).restore = s.restore := rfl
@[simp] theorem dropWq_copies (l : Locker) (s : State) : (dropWq l s).copies = s.copies := rfl
@[simp] theorem dropWq_cpi (l : Locker) (s : State) : (dropWq l s).cpi = s.cpi := rfl
@[simp] theorem dropWq_answer (l : Locker) (s : State) : (dropWq l s).answer = s.answer := rfl
@[simp] theorem dropWq_lke (l : Locker) (s : State) : (dropWq l s).lke = s.lke := rfl
@[simp] theorem dropWq_ltc (l : Locker) (s : State) : (dropWq l s).ltc = s.ltc := rfl
@[simp] theorem dropWq_ahu (l : Locker) (s : State) : (dropWq l s).ahu = s.ahu := rfl
@[simp] theorem dropWq_smp (l : Locker) (s : State) : (dropWq l s).smp = s.smp := rfl
@[simp] theorem dropWq_tmb (l : Locker) (s : State) : (dropWq l s).tmb = s.tmb := rfl
@[simp] theorem dropWq_sup (l : Locker) (s : State) : (dropWq l s).sup = s.sup := rfl
@[simp] theorem dropWq_feed (l : Locker) (s : State) : (dropWq l s).feed = s.feed := rfl
@[simp] theorem dropWq_mrw (l : Locker) (s : State) : (dropWq l s).mrw = s.mrw := rfl
@[simp] theorem dropWq_rpw (l : Locker) (s : State) : (dropWq l s).rpw = s.rpw := rfl
@[simp] theorem dropWq_mpi (l : Locker) (s : State) : (dropWq l s).mpi = s.mpi := rfl
@[simp] theorem dropWq_maint (l : Locker) (s : State) : (dropWq l s).maint = s.maint := rfl
@[simp] theorem dropWq_mem (l : Locker) (s : State) : (dropWq l s).mem = s.mem := rfl

/-! ### setFastPoll -/

@[simp] theorem setFastPoll_pending (l : Locker) (b : Bool) (s : State) : (setFastPoll l b s).pending = s.pending := rfl
@[simp] theorem setFastPoll_mode (l : Locker) (b : Bool) (s : State) : (setFastPoll l b s).mode = s.mode := rfl
@[simp] theorem setFastPoll_cause (l : Locker) (b : Bool) (s : State) : (setFastPoll l b s).cause = s.cause := rfl
@[simp] theorem setFastPoll_store (l : Locker) (b : Bool) (s : State) : (setFastPoll l b s).store = s.store := rfl
@[simp] theorem setFastPoll_restore (l : Locker) (b : Bool) (s : State) : (setFastPoll l b s).restore = s.restore := rfl
@[simp] theorem setFastPoll_copies (l : Locker) (b : Bool) (s : State) : (setFastPoll l b s).copies = s.copies := rfl
@[simp] theorem setFastPoll_cpi (l : Locker) (b : Bool) (s : State) : (setFastPoll l b s).cpi = s.cpi := rfl
@[simp] theorem setFastPoll_answer (l : Locker) (b : Bool) (s : State) : (setFastPoll l b s).answer = s.answer := rfl
@[simp] theorem setFastPoll_lke (l : Locker) (b : Bool) (s : State) : (setFastPoll l b s).lke = s.lke := rfl
@[simp] theorem setFastPoll_ltc (l : Locker) (b : Bool) (s : State) : (setFastPoll l b s).ltc = s.ltc := rfl
@[simp] theorem setFastPoll_hsc (l : Locker) (b : Bool) (s : State) : (setFastPoll l b s).hsc = s.hsc := rfl
@[simp] theorem setFastPoll_ahu (l : Locker) (b : Bool) (s : State) : (setFastPoll l b s).ahu = s.ahu := rfl
@[simp] theorem setFastPoll_tmb (l : Locker) (b : Bool) (s : State) : (setFastPoll l b s).tmb = s.tmb := rfl
@[simp] theorem setFastPoll_sup (l : Locker) (b : Bool) (s : State) : (setFastPoll l b s).sup = s.sup := rfl
@[simp] theorem setFastPoll_feed (l : Locker) (b : Bool) (s : State) : (setFastPoll l b s).feed = s.feed := rfl
@[simp] theorem setFastPoll_mrw (l : Locker) (b : Bool) (s : State) : (setFastPoll l b s).mrw = s.mrw := rfl
@[simp] theorem setFastPoll_rpw (l : Locker) (b : Bool) (s : State) : (setFastPoll l b s).rpw = s.rpw := rfl
@[simp] theorem setFastPoll_mpi (l : Locker) (b : Bool) (s : State) : (setFastPoll l b s).mpi = s.mpi := rfl
@[simp] theorem setFastPoll_maint (l : Locker) (b : Bool) (s : State) : (setFastPoll l b s).maint = s.maint := rfl
@[simp] theorem setFastPoll_mem (l : Locker) (b : Bool) (s : State) : (setFastPoll l b s).mem = s.mem := rfl

/-! ### leaveDue -/

@[simp] theorem leaveDue_pending (l : Locker) (s : State) : (leaveDue l s).pending = s.pending := rfl
@[simp] theorem leaveDue_mode (l : Locker) (s : State) : (leaveDue l s).mode = s.mode := rfl
@[simp] theorem leaveDue_cause (l : Locker) (s : State) : (leaveDue l s).cause = s.cause := rfl
@[simp] theorem leaveDue_store (l : Locker) (s : State) : (leaveDue l s).store = s.store := rfl
@[simp] theorem leaveDue_restore (l : Locker) (s : State) : (leaveDue l s).restore = s.restore := rfl
@[simp] theorem leaveDue_copies (l : Locker) (s : State) : (leaveDue l s).copies = s.copies := rfl
@[simp] theorem leaveDue_cpi (l : Locker) (s : State) : (leaveDue l s).cpi = s.cpi := rfl
@[simp] theorem leaveDue_answer (l : Locker) (s : State) : (leaveDue l s).answer = s.answer := rfl
@[simp] theorem leaveDue_lke (l : Locker) (s : State) : (leaveDue l s).lke = s.lke := rfl
@[simp] theorem leaveDue_ltc (l : Locker) (s : State) : (leaveDue l s).ltc = s.ltc := rfl
@[simp] theorem leaveDue_hsc (l : Locker) (s : State) : (leaveDue l s).hsc = s.hsc := rfl
@[simp] theorem leaveDue_smp (l : Locker) (s : State) : (leaveDue l s).smp = s.smp := rfl
@[simp] theorem leaveDue_tmb (l : Locker) (s : State) : (leaveDue l s).tmb = s.tmb := rfl
@[simp] theorem leaveDue_sup (l : Locker) (s : State) : (leaveDue l s).sup = s.sup := rfl
@[simp] theorem leaveDue_feed (l : Locker) (s : State) : (leaveDue l s).feed = s.feed := rfl
@[simp] theorem leaveDue_mrw (l : Locker) (s : State) : (leaveDue l s).mrw = s.mrw := rfl
@[simp] theorem leaveDue_rpw (l : Locker) (s : State) : (leaveDue l s).rpw = s.rpw := rfl
@[simp] theorem leaveDue_mpi (l : Locker) (s : State) : (leaveDue l s).mpi = s.mpi := rfl
@[simp] theorem leaveDue_maint (l : Locker) (s : State) : (leaveDue l s).maint = s.maint := rfl
@[simp] theorem leaveDue_mem (l : Locker) (s : State) : (leaveDue l s).mem = s.mem := rfl

/-! ### putSampler -/

@[simp] theorem putSampler_pending (l : Locker) (r : SamplerRec) (s : State) : (putSampler l r s).pending = s.pending := rfl
@[simp] theorem putSampler_mode (l : Locker) (r : SamplerRec) (s : State) : (putSampler l r s).mode = s.mode := rfl
@[simp] theorem putSampler_cause (l : Locker) (r : SamplerRec) (s : State) : (putSampler l r s).cause = s.cause := rfl
@[simp] theorem putSampler_store (l : Locker) (r : SamplerRec) (s : State) : (putSampler l r s).store = s.store := rfl
@[simp] theorem putSampler_restore (l : Locker) (r : SamplerRec) (s : State) : (putSampler l r s).restore = s.restore := rfl
@[simp] theorem putSampler_copies (l : Locker) (r : SamplerRec) (s : State) : (putSampler l r s).copies = s.copies := rfl
@[simp] theorem putSampler_cpi (l : Locker) (r : SamplerRec) (s : State) : (putSampler l r s).cpi = s.cpi := rfl
@[simp] theorem putSampler_answer (l : Locker) (r : SamplerRec) (s : State) : (putSampler l r s).answer = s.answer := rfl
@[simp] theorem putSampler_lke (l : Locker) (r : SamplerRec) (s : State) : (putSampler l r s).lke = s.lke := rfl
@[simp] theorem putSampler_ltc (l : Locker) (r : SamplerRec) (s : State) : (putSampler l r s).ltc = s.ltc := rfl
@[simp] theorem putSampler_hsc (l : Locker) (r : SamplerRec) (s : State) : (putSampler l r s).hsc = s.hsc := rfl
@[simp] theorem putSampler_ahu (l : Locker) (r : SamplerRec) (s : State) : (putSampler l r s).ahu = s.ahu := rfl
@[simp] theorem putSampler_tmb (l : Locker) (r : SamplerRec) (s : State) : (putSampler l r s).tmb = s.tmb := rfl
@[simp] theorem putSampler_sup (l : Locker) (r : SamplerRec) (s : State) : (putSampler l r s).sup = s.sup := rfl
@[simp] theorem putSampler_feed (l : Locker) (r : SamplerRec) (s : State) : (putSampler l r s).feed = s.feed := rfl
@[simp] theorem putSampler_mrw (l : Locker) (r : SamplerRec) (s : State) : (putSampler l r s).mrw = s.mrw := rfl
@[simp] theorem putSampler_rpw (l : Locker) (r : SamplerRec) (s : State) : (putSampler l r s).rpw = s.rpw := rfl
@[simp] theorem putSampler_mpi (l : Locker) (r : SamplerRec) (s : State) : (putSampler l r s).mpi = s.mpi := rfl
@[simp] theorem putSampler_maint (l : Locker) (r : SamplerRec) (s : State) : (putSampler l r s).maint = s.maint := rfl
@[simp] theorem putSampler_mem (l : Locker) (r : SamplerRec) (s : State) : (putSampler l r s).mem = s.mem := rfl

/-! ### leaveSweep -/

@[simp] theorem leaveSweep_pending (l : Locker) (s : State) : (leaveSweep l s).pending = s.pending := rfl
@[simp] theorem leaveSweep_mode (l : Locker) (s : State) : (leaveSweep l s).mode = s.mode := rfl
@[simp] theorem leaveSweep_cause (l : Locker) (s : State) : (leaveSweep l s).cause = s.cause := rfl
@[simp] theorem leaveSweep_store (l : Locker) (s : State) : (leaveSweep l s).store = s.store := rfl
@[simp] theorem leaveSweep_restore (l : Locker) (s : State) : (leaveSweep l s).restore = s.restore := rfl
@[simp] theorem leaveSweep_copies (l : Locker) (s : State) : (leaveSweep l s).copies = s.copies := rfl
@[simp] theorem leaveSweep_cpi (l : Locker) (s : State) : (leaveSweep l s).cpi = s.cpi := rfl
@[simp] theorem leaveSweep_answer (l : Locker) (s : State) : (leaveSweep l s).answer = s.answer := rfl
@[simp] theorem leaveSweep_lke (l : Locker) (s : State) : (leaveSweep l s).lke = s.lke := rfl
@[simp] theorem leaveSweep_ltc (l : Locker) (s : State) : (leaveSweep l s).ltc = s.ltc := rfl
@[simp] theorem leaveSweep_hsc (l : Locker) (s : State) : (leaveSweep l s).hsc = s.hsc := rfl
@[simp] theorem leaveSweep_ahu (l : Locker) (s : State) : (leaveSweep l s).ahu = s.ahu := rfl
@[simp] theorem leaveSweep_tmb (l : Locker) (s : State) : (leaveSweep l s).tmb = s.tmb := rfl
@[simp] theorem leaveSweep_sup (l : Locker) (s : State) : (leaveSweep l s).sup = s.sup := rfl
@[simp] theorem leaveSweep_feed (l : Locker) (s : State) : (leaveSweep l s).feed = s.feed := rfl
@[simp] theorem leaveSweep_mrw (l : Locker) (s : State) : (leaveSweep l s).mrw = s.mrw := rfl
@[simp] theorem leaveSweep_rpw (l : Locker) (s : State) : (leaveSweep l s).rpw = s.rpw := rfl
@[simp] theorem leaveSweep_mpi (l : Locker) (s : State) : (leaveSweep l s).mpi = s.mpi := rfl
@[simp] theorem leaveSweep_maint (l : Locker) (s : State) : (leaveSweep l s).maint = s.maint := rfl
@[simp] theorem leaveSweep_mem (l : Locker) (s : State) : (leaveSweep l s).mem = s.mem := rfl

/-! ### forward -/

@[simp] theorem forward_pending (t : Txn) (e : LandEffect) (s : State) : (forward t e s).pending = s.pending := rfl
@[simp] theorem forward_mode (t : Txn) (e : LandEffect) (s : State) : (forward t e s).mode = s.mode := rfl
@[simp] theorem forward_cause (t : Txn) (e : LandEffect) (s : State) : (forward t e s).cause = s.cause := rfl
@[simp] theorem forward_store (t : Txn) (e : LandEffect) (s : State) : (forward t e s).store = s.store := rfl
@[simp] theorem forward_restore (t : Txn) (e : LandEffect) (s : State) : (forward t e s).restore = s.restore := rfl
@[simp] theorem forward_copies (t : Txn) (e : LandEffect) (s : State) : (forward t e s).copies = s.copies := rfl
@[simp] theorem forward_answer (t : Txn) (e : LandEffect) (s : State) : (forward t e s).answer = s.answer := rfl
@[simp] theorem forward_lke (t : Txn) (e : LandEffect) (s : State) : (forward t e s).lke = s.lke := rfl
@[simp] theorem forward_ltc (t : Txn) (e : LandEffect) (s : State) : (forward t e s).ltc = s.ltc := rfl
@[simp] theorem forward_hsc (t : Txn) (e : LandEffect) (s : State) : (forward t e s).hsc = s.hsc := rfl
@[simp] theorem forward_ahu (t : Txn) (e : LandEffect) (s : State) : (forward t e s).ahu = s.ahu := rfl
@[simp] theorem forward_smp (t : Txn) (e : LandEffect) (s : State) : (forward t e s).smp = s.smp := rfl
@[simp] theorem forward_tmb (t : Txn) (e : LandEffect) (s : State) : (forward t e s).tmb = s.tmb := rfl
@[simp] theorem forward_sup (t : Txn) (e : LandEffect) (s : State) : (forward t e s).sup = s.sup := rfl
@[simp] theorem forward_feed (t : Txn) (e : LandEffect) (s : State) : (forward t e s).feed = s.feed := rfl
@[simp] theorem forward_mrw (t : Txn) (e : LandEffect) (s : State) : (forward t e s).mrw = s.mrw := rfl
@[simp] theorem forward_rpw (t : Txn) (e : LandEffect) (s : State) : (forward t e s).rpw = s.rpw := rfl
@[simp] theorem forward_mpi (t : Txn) (e : LandEffect) (s : State) : (forward t e s).mpi = s.mpi := rfl
@[simp] theorem forward_maint (t : Txn) (e : LandEffect) (s : State) : (forward t e s).maint = s.maint := rfl
@[simp] theorem forward_mem (t : Txn) (e : LandEffect) (s : State) : (forward t e s).mem = s.mem := rfl

/-! ### maintAnswer -/

@[simp] theorem maintAnswer_pending (a : MaintAnswer) (s : State) : (maintAnswer a s).pending = s.pending := rfl
@[simp] theorem maintAnswer_mode (a : MaintAnswer) (s : State) : (maintAnswer a s).mode = s.mode := rfl
@[simp] theorem maintAnswer_cause (a : MaintAnswer) (s : State) : (maintAnswer a s).cause = s.cause := rfl
@[simp] theorem maintAnswer_store (a : MaintAnswer) (s : State) : (maintAnswer a s).store = s.store := rfl
@[simp] theorem maintAnswer_restore (a : MaintAnswer) (s : State) : (maintAnswer a s).restore = s.restore := rfl
@[simp] theorem maintAnswer_copies (a : MaintAnswer) (s : State) : (maintAnswer a s).copies = s.copies := rfl
@[simp] theorem maintAnswer_cpi (a : MaintAnswer) (s : State) : (maintAnswer a s).cpi = s.cpi := rfl
@[simp] theorem maintAnswer_answer (a : MaintAnswer) (s : State) : (maintAnswer a s).answer = s.answer := rfl
@[simp] theorem maintAnswer_lke (a : MaintAnswer) (s : State) : (maintAnswer a s).lke = s.lke := rfl
@[simp] theorem maintAnswer_ltc (a : MaintAnswer) (s : State) : (maintAnswer a s).ltc = s.ltc := rfl
@[simp] theorem maintAnswer_hsc (a : MaintAnswer) (s : State) : (maintAnswer a s).hsc = s.hsc := rfl
@[simp] theorem maintAnswer_ahu (a : MaintAnswer) (s : State) : (maintAnswer a s).ahu = s.ahu := rfl
@[simp] theorem maintAnswer_smp (a : MaintAnswer) (s : State) : (maintAnswer a s).smp = s.smp := rfl
@[simp] theorem maintAnswer_tmb (a : MaintAnswer) (s : State) : (maintAnswer a s).tmb = s.tmb := rfl
@[simp] theorem maintAnswer_sup (a : MaintAnswer) (s : State) : (maintAnswer a s).sup = s.sup := rfl
@[simp] theorem maintAnswer_feed (a : MaintAnswer) (s : State) : (maintAnswer a s).feed = s.feed := rfl
@[simp] theorem maintAnswer_mrw (a : MaintAnswer) (s : State) : (maintAnswer a s).mrw = s.mrw := rfl
@[simp] theorem maintAnswer_rpw (a : MaintAnswer) (s : State) : (maintAnswer a s).rpw = s.rpw := rfl
@[simp] theorem maintAnswer_mpi (a : MaintAnswer) (s : State) : (maintAnswer a s).mpi = s.mpi := rfl
@[simp] theorem maintAnswer_mem (a : MaintAnswer) (s : State) : (maintAnswer a s).mem = s.mem := rfl

end Sys2Proof.Machine
end

