-- ==== Sys2Proof/Laws/Within.lean ====
section
/-! SUPPORT. `Within bs s t`: from s to t only the parts of the state that bs names have changed. One lemma for each
shared operation says all that it can touch; the lemmas compose by `next`. -/

-- One theorem after the other: a thread for each would ask for more stack space than a build may have.
set_option Elab.async false

namespace Sys2Proof.Machine

/-- The parts of the state that operations touch. -/
inductive Part where
  | ops | cpi | lke | ltc | chans | entries | limit | paths | due | recs | fast | sweep | tmb | sup | marks | turns
  | counts | queue | ringOp | ring | mpi | mem
deriving DecidableEq, Repr

/-- Only the parts named have changed; the queue of commands never has. -/
structure Within (bs : List Part) (s t : State) : Prop where
  pending : t.pending = s.pending
  ops : Part.ops ∉ bs → t.mode = s.mode ∧ t.cause = s.cause ∧ t.store = s.store ∧ t.copies = s.copies
    ∧ t.restore = s.restore ∧ t.feed = s.feed ∧ t.maint = s.maint
  cpi : Part.cpi ∉ bs → t.cpi = s.cpi ∧ t.answer = s.answer
  lke : Part.lke ∉ bs → t.lke = s.lke
  ltc : Part.ltc ∉ bs → t.ltc = s.ltc
  chans : Part.chans ∉ bs → t.hsc.chans = s.hsc.chans ∧ t.hsc.grants = s.hsc.grants
  entries : Part.entries ∉ bs → t.hsc.hq = s.hsc.hq ∧ t.hsc.wq = s.hsc.wq
  limit : Part.limit ∉ bs → t.hsc.capacity = s.hsc.capacity ∧ t.hsc.overrun = s.hsc.overrun
  paths : Part.paths ∉ bs → t.ahu.paths = s.ahu.paths
  due : Part.due ∉ bs → t.ahu.due = s.ahu.due ∧ t.ahu.probePos = s.ahu.probePos ∧ t.ahu.req = s.ahu.req
  recs : Part.recs ∉ bs → t.smp.recs = s.smp.recs
  fast : Part.fast ∉ bs → t.smp.fastPoll = s.smp.fastPoll ∧ t.smp.fastDue = s.smp.fastDue
  sweep : Part.sweep ∉ bs → t.smp.sweep = s.smp.sweep ∧ t.smp.owed = s.smp.owed ∧ t.smp.fastPos = s.smp.fastPos
    ∧ t.smp.toggle = s.smp.toggle ∧ t.smp.req = s.smp.req
  tmb : Part.tmb ∉ bs → t.tmb = s.tmb
  sup : Part.sup ∉ bs → t.sup = s.sup
  marks : Part.marks ∉ bs → t.mrw.marks = s.mrw.marks
  turns : Part.turns ∉ bs → t.mrw.lastServed = s.mrw.lastServed ∧ t.mrw.turn = s.mrw.turn ∧ t.mrw.promo = s.mrw.promo
    ∧ t.mrw.promoLast = s.mrw.promoLast ∧ t.mrw.req = s.mrw.req
  counts : Part.counts ∉ bs → t.rpw.quarantined = s.rpw.quarantined ∧ t.rpw.lostChannels = s.rpw.lostChannels
  queue : Part.queue ∉ bs → t.rpw.queue = s.rpw.queue ∧ t.rpw.lost = s.rpw.lost ∧ t.rpw.overrun = s.rpw.overrun
    ∧ t.rpw.statusMark = s.rpw.statusMark
  ringOp : Part.ringOp ∉ bs → t.rpw.op = s.rpw.op
  ring : Part.ring ∉ bs → t.rpw.adopted = s.rpw.adopted ∧ t.rpw.write = s.rpw.write ∧ t.rpw.read = s.rpw.read
    ∧ t.rpw.attention = s.rpw.attention ∧ t.rpw.mask = s.rpw.mask ∧ t.rpw.stage = s.rpw.stage
    ∧ t.rpw.keptWrite = s.rpw.keptWrite ∧ t.rpw.keptRead = s.rpw.keptRead
  mpi : Part.mpi ∉ bs → t.mpi = s.mpi
  mem : Part.mem ∉ bs → t.mem = s.mem

/-- Every part of a list is in another. -/
def covers (a b : List Part) : Bool := b.all fun x => a.contains x

theorem covers_mem {a b : List Part} (h : covers a b = true) {x : Part} (hx : x ∉ a) : x ∉ b := by
  intro hb
  have := List.all_eq_true.mp h x hb
  exact hx (by simpa using this)

theorem Within.refl {bs : List Part} {s : State} : Within bs s s := by constructor <;> intros <;> simp

/-- A change within fewer parts follows a change. -/
theorem Within.next {a b : List Part} {s t u : State} (h : Within a s t) (k : Within b t u)
    (sub : covers a b = true := by rfl) : Within a s u := by
  have m {x : Part} := @covers_mem a b sub x
  refine
    { pending := k.pending.trans h.pending, ops := fun n => ?_, cpi := fun n => ?_, lke := fun n => ?_,
      ltc := fun n => ?_, chans := fun n => ?_, entries := fun n => ?_, limit := fun n => ?_, paths := fun n => ?_,
      due := fun n => ?_, recs := fun n => ?_, fast := fun n => ?_, sweep := fun n => ?_, tmb := fun n => ?_,
      sup := fun n => ?_, marks := fun n => ?_, turns := fun n => ?_, counts := fun n => ?_, queue := fun n => ?_,
      ringOp := fun n => ?_, ring := fun n => ?_, mpi := fun n => ?_, mem := fun n => ?_ }
  · simp [k.ops (m n), h.ops n]
  · simp [k.cpi (m n), h.cpi n]
  · simp [k.lke (m n), h.lke n]
  · simp [k.ltc (m n), h.ltc n]
  · simp [k.chans (m n), h.chans n]
  · simp [k.entries (m n), h.entries n]
  · simp [k.limit (m n), h.limit n]
  · simp [k.paths (m n), h.paths n]
  · simp [k.due (m n), h.due n]
  · simp [k.recs (m n), h.recs n]
  · simp [k.fast (m n), h.fast n]
  · simp [k.sweep (m n), h.sweep n]
  · simp [k.tmb (m n), h.tmb n]
  · simp [k.sup (m n), h.sup n]
  · simp [k.marks (m n), h.marks n]
  · simp [k.turns (m n), h.turns n]
  · simp [k.counts (m n), h.counts n]
  · simp [k.queue (m n), h.queue n]
  · simp [k.ringOp (m n), h.ringOp n]
  · simp [k.ring (m n), h.ring n]
  · simp [k.mpi (m n), h.mpi n]
  · simp [k.mem (m n), h.mem n]

/-- The same change, within more parts. -/
theorem Within.widen {a b : List Part} {s t : State} (k : Within b s t) (sub : covers a b = true := by rfl) :
    Within a s t := Within.refl.next k sub

theorem Within.ite {bs : List Part} {s a b : State} {c : Prop} [Decidable c] (ha : Within bs s a) (hb : Within bs s b) :
    Within bs s (if c then a else b) := by split <;> assumption

/-- A fold of changes is a change. -/
theorem Within.fold {α : Type} {bs : List Part} {f : State → α → State} (h : ∀ s x, Within bs s (f s x))
    (hb : covers bs bs = true := by rfl) (xs : List α) (s : State) : Within bs s (xs.foldl f s) := by
  induction xs generalizing s with
  | nil => exact .refl
  | cons x xs ih => exact (h s x).next (ih (f s x)) hb

/-! ### Marks, records, queue entries -/

theorem putMark_within {l c b s} : Within [.marks] s (putMark l c b s) := by constructor <;> simp [putMark]

theorem markIf_within {q l c s} : Within [.marks] s (markIf q l c s) := by
  unfold markIf; exact .ite putMark_within .refl

theorem markAttach_within {l s} : Within [.marks] s (markAttach l s) := by
  unfold markAttach
  split
  · exact putMark_within
  · exact .refl

theorem countLoss_ring (r : Rpw) :
    r.countLoss.adopted = r.adopted ∧ r.countLoss.write = r.write ∧ r.countLoss.read = r.read
      ∧ r.countLoss.attention = r.attention ∧ r.countLoss.mask = r.mask ∧ r.countLoss.stage = r.stage
      ∧ r.countLoss.keptWrite = r.keptWrite ∧ r.countLoss.keptRead = r.keptRead ∧ r.countLoss.op = r.op
      ∧ r.countLoss.quarantined = r.quarantined ∧ r.countLoss.lostChannels = r.lostChannels
      ∧ r.countLoss.queue = r.queue := by simp [Rpw.countLoss]

theorem handRecord_within {r s} : Within [.queue] s (handRecord r s) := by
  constructor <;> simp [handRecord, Rpw.hand] <;> split <;> simp [countLoss_ring]

theorem dropHq_within {l s} : Within [.entries] s (dropHq l s) := by constructor <;> simp [dropHq]

theorem dropWq_within {l s} : Within [.entries] s (dropWq l s) := by constructor <;> simp [dropWq]

theorem hscNotice_within {l s} : Within [.entries] s (hscNotice l s) := by
  unfold hscNotice
  dsimp only
  split <;> split
  · exact .refl
  · exact dropWq_within
  · exact dropHq_within
  · exact dropHq_within.next dropWq_within

theorem countQuarantine_within {o n s} : Within [.counts] s (countQuarantine o n s) := by
  unfold countQuarantine
  split
  · constructor <;> simp
  · split
    · constructor <;> simp
    · exact .refl

/-! ### Contexts, latches, paths, channels -/

theorem lke_within {v : Vector Context 64} {s : State} : Within [.lke] s { s with lke := v } := by constructor <;> simp

theorem putCtx_within {l c s} : Within [.lke, .marks, .counts, .entries] s (putCtx l c s) := by
  unfold putCtx
  dsimp only
  have h := (((lke_within (v := s.lke.set l.val c) (s := s)).widen (a := [.lke, .marks, .counts, .entries])).next
    (markIf_within (q := stateFieldsDiffer (s.ctx l) c) (l := l) (c := .state))).next
    (markIf_within (q := (s.ctx l).hold ≠ c.hold || (s.ctx l).cold ≠ c.cold) (l := l) (c := .hold))
  have h := h.next (countQuarantine_within (o := (s.ctx l).life) (n := c.life))
  exact .ite (h.next hscNotice_within) h

theorem setFastPoll_within {l b s} : Within [.fast] s (setFastPoll l b s) := by constructor <;> simp [setFastPoll]

theorem putLatch_within {l h r s} : Within [.ltc, .marks, .fast, .entries] s (putLatch l h r s) := by
  unfold putLatch
  dsimp only
  have k : Within [.ltc, .marks, .fast, .entries] s { s with ltc := s.ltc.set l.val ((s.latches l).set h r) } := by
    constructor <;> simp
  have k := k.next (markIf_within (q := (s.latch l h).st ≠ r.st) (l := l) (c := .state))
  exact .ite ((k.next setFastPoll_within).next hscNotice_within) (k.next setFastPoll_within)

theorem putPaths_within {l p s} : Within [.paths, .marks] s (putPaths l p s) := by
  unfold putPaths
  have k : Within [.paths, .marks] s { s with ahu := { s.ahu with paths := s.ahu.paths.set l.val p } } := by
    constructor <;> simp
  exact k.next markIf_within

theorem putChan_within {i c s} : Within [.chans, .marks] s (putChan i c s) := by
  unfold putChan
  dsimp only
  have k : Within [.chans, .marks] s { s with hsc := { s.hsc with chans := s.hsc.chans.set i.val c } } := by
    constructor <;> simp
  exact .ite k ((k.next markAttach_within).next markAttach_within)

/-! ### Commands to the scanner -/

theorem issueHeat_within {l b s} : Within [.paths, .marks] s (issueHeat l b s) :=
  putPaths_within.next putMark_within

theorem issueLatch_within {l a b s} : Within [.paths, .marks] s (issueLatch l a b s) :=
  putPaths_within.next putMark_within

theorem zeroErrors_within {l s} : Within [.paths, .marks] s (zeroErrors l s) := putPaths_within

theorem pathLanded_within {l k q s} : Within [.paths, .marks] s (pathLanded l k q s) := by
  unfold pathLanded; dsimp only; exact .ite putPaths_within .refl

theorem putSampler_within {l r s} : Within [.recs] s (putSampler l r s) := by constructor <;> simp [putSampler]

theorem leaveSweep_within {l s} : Within [.sweep] s (leaveSweep l s) := by constructor <;> simp [leaveSweep]

theorem leaveDue_within {l s} : Within [.due] s (leaveDue l s) := by constructor <;> simp [leaveDue]

/-! ### The heat scheduler -/

theorem turnOff_within {i s} : Within [.chans, .paths, .marks] s (turnOff i s) := by
  unfold turnOff
  split
  · exact (putChan_within.widen).next issueHeat_within
  · exact .refl

theorem haltLocker_within {l s} : Within [.chans, .paths, .marks] s (haltLocker l s) := by
  unfold haltLocker
  split
  · exact turnOff_within
  · exact .refl

theorem allocateChan_within {i l s} : Within [.chans, .paths, .marks] s (allocateChan i l s) := by
  unfold allocateChan
  dsimp only
  have k : Within [.chans, .paths, .marks] s { s with hsc := { s.hsc with grants := s.hsc.grants + 1 } } := by
    constructor <;> simp
  exact (k.next putChan_within).next issueHeat_within

theorem lateGrantLoop_within {n s} : Within [.chans, .paths, .marks] s (lateGrantLoop n s) := by
  induction n generalizing s with
  | zero => exact .refl
  | succ n ih =>
    unfold lateGrantLoop
    split
    · split
      · exact allocateChan_within.next ih
      · exact .refl
    · exact .refl

theorem lateGrant_within {s} : Within [.chans, .paths, .marks] s (lateGrant s) := .ite lateGrantLoop_within .refl

theorem postHq_within {l s} : Within [.chans, .paths, .marks, .entries] s (postHq l s) := by
  unfold postHq
  have k : Within [.chans, .paths, .marks, .entries] s { s with hsc := { s.hsc with hq := s.hsc.hq ++ [l] } } := by
    constructor <;> simp
  exact k.next lateGrant_within

theorem postWq_within {l s} : Within [.chans, .paths, .marks, .entries] s (postWq l s) := by
  unfold postWq
  have k : Within [.chans, .paths, .marks, .entries] s { s with hsc := { s.hsc with wq := s.hsc.wq ++ [l] } } := by
    constructor <;> simp
  exact k.next lateGrant_within

theorem hscSample_within {l t s} : Within [.chans, .paths, .marks, .entries] s (hscSample l t s) := by
  have a {s} : Within [.chans, .paths, .marks, .entries] s (sampleHq l t s) := by
    unfold sampleHq; exact .ite (.ite postHq_within .refl) dropHq_within.widen
  have b {s} : Within [.chans, .paths, .marks, .entries] s (sampleWq l t s) := by
    unfold sampleWq; exact .ite (.ite postWq_within .refl) dropWq_within.widen
  exact a.next b

theorem walkQueue_within {ls s g} : Within [.chans, .paths, .marks] s (walkQueue ls s g).s := by
  induction ls generalizing s g with
  | nil => exact .refl
  | cons l ls ih =>
    unfold walkQueue
    split
    · split
      · split <;> exact ih
      · split
        · exact allocateChan_within.next ih
        · exact ih
    · exact .refl

theorem walkRanking_within {s} : Within [.chans, .paths, .marks, .entries] s (walkRanking s).1 := by
  unfold walkRanking
  dsimp only
  have k := ((walkQueue_within (ls := s.hsc.hq) (s := s) (g := [])).widen (a := [.chans, .paths, .marks, .entries])).next
    (walkQueue_within (ls := (walkQueue s.hsc.hq s []).s.hsc.wq) (g := (walkQueue s.hsc.hq s []).granted))
  refine k.next (b := [.entries]) ?_
  constructor <;> simp

theorem releaseUngranted_within {g s i} : Within [.chans, .paths, .marks] s (releaseUngranted g s i) := by
  unfold releaseUngranted
  split
  · exact .ite .refl turnOff_within
  · exact .refl

theorem judgeOverrun_within {n s} : Within [.limit, .queue] s (judgeOverrun n s) := by
  have k {b} : Within [.limit, .queue] s { s with hsc := { s.hsc with overrun := b } } := by constructor <;> simp
  unfold judgeOverrun
  exact .ite (.ite (k.next handRecord_within) .refl) (.ite (k.next handRecord_within) .refl)

theorem hscFrameStart_within {s} : Within [.chans, .paths, .marks, .entries, .limit, .queue] s (hscFrameStart s) := by
  unfold hscFrameStart
  dsimp only
  exact ((walkRanking_within.widen).next (Within.fold (fun _ _ => releaseUngranted_within) rfl _ _)).next
    judgeOverrun_within

theorem decreaseLoop_within {n s} : Within [.chans, .paths, .marks] s (decreaseLoop n s) := by
  induction n generalizing s with
  | zero => exact .refl
  | succ n ih =>
    unfold decreaseLoop
    split
    · split
      · exact turnOff_within.next ih
      · exact .refl
    · exact .refl

theorem setCapacity_within {c s} : Within [.chans, .paths, .marks, .limit] s (setCapacity c s) := by
  have k : Within [.chans, .paths, .marks, .limit] s { s with hsc := { s.hsc with capacity := c } } := by
    constructor <;> simp
  unfold setCapacity
  exact .ite (k.next decreaseLoop_within) (.ite (k.next lateGrant_within) .refl)

/-! ### The locker engine -/

/-- The parts that an event of a locker can touch. -/
abbrev lockerParts : List Part :=
  [.lke, .ltc, .chans, .entries, .paths, .recs, .fast, .sweep, .marks, .counts, .queue]

theorem reportWithdrawn_within {l h i s} : Within [.queue] s (reportWithdrawn l h i s) := handRecord_within

theorem withdrawHatch_within {l i s h} :
    Within [.ltc, .marks, .fast, .entries, .paths, .queue] s (withdrawHatch l i s h) := by
  unfold withdrawHatch
  dsimp only
  split
  · exact putLatch_within.widen.next reportWithdrawn_within
  · exact (putLatch_within.widen.next issueLatch_within).next reportWithdrawn_within
  · exact (putLatch_within.widen.next issueLatch_within).next reportWithdrawn_within
  · exact .ite reportWithdrawn_within.widen .refl
  · exact .refl
  · exact .refl
  · exact .refl

theorem withdraw_within {l i s} : Within [.ltc, .marks, .fast, .entries, .paths, .queue] s (withdraw l i s) :=
  withdrawHatch_within.next withdrawHatch_within

theorem enterHalting_within {l c s} :
    Within [.lke, .marks, .counts, .entries, .chans, .paths] s (enterHalting l c s) :=
  putCtx_within.widen.next haltLocker_within

theorem enterVacant_within {l s} : Within lockerParts s (enterVacant l s) := by
  unfold enterVacant
  exact ((enterHalting_within.widen.next zeroErrors_within).next putSampler_within).next leaveSweep_within

theorem quarantine_within {l r s} : Within lockerParts s (quarantine l r s) := by
  unfold quarantine
  dsimp only
  exact ((enterHalting_within.widen).next handRecord_within).next withdraw_within

theorem quarantineCause_within {l r s} : Within lockerParts s (quarantineCause l r s) := by
  unfold quarantineCause
  dsimp only
  exact .ite enterHalting_within.widen (.ite .refl (.ite .refl quarantine_within))

theorem reportTimeout_within {l h i s} : Within [.queue] s (reportTimeout l h i s) := handRecord_within

theorem relatchOutcome_within {l h o s} : Within lockerParts s (relatchOutcome l h o s) := by
  unfold relatchOutcome
  split
  · unfold relatchLoading
    dsimp only
    split
    · exact putCtx_within.widen.next handRecord_within
    · exact putCtx_within.widen.next handRecord_within
    · exact putCtx_within.widen.next reportTimeout_within
  · unfold relatchCollecting
    dsimp only
    split
    · exact enterVacant_within.next handRecord_within
    · split
      · exact putCtx_within.widen.next handRecord_within
      · exact enterHalting_within.widen.next handRecord_within
    · exact putCtx_within.widen.next reportTimeout_within
  · unfold relatchClearing
    dsimp only
    split
    · exact enterVacant_within.next handRecord_within
    · exact quarantine_within
    · unfold returnFromClearing
      dsimp only
      exact (Within.ite putCtx_within.widen enterHalting_within.widen).next reportTimeout_within
  all_goals exact .refl

theorem startRelease_within {l h s} :
    Within [.ltc, .marks, .fast, .entries, .chans, .paths] s (startRelease l h s) := by
  unfold startRelease
  dsimp only
  exact .ite (putLatch_within.widen.next haltLocker_within) (putLatch_within.widen.next issueLatch_within)

theorem requestRelease_within {l h s} : Within lockerParts s (requestRelease l h s) := by
  unfold requestRelease
  exact .ite startRelease_within.widen relatchOutcome_within

theorem takeExpiry_within {l e s} : Within lockerParts s (takeExpiry l e s) := by
  unfold takeExpiry
  dsimp only
  split
  · exact enterHalting_within.widen.next handRecord_within
  · exact .ite (putCtx_within.widen.next handRecord_within)
      ((enterHalting_within.widen.next handRecord_within).next withdraw_within)
  all_goals exact .refl

theorem judgeExpiry_within {l s} : Within lockerParts s (judgeExpiry l s) := by
  unfold judgeExpiry
  split
  · split
    · exact takeExpiry_within
    · exact .refl
  · exact .refl

theorem lateOpening_within {l h s} : Within lockerParts s (lateOpening l h s) := by
  unfold lateOpening
  dsimp only
  split
  · exact putCtx_within.widen
  all_goals exact .refl

theorem lkeSample_within {l t s} : Within lockerParts s (lkeSample l t s) := by
  unfold lkeSample
  dsimp only
  exact .ite (putCtx_within.widen.next handRecord_within) .refl

/-! ### The latch controller -/

theorem freeNotice_within {l s h} : Within lockerParts s (freeNotice l s h) := by
  unfold freeNotice
  dsimp only
  exact .ite (putLatch_within.widen.next issueLatch_within) .refl

theorem ltcFree_within {l s} : Within lockerParts s (ltcFree l s) := freeNotice_within.next freeNotice_within

theorem ackHatch_within {l s h} : Within lockerParts s (ackHatch l s h) := by
  unfold ackHatch
  dsimp only
  split
  · exact putLatch_within.widen
  · split
    · exact putLatch_within.widen.next relatchOutcome_within
    · exact putLatch_within.widen.next relatchOutcome_within
    · exact putLatch_within.widen
    · exact putLatch_within.widen
  all_goals exact .refl

theorem ltcAck_within {l s} : Within lockerParts s (ltcAck l s) := ackHatch_within.next ackHatch_within

theorem failHatch_within {l s h} : Within lockerParts s (failHatch l s h) := by
  unfold failHatch
  dsimp only
  split
  all_goals first | exact putLatch_within.widen | exact .refl

theorem ltcFault_within {l s} : Within lockerParts s (ltcFault l s) :=
  (failHatch_within.next failHatch_within).next quarantineCause_within

theorem forcedHatch_within {l h w s} : Within lockerParts s (forcedHatch l h w s) :=
  handRecord_within.widen.next quarantineCause_within

theorem readHatch_within {l h c t s} : Within lockerParts s (readHatch l h c t s) := by
  unfold readHatch
  split
  · unfold seenClosed
    dsimp only
    split
    · exact putLatch_within.widen
    · exact putLatch_within.widen.next issueLatch_within
    all_goals exact .refl
  · unfold seenOpen
    dsimp only
    split
    · exact .ite .refl (putLatch_within.widen.next forcedHatch_within)
    · exact putLatch_within.widen.next forcedHatch_within
    · exact putLatch_within.widen.next forcedHatch_within
    · exact putLatch_within.widen
    · split
      · exact putLatch_within.widen
      · exact putLatch_within.widen.next lateOpening_within
      · exact .refl
      · exact .refl
    all_goals exact .refl

theorem ltcReading_within {l x s} : Within lockerParts s (ltcReading l x s) := readHatch_within.next readHatch_within

theorem expireOpenWait_within {l h s} : Within lockerParts s (expireOpenWait l h s) :=
  putLatch_within.widen.next issueLatch_within

theorem expireHatchHeld_within {l h s} : Within lockerParts s (expireHatchHeld l h s) :=
  putLatch_within.widen.next handRecord_within

theorem secondHatch_within {l s h} : Within lockerParts s (secondHatch l s h) := by
  unfold secondHatch
  dsimp only
  split
  · exact .ite expireOpenWait_within putLatch_within.widen
  · exact .ite .refl (.ite expireHatchHeld_within putLatch_within.widen)
  all_goals exact .refl

theorem ltcSeconds_within {s} : Within lockerParts s (ltcSeconds s) :=
  Within.fold (f := secondLatches) (fun _ _ => secondHatch_within.next secondHatch_within) rfl _ _

/-! ### The handshake -/

theorem hscAck_within {l s} : Within lockerParts s (hscAck l s) := by
  unfold hscAck
  split
  · split
    · exact putChan_within.widen
    · exact (putChan_within.widen.next ltcFree_within).next lateGrant_within
    all_goals exact .refl
  · exact .refl

theorem hscOnFailed_within {l s} : Within lockerParts s (hscOnFailed l s) := by
  unfold hscOnFailed
  split
  · exact turnOff_within.widen.next quarantineCause_within
  · exact .refl

theorem hscOffFailed_within {l s} : Within lockerParts s (hscOffFailed l s) := by
  unfold hscOffFailed
  split
  · dsimp only
    have k {s : State} {n} : Within [.counts] s { s with rpw := { s.rpw with lostChannels := n } } := by
      constructor <;> simp
    exact ((putChan_within.widen.next k).next handRecord_within).next quarantineCause_within
  · exact .refl

theorem pathAcked_within {l k s} : Within lockerParts s (pathAcked l k s) := by
  unfold pathAcked
  split
  · exact hscAck_within
  · exact ltcAck_within

theorem pathFailed_within {l k s} : Within lockerParts s (pathFailed l k s) := by
  unfold pathFailed
  split
  · unfold heatFailed
    exact .ite quarantineCause_within (.ite hscOnFailed_within hscOffFailed_within)
  · exact ltcFault_within

theorem putPath_within {l k r s} : Within [.paths, .marks] s (putPath l k r s) := putPaths_within

theorem commandFailed_within {l k r s} : Within lockerParts s (commandFailed l k r s) :=
  putPath_within.widen.next pathFailed_within

theorem commandReissued_within {l k r s} : Within [.paths, .marks] s (commandReissued l k r s) :=
  putPath_within.next putMark_within

theorem pathError_within {l k r s} : Within lockerParts s (pathError l k r s) := by
  unfold pathError
  exact .ite (.ite commandFailed_within commandReissued_within.widen)
    (.ite commandFailed_within commandReissued_within.widen)

theorem judgePath_within {l w s k} : Within lockerParts s (judgePath l w s k) := by
  have noAns {r s} : Within lockerParts s (pathNoAnswer l k r s) := by
    unfold pathNoAnswer; dsimp only; exact .ite pathError_within putPath_within.widen
  unfold judgePath
  dsimp only
  split
  · split
    · exact noAns
    · split
      · split
        · unfold pathAck; dsimp only; exact putPath_within.widen.next pathAcked_within
        · unfold pathNak; dsimp only; exact .ite pathError_within putPath_within.widen
        · exact commandFailed_within
        · exact noAns
      · exact noAns
  · exact .refl

theorem judgeProbe_within {l w s} : Within lockerParts s (judgeProbe l w s) := judgePath_within.next judgePath_within

/-! ### The sampler -/

theorem startSweep_within {s} : Within [.sweep] s (startSweep s) := by constructor <;> simp [startSweep]

theorem smpFrameStart_within {s} : Within [.sweep] s (smpFrameStart s) := by
  unfold smpFrameStart
  refine .ite ?_ startSweep_within
  constructor <;> simp

theorem smpInterval_within {s} : Within [.fast] s (smpInterval s) := by constructor <;> simp [smpInterval]


theorem sweepAdvance_within {s} : Within [.sweep] s (sweepAdvance s) := by
  have k {s : State} {o w} : Within [.sweep] s { s with smp := { s.smp with owed := o, sweep := w } } := by
    constructor <;> simp
  unfold sweepAdvance
  split
  · exact .refl
  · split
    · exact k
    · dsimp only
      refine .ite (.ite ?_ ?_) k
      · exact (k.next startSweep_within).next k
      · exact k.next startSweep_within

theorem smpPick_within {s} : Within [.sweep] s (smpPick s) := by
  have a {l} : Within [.sweep] s (raiseFrame l s) := by constructor <;> simp [raiseFrame]
  have b {l} : Within [.sweep] s (raiseFast l s) := by constructor <;> simp [raiseFast]
  unfold smpPick
  split
  · exact .refl
  · exact a
  · exact b
  · split
    · exact a
    · exact b

theorem smpWithdraw_within {s} : Within [.sweep] s (smpWithdraw s) := by
  unfold smpWithdraw
  have k : Within [.sweep] s { s with smp := { s.smp with req := none } } := by constructor <;> simp
  split
  · exact .ite .refl k
  · exact .ite .refl k
  · exact .refl

theorem smpSettle_within {s} : Within [.sweep] s (smpSettle s) := by
  unfold smpSettle
  dsimp only
  exact .ite ((smpWithdraw_within.next sweepAdvance_within).next smpPick_within) smpWithdraw_within

theorem pollResult_within {k l w s} : Within lockerParts s (pollResult k l w s) := by
  have imp {s} : Within lockerParts s (implausibleResult k l s) := by
    unfold implausibleResult
    split
    · exact .refl
    · dsimp only
      exact .ite (putSampler_within.widen.next quarantineCause_within) putSampler_within.widen
  have stale {q s} : Within lockerParts s (staleStep k l q s) := by
    unfold staleStep
    split
    · exact .refl
    · dsimp only
      exact .ite (.ite (putSampler_within.widen.next quarantineCause_within) putSampler_within.widen)
        putSampler_within.widen
  have valid {t s} : Within lockerParts s (validSteps l t s) := by
    have o {s} : Within lockerParts s (overtempStep l t s) := .ite quarantineCause_within .refl
    have u {s} : Within lockerParts s (upperStep l t s) := .ite haltLocker_within.widen .refl
    exact ((o.next u).next hscSample_within).next lkeSample_within
  unfold pollResult
  split
  · exact .refl
  · split
    · exact imp
    · dsimp only
      split
      · exact ((putSampler_within.widen.next stale).next valid).next ltcReading_within
      · exact (imp.next stale).next ltcReading_within

/-! ### Seconds -/

theorem countLocker_within {l s} : Within [.lke, .marks, .counts, .entries] s (countLocker l s) := by
  unfold countLocker
  dsimp only
  exact .ite putCtx_within .refl

theorem endLockout_within {l s} : Within lockerParts s (endLockout l s) := by
  unfold endLockout
  dsimp only
  exact putCtx_within.widen.next handRecord_within

theorem countLockout_within {l s} : Within lockerParts s (countLockout l s) := by
  unfold countLockout
  dsimp only
  exact .ite (.ite endLockout_within putCtx_within.widen) .refl

theorem lkeSeconds_within {s} : Within lockerParts s (lkeSeconds s) :=
  Within.fold (f := secondLocker)
    (fun _ _ => (countLocker_within.widen.next judgeExpiry_within).next countLockout_within) rfl _ _

/-! ### The command evaluator -/

theorem applyOutcome_within {l w o s} : Within lockerParts s (applyOutcome l w o s) := by
  unfold applyOutcome
  split
  · unfold acceptAssign; dsimp only; exact putCtx_within.widen
  · exact enterVacant_within
  · unfold acceptLoad; exact enterHalting_within.widen.next requestRelease_within
  · unfold acceptCollect; dsimp only; exact putCtx_within.widen.next requestRelease_within
  · unfold acceptClear; dsimp only; exact enterHalting_within.widen.next requestRelease_within
  · unfold countAttempt; dsimp only; exact .ite (putCtx_within.widen.next handRecord_within) putCtx_within.widen
  · exact .refl

theorem commonEffects_within {l s} : Within [.lke, .marks] s (commonEffects l s) :=
  lke_within.widen.next putMark_within

theorem evaluation_within {l w s} : Within lockerParts s (evaluation l w s) :=
  applyOutcome_within.next commonEffects_within

/-! ### The bus passage -/

theorem cpi_within {c a} {s : State} : Within [.cpi] s { s with cpi := c, answer := a } := by constructor <;> simp

theorem forward_within {t e s} : Within [.cpi] s (forward t e s) := by constructor <;> simp [forward]

theorem refuse_within {c a s} : Within [.cpi, .queue] s (refuse c a s) := by
  unfold refuse
  dsimp only
  exact .ite cpi_within.widen (cpi_within.widen.next handRecord_within)

theorem captureCode_within {l w s} : Within [.lke, .marks] s (captureCode l w s) := lke_within.widen.next putMark_within

theorem captureOrder_within {l w s} : Within [.lke] s (captureOrder l w s) := lke_within

/-- The parts that a transaction's arrival can touch. -/
abbrev arrivalParts : List Part := .cpi :: .turns :: lockerParts

theorem takeWrite_within {t s} : Within arrivalParts s (takeWrite t s) := by
  unfold takeWrite
  dsimp only
  split
  · exact evaluation_within.widen.next forward_within
  · exact captureCode_within.widen.next forward_within
  · exact captureOrder_within.widen.next forward_within
  all_goals exact forward_within.widen

theorem promote_within {n s} : Within [.turns] s (promote n s) := by
  unfold promote
  split
  · exact .refl
  · constructor <;> simp

theorem decideTxn_within {t s} : Within arrivalParts s (decideTxn t s) := by
  unfold decideTxn
  split
  · unfold decideWrite
    split
    · exact refuse_within.widen
    · exact .ite takeWrite_within forward_within.widen
  · unfold decideRead
    dsimp only
    refine .ite (.ite forward_within.widen ?_) forward_within.widen
    have k {c} : Within [.cpi] s { s with cpi := c } := by constructor <;> simp
    exact k.widen.next promote_within

theorem arrive_within {t s} : Within arrivalParts s (arrive t s) := by
  have k : Within arrivalParts s { s with answer := none } := by constructor <;> simp
  have q {c} {s : State} : Within [.cpi] s { s with cpi := c } := by constructor <;> simp
  unfold arrive
  exact .ite (k.next q) (k.next decideTxn_within)

theorem releaseStart_within {s} : Within arrivalParts s (releaseStart s) := by
  unfold releaseStart; split
  · exact decideTxn_within
  all_goals exact .refl

theorem releaseHolds_within {s} : Within [.cpi] s (releaseHolds s) := by
  unfold releaseHolds
  split
  · dsimp only
    refine .ite ?_ forward_within
    constructor <;> simp
  all_goals exact .refl

/-! ### After an event -/

theorem mrwChoose_within {s} : Within [.turns] s (mrwChoose s) := by
  unfold mrwChoose; split <;> constructor <;> simp

theorem mrwSettle_within {s} : Within [.turns] s (mrwSettle s) := by
  have w : Within [.turns] s (mrwWithdraw s) := by constructor <;> simp [mrwWithdraw]
  have k {s : State} {l} : Within [.turns] s { s with mrw := { s.mrw with turn := none, lastServed := l } } := by
    constructor <;> simp
  have n {s} : Within [.turns] s (mrwNext s) := by
    unfold mrwNext
    split
    · constructor <;> simp
    · unfold mrwTurn
      split
      · exact mrwChoose_within
      · split
        · constructor <;> simp
        · exact k.next mrwChoose_within
  unfold mrwSettle
  dsimp only
  exact .ite (w.next n) w

theorem dropSuperseded_within {s} : Within [.due] s (dropSuperseded s) := by constructor <;> simp [dropSuperseded]

theorem ahuPick_within {s} : Within [.due] s (ahuPick s) := by
  unfold ahuPick
  split
  · constructor <;> simp
  · exact .refl

theorem ahuSettle_within {s} : Within [.due] s (ahuSettle s) := by
  unfold ahuSettle
  dsimp only
  exact .ite (dropSuperseded_within.next ahuPick_within) dropSuperseded_within

theorem dropAll_ring (r : Rpw) :
    r.dropAll.adopted = r.adopted ∧ r.dropAll.write = r.write ∧ r.dropAll.read = r.read
      ∧ r.dropAll.attention = r.attention ∧ r.dropAll.mask = r.mask ∧ r.dropAll.stage = r.stage
      ∧ r.dropAll.keptWrite = r.keptWrite ∧ r.dropAll.keptRead = r.keptRead ∧ r.dropAll.op = r.op
      ∧ r.dropAll.quarantined = r.quarantined ∧ r.dropAll.lostChannels = r.lostChannels ∧ r.dropAll.queue = [] := by
  suffices ∀ (q : List Record) (x : Rpw), x.adopted = r.adopted ∧ x.write = r.write ∧ x.read = r.read
      ∧ x.attention = r.attention ∧ x.mask = r.mask ∧ x.stage = r.stage ∧ x.keptWrite = r.keptWrite
      ∧ x.keptRead = r.keptRead ∧ x.op = r.op ∧ x.quarantined = r.quarantined ∧ x.lostChannels = r.lostChannels →
      let y := q.foldl (fun r _ => r.countLoss) x
      y.adopted = r.adopted ∧ y.write = r.write ∧ y.read = r.read
      ∧ y.attention = r.attention ∧ y.mask = r.mask ∧ y.stage = r.stage ∧ y.keptWrite = r.keptWrite
      ∧ y.keptRead = r.keptRead ∧ y.op = r.op ∧ y.quarantined = r.quarantined ∧ y.lostChannels = r.lostChannels by
    have := this r.queue r (by simp)
    simpa [Rpw.dropAll] using this
  intro q
  induction q with
  | nil => intro x h; exact h
  | cons _ q ih => intro x h; exact ih _ (by simpa [countLoss_ring] using h)

theorem rpwSettle_within {s} : Within [.queue, .ringOp] s (rpwSettle s) := by
  have k {o} : Within [.queue, .ringOp] s { s with rpw := { s.rpw with op := o } } := by constructor <;> simp
  have d : Within [.queue, .ringOp] s { s with rpw := s.rpw.dropAll } := by constructor <;> simp [dropAll_ring]
  have d' {o} : Within [.queue, .ringOp] s { s with rpw := { s.rpw.dropAll with op := o } } := by
    constructor <;> simp [dropAll_ring]
  unfold rpwSettle
  refine .ite ?_ .refl
  unfold rpwStart
  refine .ite k (.ite .refl (.ite ?_ k))
  dsimp only
  split
  · exact d'
  · exact d

/-- The parts that `settle` can touch. -/
abbrev settleParts : List Part := [.cpi, .turns, .due, .sweep, .queue, .ringOp]

theorem settle_within {s} : Within settleParts s (settle s) := by
  unfold settle
  split
  all_goals first
    | exact .refl
    | exact ((mrwSettle_within.widen.next ahuSettle_within).next rpwSettle_within)
    | exact ((((releaseHolds_within.widen.next mrwSettle_within).next ahuSettle_within).next smpSettle_within).next
        rpwSettle_within)

end Sys2Proof.Machine
end

