-- ==== Sys2Proof/Laws/Access.lean ====
section
/-! SUPPORT. What the shared updates leave at each locker, channel and mark, and that an event of one locker leaves the
contexts and latches of the others. -/

-- One theorem after the other: a thread for each would ask for more stack space than a build may have.
set_option Elab.async false

namespace Sys2Proof.Machine

/-! ### Accessors read their own field only -/

theorem ctx_of_lke {s t : State} (h : t.lke = s.lke) (l : Locker) : t.ctx l = s.ctx l := by simp [State.ctx, h]
theorem latches_of_ltc {s t : State} (h : t.ltc = s.ltc) (l : Locker) : t.latches l = s.latches l := by
  simp [State.latches, h]
theorem latch_of_ltc {s t : State} (h : t.ltc = s.ltc) (l : Locker) (k : Hatch) : t.latch l k = s.latch l k := by
  simp [State.latch, latches_of_ltc h]
theorem paths_of_ahu {s t : State} (h : t.ahu.paths = s.ahu.paths) (l : Locker) : t.paths l = s.paths l := by
  simp [State.paths, h]
theorem chan_of_hsc {s t : State} (h : t.hsc.chans = s.hsc.chans) (i : Chan) : t.chan i = s.chan i := by
  simp [State.chan, h]
theorem marks_of_mrw {s t : State} (h : t.mrw.marks = s.mrw.marks) (l : Locker) : t.marks l = s.marks l := by
  simp [State.marks, h]
theorem sampler_of_smp {s t : State} (h : t.smp.recs = s.smp.recs) (l : Locker) : t.sampler l = s.sampler l := by
  simp [State.sampler, h]
theorem attachedChan_of_hsc {s t : State} (h : t.hsc.chans = s.hsc.chans) (l : Locker) :
    t.attachedChan l = s.attachedChan l := by simp [State.attachedChan, chan_of_hsc h]
theorem bothLatched_of_ltc {s t : State} (h : t.ltc = s.ltc) (l : Locker) : t.bothLatched l = s.bothLatched l := by
  simp [State.bothLatched, latches_of_ltc h]

/-! ### Vectors of the 64 lockers and the 16 channels -/

theorem Fin64_val_inj {k l : Fin 64} : k.val = l.val ↔ k = l := by omega
theorem Fin16_val_inj {k l : Fin 16} : k.val = l.val ↔ k = l := by omega

theorem getElem_setL {α : Type} (v : Vector α 64) (k l : Locker) (x : α) :
    (v.set l.val x)[k.val] = if k = l then x else v[k.val] := by
  rw [Vector.getElem_set]; simp only [eq_comm (a := l.val), Fin64_val_inj]

theorem getElem_setC {α : Type} (v : Vector α 16) (k l : Chan) (x : α) :
    (v.set l.val x)[k.val] = if k = l then x else v[k.val] := by
  rw [Vector.getElem_set]; simp only [eq_comm (a := l.val), Fin16_val_inj]

/-! ### Marks -/

theorem Marks.has_put (m : Marks) (c d : MarkCell) (b : Bool) : (m.put c b).has d = if d = c then b else m.has d := by
  cases c <;> cases d <;> rfl

@[simp] theorem putMark_marks (l k : Locker) (c : MarkCell) (b : Bool) (s : State) :
    (putMark l c b s).marks k = if k = l then (s.marks l).put c b else s.marks k := by
  simp only [State.marks, putMark, getElem_setL]

/-- A mark after one has been set or cleared. -/
theorem putMark_has (l k : Locker) (c d : MarkCell) (b : Bool) (s : State) :
    ((putMark l c b s).marks k).has d = if k = l ∧ d = c then b else (s.marks k).has d := by
  rw [putMark_marks]
  by_cases h : k = l
  · subst h; simp [Marks.has_put]
  · simp [h]

/-! ### Contexts and latches -/

theorem markIf_eq_lke (q : Bool) (l : Locker) (c : MarkCell) (s : State) : (markIf q l c s).lke = s.lke :=
  markIf_within.lke (by decide)

/-- `putCtx` sets the contexts vector at one locker. -/
@[simp] theorem putCtx_lke (l : Locker) (c : Context) (s : State) : (putCtx l c s).lke = s.lke.set l.val c := by
  have k (t : State) : (if (s.ctx l).life ≠ c.life then hscNotice l t else t).lke = t.lke := by
    split
    · exact hscNotice_within.lke (by decide)
    · rfl
  unfold putCtx
  dsimp only
  rw [k, countQuarantine_within.lke (by decide), markIf_eq_lke, markIf_eq_lke]

/-- A context changed is read back, and no other context changes. -/
@[simp] theorem putCtx_ctx (l k : Locker) (c : Context) (s : State) :
    (putCtx l c s).ctx k = if k = l then c else s.ctx k := by
  simp only [State.ctx, putCtx_lke, getElem_setL]

/-- `putLatch` sets the latches vector at one locker. -/
@[simp] theorem putLatch_ltc (l : Locker) (h : Hatch) (r : LatchRec) (s : State) :
    (putLatch l h r s).ltc = s.ltc.set l.val ((s.latches l).set h r) := by
  have k (t : State) (q : Prop) [Decidable q] : (if q then hscNotice l t else t).ltc = t.ltc := by
    split
    · exact hscNotice_within.ltc (by decide)
    · rfl
  unfold putLatch
  dsimp only
  rw [k, setFastPoll_ltc, markIf_within.ltc (by decide)]

@[simp] theorem putLatch_latches (l k : Locker) (h : Hatch) (r : LatchRec) (s : State) :
    (putLatch l h r s).latches k = if k = l then (s.latches l).set h r else s.latches k := by
  simp only [State.latches, putLatch_ltc, getElem_setL]

theorem LatchPair.get_set (p : LatchPair) (h k : Hatch) (r : LatchRec) :
    (p.set h r).get k = if k = h then r else p.get k := by cases h <;> cases k <;> rfl

/-- A latch record changed is read back, and no other record changes. -/
@[simp] theorem putLatch_latch (l k : Locker) (h g : Hatch) (r : LatchRec) (s : State) :
    (putLatch l h r s).latch k g = if k = l ∧ g = h then r else s.latch k g := by
  simp only [State.latch, putLatch_latches]
  by_cases e : k = l
  · subst e; simp [LatchPair.get_set]
  · simp [e]

/-- The fast-poll set after a latch change: the locker's membership is judged anew, and no other's changes (R97). -/
theorem putLatch_fastPoll (l k : Locker) (h : Hatch) (r : LatchRec) (s : State) :
    (putLatch l h r s).smp.fastPoll[k.val]
      = if k = l then ((s.latches l).set h r).inSeq else s.smp.fastPoll[k.val] := by
  have q (t : State) (p : Prop) [Decidable p] : (if p then hscNotice l t else t).smp.fastPoll = t.smp.fastPoll := by
    split
    · exact (hscNotice_within.fast (by decide)).1
    · rfl
  unfold putLatch
  dsimp only
  have f (b : Bool) (t : State) : (markIf b l .state t).latches l = t.latches l :=
    latches_of_ltc (markIf_within.ltc (by decide)) l
  rw [q, f]
  simp only [setFastPoll, getElem_setL, (markIf_within.fast (by decide)).1, State.latches, if_true]

/-! ### Paths and channels -/

theorem putPaths_ahu (l : Locker) (p : PathPair) (s : State) :
    (putPaths l p s).ahu.paths = s.ahu.paths.set l.val p := by
  unfold putPaths
  rw [markIf_within.paths (by decide)]

/-- A locker's paths changed are read back, and no other locker's change. -/
@[simp] theorem putPaths_paths (l k : Locker) (p : PathPair) (s : State) :
    (putPaths l p s).paths k = if k = l then p else s.paths k := by
  simp only [State.paths, putPaths_ahu, getElem_setL]

theorem putChan_chans (i : Chan) (c : Channel) (s : State) :
    (putChan i c s).hsc.chans = s.hsc.chans.set i.val c := by
  unfold putChan
  dsimp only
  split
  · rfl
  · rw [(markAttach_within.chans (by decide)).1, (markAttach_within.chans (by decide)).1]

/-- A channel changed is read back, and no other channel changes. -/
@[simp] theorem putChan_chan (i j : Chan) (c : Channel) (s : State) :
    (putChan i c s).chan j = if j = i then c else s.chan j := by
  simp only [State.chan, putChan_chans, getElem_setC]

theorem issueHeat_paths (l k : Locker) (b : Bool) (s : State) :
    (issueHeat l b s).paths k = if k = l then { s.paths l with heatOn := b, heat := (s.paths l).heat.issue }
      else s.paths k := by
  unfold issueHeat
  dsimp only
  rw [paths_of_ahu (putMark_within.paths (by decide)), putPaths_paths]

theorem issueLatch_paths (l k : Locker) (a b : Bool) (s : State) :
    (issueLatch l a b s).paths k
      = if k = l then { s.paths l with relFront := a, relRear := b, latch := (s.paths l).latch.issue }
        else s.paths k := by
  unfold issueLatch
  dsimp only
  rw [paths_of_ahu (putMark_within.paths (by decide)), putPaths_paths]

/-! ### Queue entries -/

theorem dropHq_hq (l : Locker) (s : State) : (dropHq l s).hsc.hq = s.hsc.hq.filter (· ≠ l) := rfl
theorem dropWq_wq (l : Locker) (s : State) : (dropWq l s).hsc.wq = s.hsc.wq.filter (· ≠ l) := rfl

/-- After the notice, the locker's entries are those it qualifies for; other entries stand in their order (R109). -/
theorem hscNotice_queues (l : Locker) (s : State) :
    (hscNotice l s).hsc.hq = (if s.qualifiesHq l then s.hsc.hq else s.hsc.hq.filter (· ≠ l))
      ∧ (hscNotice l s).hsc.wq = (if s.qualifiesWq l then s.hsc.wq else s.hsc.wq.filter (· ≠ l)) := by
  have q (b : Bool) : (if b = true then s else dropHq l s).qualifiesWq l = s.qualifiesWq l := by split <;> rfl
  unfold hscNotice
  dsimp only
  rw [q]
  constructor <;> split <;> split <;> rfl

/-! ### The other lockers -/

/-- The contexts and latches of every locker but one stand. -/
def Others (l : Locker) (s t : State) : Prop := ∀ k : Locker, k ≠ l → t.ctx k = s.ctx k ∧ t.latches k = s.latches k

theorem Others.refl {l : Locker} {s : State} : Others l s s := fun _ _ => ⟨rfl, rfl⟩

theorem Others.trans {l : Locker} {s t u : State} (h : Others l s t) (k : Others l t u) : Others l s u :=
  fun m n => ⟨(k m n).1.trans (h m n).1, (k m n).2.trans (h m n).2⟩

theorem Others.ite {l : Locker} {s a b : State} {c : Prop} [Decidable c] (ha : Others l s a) (hb : Others l s b) :
    Others l s (if c then a else b) := by split <;> assumption

/-- A change outside contexts and latches leaves every locker. -/
theorem Within.others {bs : List Part} {s t : State} (w : Within bs s t)
    (h : (bs.contains .lke || bs.contains .ltc) = false := by rfl) (l : Locker) : Others l s t := by
  simp only [Bool.or_eq_false_iff, List.contains_eq_mem, decide_eq_false_iff_not] at h
  exact fun k _ => ⟨ctx_of_lke (w.lke h.1) k, latches_of_ltc (w.ltc h.2) k⟩

theorem putCtx_others {l c s} : Others l s (putCtx l c s) := fun k n =>
  ⟨by rw [putCtx_ctx, if_neg n], latches_of_ltc (putCtx_within.ltc (by decide)) k⟩

theorem putLatch_others {l h r s} : Others l s (putLatch l h r s) := fun k n =>
  ⟨ctx_of_lke (putLatch_within.lke (by decide)) k, by rw [putLatch_latches, if_neg n]⟩

theorem withdrawHatch_others {l i s h} : Others l s (withdrawHatch l i s h) := by
  unfold withdrawHatch
  dsimp only
  split
  · exact putLatch_others.trans (reportWithdrawn_within.others rfl l)
  · exact (putLatch_others.trans (issueLatch_within.others rfl l)).trans (reportWithdrawn_within.others rfl l)
  · exact (putLatch_others.trans (issueLatch_within.others rfl l)).trans (reportWithdrawn_within.others rfl l)
  · exact .ite (reportWithdrawn_within.others rfl l) .refl
  all_goals exact .refl

theorem withdraw_others {l i s} : Others l s (withdraw l i s) := withdrawHatch_others.trans withdrawHatch_others

theorem enterHalting_others {l c s} : Others l s (enterHalting l c s) :=
  putCtx_others.trans (haltLocker_within.others rfl l)

theorem enterVacant_others {l s} : Others l s (enterVacant l s) := by
  unfold enterVacant
  exact ((enterHalting_others.trans (zeroErrors_within.others rfl l)).trans (putSampler_within.others rfl l)).trans
    (leaveSweep_within.others rfl l)

theorem quarantine_others {l r s} : Others l s (quarantine l r s) := by
  unfold quarantine
  dsimp only
  exact (enterHalting_others.trans (handRecord_within.others rfl l)).trans withdraw_others

theorem quarantineCause_others {l r s} : Others l s (quarantineCause l r s) := by
  unfold quarantineCause
  dsimp only
  exact .ite enterHalting_others (.ite .refl (.ite .refl quarantine_others))

theorem relatchOutcome_others {l h o s} : Others l s (relatchOutcome l h o s) := by
  unfold relatchOutcome
  split
  · unfold relatchLoading
    dsimp only
    split <;> exact putCtx_others.trans (handRecord_within.others rfl l)
  · unfold relatchCollecting
    dsimp only
    split
    · exact enterVacant_others.trans (handRecord_within.others rfl l)
    · split
      · exact putCtx_others.trans (handRecord_within.others rfl l)
      · exact enterHalting_others.trans (handRecord_within.others rfl l)
    · exact putCtx_others.trans (handRecord_within.others rfl l)
  · unfold relatchClearing
    dsimp only
    split
    · exact enterVacant_others.trans (handRecord_within.others rfl l)
    · exact quarantine_others
    · unfold returnFromClearing
      dsimp only
      exact (Others.ite putCtx_others enterHalting_others).trans (handRecord_within.others rfl l)
  all_goals exact .refl

theorem requestRelease_others {l h s} : Others l s (requestRelease l h s) := by
  unfold requestRelease startRelease
  dsimp only
  exact .ite (.ite (putLatch_others.trans (haltLocker_within.others rfl l))
    (putLatch_others.trans (issueLatch_within.others rfl l))) relatchOutcome_others

theorem judgeExpiry_others {l s} : Others l s (judgeExpiry l s) := by
  unfold judgeExpiry
  split
  · split
    · unfold takeExpiry
      dsimp only
      split
      · exact enterHalting_others.trans (handRecord_within.others rfl l)
      · exact .ite (putCtx_others.trans (handRecord_within.others rfl l))
          ((enterHalting_others.trans (handRecord_within.others rfl l)).trans withdraw_others)
      all_goals exact .refl
    · exact .refl
  · exact .refl

theorem countLocker_others {l s} : Others l s (countLocker l s) := by
  unfold countLocker
  dsimp only
  exact .ite putCtx_others .refl

theorem endLockout_others {l s} : Others l s (endLockout l s) := by
  unfold endLockout
  dsimp only
  exact putCtx_others.trans (handRecord_within.others rfl l)

theorem countLockout_others {l s} : Others l s (countLockout l s) := by
  unfold countLockout
  dsimp only
  exact .ite (.ite endLockout_others putCtx_others) .refl

/-- A locker's share of the seconds event at LKE leaves the other lockers (R157). -/
theorem secondLocker_others {l s} : Others l s (secondLocker s l) :=
  (countLocker_others.trans judgeExpiry_others).trans countLockout_others

theorem secondHatch_others {l s h} : Others l s (secondHatch l s h) := by
  unfold secondHatch expireOpenWait expireHatchHeld
  dsimp only
  split
  · exact .ite (putLatch_others.trans (issueLatch_within.others rfl l)) putLatch_others
  · exact .ite .refl (.ite (putLatch_others.trans (handRecord_within.others rfl l)) putLatch_others)
  all_goals exact .refl

/-- A locker's share of the seconds event at LTC leaves the other lockers (R92). -/
theorem secondLatches_others {l s} : Others l s (secondLatches s l) := secondHatch_others.trans secondHatch_others

theorem applyOutcome_others {l w o s} : Others l s (applyOutcome l w o s) := by
  unfold applyOutcome
  split
  · unfold acceptAssign; dsimp only; exact putCtx_others
  · exact enterVacant_others
  · unfold acceptLoad; exact enterHalting_others.trans requestRelease_others
  · unfold acceptCollect; dsimp only; exact putCtx_others.trans requestRelease_others
  · unfold acceptClear; dsimp only; exact enterHalting_others.trans requestRelease_others
  · unfold countAttempt
    dsimp only
    exact .ite (putCtx_others.trans (handRecord_within.others rfl l)) putCtx_others
  · exact .refl

/-- The common effects zero the presented code and leave the rest of the context (R65). -/
theorem commonEffects_ctx (l k : Locker) (s : State) :
    (commonEffects l s).ctx k = if k = l then { s.ctx l with presCode := 0 } else s.ctx k := by
  have h : (commonEffects l s).lke = s.lke.set l.val { s.ctx l with presCode := 0 } := rfl
  simp only [State.ctx, h, getElem_setL]

/-- An evaluation leaves the other lockers (R63). -/
theorem evaluation_others {l w s} : Others l s (evaluation l w s) := by
  unfold evaluation
  refine applyOutcome_others.trans fun k n => ⟨?_, latches_of_ltc (commonEffects_within.ltc (by decide)) k⟩
  rw [commonEffects_ctx, if_neg n]

end Sys2Proof.Machine
end

