-- ==== Sys2Proof/Laws/Memory.lean ====
section
/-! SUPPORT. The locker memory: every operation keeps its canonical form, and what a byte reads as after a write. -/

-- One theorem after the other: a thread for each would ask for more stack space than a build may have.
set_option Elab.async false

namespace Sys2Proof.Machine

/-! ### One byte -/

theorem Memory.wfFrom_weaken {m : Memory} {lo hi : Nat} (h : lo ≤ hi) (w : m.wfFrom hi = true) : m.wfFrom lo = true := by
  cases m with
  | nil => rfl
  | cons c m =>
    obtain ⟨k, b⟩ := c
    simp only [Memory.wfFrom, Bool.and_eq_true, decide_eq_true_eq] at w ⊢
    obtain ⟨⟨⟨w1, w2⟩, w3⟩, w4⟩ := w
    exact ⟨⟨⟨by omega, w2⟩, w3⟩, w4⟩

/-- Below its first entry a canonical memory lists nothing. -/
theorem Memory.readByte_below {m : Memory} {lo a : Nat} (w : m.wfFrom lo = true) (h : a < lo) :
    m.readByte a = Config.unlistedByte := by
  induction m generalizing lo with
  | nil => rfl
  | cons c m ih =>
    obtain ⟨k, b⟩ := c
    simp only [Memory.wfFrom, Bool.and_eq_true, decide_eq_true_eq] at w
    obtain ⟨⟨⟨w1, w2⟩, w3⟩, w4⟩ := w
    unfold Memory.readByte
    rw [if_neg (show ¬ k = a by omega)]
    exact ih w4 (Nat.lt_succ_of_lt (Nat.lt_of_lt_of_le h w1))

theorem Memory.writeByte_wfFrom {m : Memory} {lo a : Nat} (b : Byte) (w : m.wfFrom lo = true) (h : lo ≤ a)
    (top : a < 2 ^ 24) : (m.writeByte a b).wfFrom lo = true := by
  induction m generalizing lo with
  | nil =>
    unfold Memory.writeByte
    split
    · rfl
    · simp only [Memory.wfFrom, Bool.and_eq_true, decide_eq_true_eq]
      exact ⟨⟨⟨h, top⟩, by assumption⟩, trivial⟩
  | cons c m ih =>
    obtain ⟨k, x⟩ := c
    have w' := w
    simp only [Memory.wfFrom, Bool.and_eq_true, decide_eq_true_eq] at w'
    have w1 := w'.1.1.1
    unfold Memory.writeByte
    split
    · split
      · exact w
      · simp only [Memory.wfFrom, Bool.and_eq_true, decide_eq_true_eq]
        refine ⟨⟨⟨h, top⟩, by simpa using ‹¬ b = _›⟩, ⟨⟨by omega, w'.1.1.2⟩, w'.1.2⟩, w'.2⟩
    · split
      · split
        · exact Memory.wfFrom_weaken (by omega) w'.2
        · simp only [Memory.wfFrom, Bool.and_eq_true, decide_eq_true_eq]
          subst_vars
          exact ⟨⟨⟨h, top⟩, by simpa using ‹¬ b = _›⟩, w'.2⟩
      · simp only [Memory.wfFrom, Bool.and_eq_true, decide_eq_true_eq]
        exact ⟨w'.1, ih w'.2 (by omega)⟩

/-- A byte written at an address of the space keeps the canonical form. -/
theorem Memory.writeByte_wf {m : Memory} {a : Nat} (b : Byte) (w : m.wf = true) (top : a < 2 ^ 24) :
    (m.writeByte a b).wf = true := Memory.writeByte_wfFrom b w (Nat.zero_le a) top

/-- What a byte reads as after a byte has been written. -/
theorem Memory.readByte_writeByte {m : Memory} {lo : Nat} (a x : Nat) (b : Byte) (w : m.wfFrom lo = true) :
    (m.writeByte a b).readByte x = if x = a then b else m.readByte x := by
  induction m generalizing lo with
  | nil =>
    by_cases hb : b = Config.unlistedByte <;> by_cases hx : x = a <;>
      simp_all [Memory.writeByte, Memory.readByte, eq_comm (a := a)]
  | cons c m ih =>
    obtain ⟨k, y⟩ := c
    have w' := w
    simp only [Memory.wfFrom, Bool.and_eq_true, decide_eq_true_eq] at w'
    obtain ⟨⟨⟨w1, w2⟩, w3⟩, w4⟩ := w'
    have low : a < k → Memory.readByte m a = Config.unlistedByte := fun h => Memory.readByte_below w4 (by omega)
    have here : Memory.readByte m k = Config.unlistedByte := Memory.readByte_below w4 (by omega)
    unfold Memory.writeByte
    by_cases h1 : a < k
    · by_cases hb : b = Config.unlistedByte <;> by_cases hx : x = a
      · subst hx; simp [h1, hb, Memory.readByte, low h1]; omega
      · simp [h1, hb, hx]
      · subst hx; simp [h1, hb, Memory.readByte]
      · simp [h1, hb, hx, Memory.readByte, eq_comm (a := a)]
    · by_cases h2 : a = k
      · subst h2
        by_cases hb : b = Config.unlistedByte <;> by_cases hx : x = a
        · subst hx; simp [hb, here]
        · simp [hb, hx, Memory.readByte, eq_comm (a := a)]
        · subst hx; simp [hb, Memory.readByte]
        · simp [hb, hx, Memory.readByte, eq_comm (a := a)]
      · have rest := ih w4
        by_cases hx : k = x
        · subst hx; simp [h1, h2, Memory.readByte, eq_comm (a := k)]
        · simp [h1, h2, hx, Memory.readByte, rest]

/-! ### Words and transactions -/

theorem laneAddr_lt (a : Addr) {i : Nat} (h : i < 4) : laneAddr a i < 2 ^ 24 := by
  have m : (wordAddr a).toNat ≤ 0xFFFFFC := by
    unfold wordAddr
    rw [BitVec.toNat_and]
    exact Nat.and_le_right
  unfold laneAddr
  omega

theorem Memory.writeLane_wf {m : Memory} (a : Addr) (lanes : BitVec 4) (w : Word) {i : Nat} (h : i < 4)
    (c : m.wf = true) : (m.writeLane a lanes w i).wf = true := by
  unfold Memory.writeLane
  split
  · exact Memory.writeByte_wf _ c (laneAddr_lt a h)
  · exact c

/-- A beat written keeps the canonical form. -/
theorem Memory.writeWord_wf {m : Memory} (a : Addr) (lanes : BitVec 4) (w : Word) (c : m.wf = true) :
    (m.writeWord a lanes w).wf = true :=
  writeLane_wf a lanes w (by decide) (writeLane_wf a lanes w (by decide) (writeLane_wf a lanes w (by decide)
    (writeLane_wf a lanes w (by decide) c)))

theorem Memory.writeBeats_wf {m : Memory} (a : Addr) (lanes : BitVec 4) (ws : List Word) (c : m.wf = true) :
    (m.writeBeats a lanes ws).wf = true := by
  induction ws generalizing m a with
  | nil => exact c
  | cons w ws ih => exact ih _ (writeWord_wf a lanes w c)

/-- A completed transaction keeps the canonical form. -/
theorem Memory.complete_wf {m : Memory} (t : Txn) (c : m.wf = true) : (m.complete t).wf = true := by
  unfold Memory.complete
  split
  · exact writeBeats_wf _ _ _ c
  · exact c

/-- The second port's writes keep the canonical form. -/
theorem Memory.port2_wf {m : Memory} (ws : List PortWrite) (c : m.wf = true) : (m.port2 ws).wf = true := by
  unfold Memory.port2
  induction ws generalizing m with
  | nil => exact c
  | cons w ws ih => exact ih (writeWord_wf _ _ _ c)

/-- What a byte reads as after one lane of a beat has been written. -/
theorem Memory.readByte_writeLane {m : Memory} (a : Addr) (lanes : BitVec 4) (w : Word) (i x : Nat)
    (c : m.wf = true) :
    (m.writeLane a lanes w i).readByte x
      = if lanes.getLsbD i = true ∧ x = laneAddr a i then w.extractLsb' (8 * i) 8 else m.readByte x := by
  unfold Memory.writeLane
  split
  · rw [Memory.readByte_writeByte _ _ _ c]; simp_all
  · simp_all

/-- A byte outside a beat's word reads as before. -/
theorem Memory.readByte_writeWord_outside {m : Memory} (a : Addr) (lanes : BitVec 4) (w : Word) {x : Nat}
    (c : m.wf = true) (h : ∀ i, i < 4 → x ≠ laneAddr a i) : (m.writeWord a lanes w).readByte x = m.readByte x := by
  unfold Memory.writeWord
  have c0 := writeLane_wf a lanes w (i := 0) (by decide) c
  have c1 := writeLane_wf a lanes w (i := 1) (by decide) c0
  have c2 := writeLane_wf a lanes w (i := 2) (by decide) c1
  rw [readByte_writeLane _ _ _ _ _ c2, readByte_writeLane _ _ _ _ _ c1, readByte_writeLane _ _ _ _ _ c0,
    readByte_writeLane _ _ _ _ _ c]
  simp [h 0, h 1, h 2, h 3]

/-- A full write of one word is read back. -/
theorem Memory.readWord_writeWord {m : Memory} (a : Addr) (w : Word) (c : m.wf = true) :
    (m.writeWord a 0xF w).readWord a = w := by
  have c0 := writeLane_wf a 0xF w (i := 0) (by decide) c
  have c1 := writeLane_wf a 0xF w (i := 1) (by decide) c0
  have c2 := writeLane_wf a 0xF w (i := 2) (by decide) c1
  have rd (x : Nat) : (m.writeWord a 0xF w).readByte x = if x = laneAddr a 3 then w.extractLsb' 24 8
      else if x = laneAddr a 2 then w.extractLsb' 16 8 else if x = laneAddr a 1 then w.extractLsb' 8 8
      else if x = laneAddr a 0 then w.extractLsb' 0 8 else m.readByte x := by
    unfold Memory.writeWord
    rw [readByte_writeLane _ _ _ _ _ c2, readByte_writeLane _ _ _ _ _ c1, readByte_writeLane _ _ _ _ _ c0,
      readByte_writeLane _ _ _ _ _ c]
    simp
  unfold Memory.readWord
  simp only [rd]
  simp only [laneAddr, Nat.add_left_cancel_iff, Nat.reduceEqDiff, if_true, if_false]
  ext i hi
  simp only [BitVec.getElem_append, BitVec.getElem_extractLsb']
  have at_ (j : Nat) (e : j = i) : w.getLsbD j = w[i] := by subst e; rw [BitVec.getLsbD_eq_getElem]
  split
  · exact at_ _ (by omega)
  · split
    · exact at_ _ (by omega)
    · split
      · exact at_ _ (by omega)
      · exact at_ _ (by omega)

end Sys2Proof.Machine
end

