-- ==== Sys2Proof/Laws/Trail.lean ====
section
/-! SUPPORT. What a step can do, said once: every command but the three resets changes the state by a trail of edits, each
one of the few updates below. A condition that every edit keeps is kept by every such command. -/

-- One theorem after the other: a thread for each would ask for more stack space than a build may have.
set_option Elab.async false

namespace Sys2Proof.Machine

/-- A change of none of the fields that the edits below are about. -/
structure Plain (s t : State) : Prop where
  lke : t.lke = s.lke := by rfl
  ltc : t.ltc = s.ltc := by rfl
  chans : t.hsc.chans = s.hsc.chans := by rfl
  hq : t.hsc.hq = s.hsc.hq := by rfl
  wq : t.hsc.wq = s.hsc.wq := by rfl
  fastPoll : t.smp.fastPoll = s.smp.fastPoll := by rfl
  quarantined : t.rpw.quarantined = s.rpw.quarantined := by rfl
  lostChannels : t.rpw.lostChannels = s.rpw.lostChannels := by rfl
  queue : t.rpw.queue = s.rpw.queue := by rfl
  mem : t.mem = s.mem := by rfl

/-- One update of the state. -/
inductive Edit (s : State) : State → Prop
  /-- A change of other fields. -/
  | plain {t : State} (h : Plain s t) : Edit s t
  /-- A context changed, with what is tied to it. -/
  | ctx (l : Locker) (c : Context) : Edit s (putCtx l c s)
  /-- A context changed without its lifecycle state: the presented code or order. -/
  | presented (l : Locker) (c : Context) (h : c.life = (s.ctx l).life) : Edit s { s with lke := s.lke.set l.val c }
  /-- A latch record changed, with what is tied to it. -/
  | latch (l : Locker) (h : Hatch) (r : LatchRec) : Edit s (putLatch l h r s)
  /-- A channel that is not LOST keeps its locker or lets go of it. -/
  | chan (i : Chan) (c : Channel) (h : (s.chan i).st ≠ .lost) (k : c.st ≠ .lost)
      (a : c.st.attached = none ∨ c.st.attached = (s.chan i).st.attached) : Edit s (putChan i c s)
  /-- A FREE channel allocated to a locker that has none. -/
  | allocated (i : Chan) (l : Locker) (g : BitVec 32) (h : (s.chan i).st = .free) (k : s.attachedChan l = none) :
      Edit s (putChan i { st := .onPending l, stamp := g } s)
  /-- A channel lost and counted. -/
  | lost (i : Chan) (g : BitVec 32) (h : (s.chan i).st ≠ .lost) :
      Edit s
        { putChan i { st := .lost, stamp := g } s with
          rpw := { (putChan i { st := .lost, stamp := g } s).rpw with
            lostChannels := (putChan i { st := .lost, stamp := g } s).rpw.lostChannels + 1 } }
  /-- A record handed to RPW. -/
  | record (r : Record) : Edit s (handRecord r s)
  /-- The append queue no longer than before. -/
  | fewer {q : List Record} {t : State} (h : Plain { s with rpw := { s.rpw with queue := q } } t)
      (k : q.length ≤ s.rpw.queue.length) : Edit s t
  /-- Queue entries taken out. -/
  | dropped {h w : List Locker} (hh : h.Sublist s.hsc.hq) (hw : w.Sublist s.hsc.wq) :
      Edit s { s with hsc := { s.hsc with hq := h, wq := w } }
  /-- An entry posted for a locker that has none. -/
  | postedHq (l : Locker) (h : l ∉ s.ranking) : Edit s { s with hsc := { s.hsc with hq := s.hsc.hq ++ [l] } }
  | postedWq (l : Locker) (h : l ∉ s.ranking) : Edit s { s with hsc := { s.hsc with wq := s.hsc.wq ++ [l] } }
  /-- The memory changed, with fields that no edit is about. -/
  | memory {m : Memory} {t : State} (h : s.mem.wf = true → m.wf = true) (k : Plain { s with mem := m } t) : Edit s t

/-- A list of edits. -/
inductive Trail (s : State) : State → Prop
  | refl : Trail s s
  | more {t u : State} (h : Trail s t) (e : Edit t u) : Trail s u

theorem Trail.one {s t : State} (e : Edit s t) : Trail s t := .more .refl e

theorem Trail.trans {s t u : State} (h : Trail s t) (k : Trail t u) : Trail s u := by
  induction k with
  | refl => exact h
  | more _ e ih => exact .more ih e

theorem Trail.ite {s a b : State} {c : Prop} [Decidable c] (ha : Trail s a) (hb : Trail s b) :
    Trail s (if c then a else b) := by split <;> assumption

/-- A condition that every edit keeps is kept along a trail. -/
theorem Trail.keeps {I : State → Prop} (edit : ∀ s t, Edit s t → I s → I t) {s t : State} (h : Trail s t) (i : I s) : I t := by
  induction h with
  | refl => exact i
  | more _ e ih => exact edit _ _ e ih

theorem Trail.fold {α : Type} {f : State → α → State} (h : ∀ s x, Trail s (f s x)) (xs : List α) (s : State) :
    Trail s (xs.foldl f s) := by
  induction xs generalizing s with
  | nil => exact .refl
  | cons x xs ih => exact (h s x).trans (ih (f s x))

/-! ### Plain changes -/

/-- The parts in which a change is plain. -/
def plainParts : List Part := [.ops, .cpi, .limit, .paths, .due, .recs, .sweep, .tmb, .sup, .marks, .turns, .ringOp, .ring, .mpi]

theorem Within.trail {bs : List Part} {s t : State} (w : Within bs s t) (h : covers plainParts bs = true) : Trail s t := by
  have n (x : Part) (hx : x ∉ plainParts := by decide) : x ∉ bs := covers_mem h hx
  have c := w.chans (n .chans)
  have e := w.entries (n .entries)
  have f := w.fast (n .fast)
  have q := w.counts (n .counts)
  exact .one (.plain ⟨w.lke (n .lke), w.ltc (n .ltc), c.1, e.1, e.2, f.1, q.1, q.2, (w.queue (n .queue)).1, w.mem (n .mem)⟩)

theorem Plain.trail {s t : State} (h : Plain s t) : Trail s t := .one (.plain h)

theorem putMark_trail {l c b s} : Trail s (putMark l c b s) := putMark_within.trail rfl
theorem putPaths_trail {l p s} : Trail s (putPaths l p s) := putPaths_within.trail rfl
theorem issueHeat_trail {l b s} : Trail s (issueHeat l b s) := issueHeat_within.trail rfl
theorem issueLatch_trail {l a b s} : Trail s (issueLatch l a b s) := issueLatch_within.trail rfl
theorem putSampler_trail {l r s} : Trail s (putSampler l r s) := putSampler_within.trail rfl
theorem leaveSweep_trail {l s} : Trail s (leaveSweep l s) := leaveSweep_within.trail rfl
theorem zeroErrors_trail {l s} : Trail s (zeroErrors l s) := zeroErrors_within.trail rfl
theorem putCtx_trail {l c s} : Trail s (putCtx l c s) := .one (.ctx l c)
theorem putLatch_trail {l h r s} : Trail s (putLatch l h r s) := .one (.latch l h r)
theorem handRecord_trail {r s} : Trail s (handRecord r s) := .one (.record r)

theorem dropHq_trail {l s} : Trail s (dropHq l s) := .one (.dropped List.filter_sublist (.refl _))
theorem dropWq_trail {l s} : Trail s (dropWq l s) := .one (.dropped (.refl _) List.filter_sublist)

/-! ### The heat scheduler -/

theorem turnOff_trail {i s} : Trail s (turnOff i s) := by
  unfold turnOff
  split
  · next l h =>
    have e : (s.chan i).st = .onPending l ∨ (s.chan i).st = .on l := by
      cases c : (s.chan i).st <;> simp_all [ChanState.energised]
    refine (Trail.one (.chan i _ ?_ (by simp) (.inr ?_))).trans issueHeat_trail
    · rcases e with e | e <;> simp [e]
    · rcases e with e | e <;> simp [e, ChanState.attached]
  · exact .refl

theorem haltLocker_trail {l s} : Trail s (haltLocker l s) := by
  unfold haltLocker
  split
  · exact turnOff_trail
  · exact .refl

/-- A channel that `freeChan` finds is FREE. -/
theorem freeChan_free {s : State} {i : Chan} (h : s.freeChan = some i) : (s.chan i).st = .free := by
  have := List.find?_some h
  simp at this
  exact this.2

theorem allocateChan_trail {i l s} (h : (s.chan i).st = .free) (k : s.attachedChan l = none) :
    Trail s (allocateChan i l s) := by
  unfold allocateChan
  dsimp only
  have p : Trail s { s with hsc := { s.hsc with grants := s.hsc.grants + 1 } } :=
    Plain.trail {}
  exact (p.trans (.one (.allocated i l _ h k))).trans issueHeat_trail

/-- A locker that `nextUnserved` finds has no channel attached. -/
theorem nextUnserved_none {s : State} {l : Locker} (h : s.nextUnserved = some l) : s.attachedChan l = none := by
  have := List.find?_some h
  simpa using this

theorem lateGrantLoop_trail {n s} : Trail s (lateGrantLoop n s) := by
  induction n generalizing s with
  | zero => exact .refl
  | succ n ih =>
    unfold lateGrantLoop
    split
    · split
      · next i l hi hl => exact (allocateChan_trail (freeChan_free hi) (nextUnserved_none hl)).trans ih
      · exact .refl
    · exact .refl

theorem lateGrant_trail {s} : Trail s (lateGrant s) := .ite lateGrantLoop_trail .refl

theorem hscSample_trail {l t s} : Trail s (hscSample l t s) := by
  have n {s : State} (h : s.queued l = false) : l ∉ s.ranking := by simpa [State.queued] using h
  have a {s} : Trail s (sampleHq l t s) := by
    unfold sampleHq
    refine .ite ?_ dropHq_trail
    split
    · next h => exact (Trail.one (.postedHq l (n (by simpa using (Bool.and_eq_true_iff.mp h).2)))).trans lateGrant_trail
    · exact .refl
  have b {s} : Trail s (sampleWq l t s) := by
    unfold sampleWq
    refine .ite ?_ dropWq_trail
    split
    · next h => exact (Trail.one (.postedWq l (n (by simpa using (Bool.and_eq_true_iff.mp h).2)))).trans lateGrant_trail
    · exact .refl
  exact a.trans b

theorem walkQueue_trail {ls s g} : Trail s (walkQueue ls s g).s := by
  induction ls generalizing s g with
  | nil => exact .refl
  | cons l ls ih =>
    unfold walkQueue
    split
    · split
      · split <;> exact ih
      · next hl =>
        split
        · next i hi => exact (allocateChan_trail (freeChan_free hi) hl).trans ih
        · exact ih
    · exact .refl

/-- The entries that stay after a walk are entries walked, in their order. -/
theorem walkQueue_stay {ls s g} : (walkQueue ls s g).stay.Sublist ls := by
  induction ls generalizing s g with
  | nil => exact .refl _
  | cons l ls ih =>
    unfold walkQueue
    split
    · split
      · split
        · exact ih.cons _
        · exact ih.cons_cons _
      · split
        · exact ih.cons _
        · exact ih.cons_cons _
    · exact .refl _

theorem walkRanking_trail {s} : Trail s (walkRanking s).1 := by
  unfold walkRanking
  dsimp only
  refine (walkQueue_trail.trans walkQueue_trail).trans (.one (.dropped ?_ ?_))
  · rw [(walkQueue_within.entries (by decide)).1, (walkQueue_within.entries (by decide)).1]
    exact walkQueue_stay
  · have e : ∀ {ls s g}, (walkQueue ls s g).s.hsc.wq = s.hsc.wq := (walkQueue_within.entries (by decide)).2
    refine List.Sublist.trans walkQueue_stay ?_
    rw [e, e, e]

theorem releaseUngranted_trail {g s i} : Trail s (releaseUngranted g s i) := by
  unfold releaseUngranted
  split
  · exact .ite .refl turnOff_trail
  · exact .refl

theorem judgeOverrun_trail {n s} : Trail s (judgeOverrun n s) := by
  have k {b} : Trail s { s with hsc := { s.hsc with overrun := b } } :=
    Plain.trail {}
  unfold judgeOverrun
  exact .ite (.ite (k.trans handRecord_trail) .refl) (.ite (k.trans handRecord_trail) .refl)

theorem hscFrameStart_trail {s} : Trail s (hscFrameStart s) := by
  unfold hscFrameStart
  dsimp only
  exact (walkRanking_trail.trans (Trail.fold (fun _ _ => releaseUngranted_trail) _ _)).trans judgeOverrun_trail

theorem decreaseLoop_trail {n s} : Trail s (decreaseLoop n s) := by
  induction n generalizing s with
  | zero => exact .refl
  | succ n ih =>
    unfold decreaseLoop
    split
    · split
      · exact turnOff_trail.trans ih
      · exact .refl
    · exact .refl

theorem setCapacity_trail {c s} : Trail s (setCapacity c s) := by
  have k : Trail s { s with hsc := { s.hsc with capacity := c } } :=
    Plain.trail {}
  unfold setCapacity
  exact .ite (k.trans decreaseLoop_trail) (.ite (k.trans lateGrant_trail) .refl)

/-! ### The locker engine -/

theorem withdrawHatch_trail {l i s h} : Trail s (withdrawHatch l i s h) := by
  unfold withdrawHatch reportWithdrawn
  dsimp only
  split
  · exact putLatch_trail.trans handRecord_trail
  · exact (putLatch_trail.trans issueLatch_trail).trans handRecord_trail
  · exact (putLatch_trail.trans issueLatch_trail).trans handRecord_trail
  · exact .ite handRecord_trail .refl
  all_goals exact .refl

theorem withdraw_trail {l i s} : Trail s (withdraw l i s) := withdrawHatch_trail.trans withdrawHatch_trail

theorem enterHalting_trail {l c s} : Trail s (enterHalting l c s) := putCtx_trail.trans haltLocker_trail

theorem enterVacant_trail {l s} : Trail s (enterVacant l s) :=
  ((enterHalting_trail.trans zeroErrors_trail).trans putSampler_trail).trans leaveSweep_trail

theorem quarantine_trail {l r s} : Trail s (quarantine l r s) :=
  (enterHalting_trail.trans handRecord_trail).trans withdraw_trail

theorem quarantineCause_trail {l r s} : Trail s (quarantineCause l r s) :=
  .ite enterHalting_trail (.ite .refl (.ite .refl quarantine_trail))

theorem reportTimeout_trail {l h i s} : Trail s (reportTimeout l h i s) := handRecord_trail

theorem relatchOutcome_trail {l h o s} : Trail s (relatchOutcome l h o s) := by
  unfold relatchOutcome
  split
  · unfold relatchLoading
    dsimp only
    split
    · exact putCtx_trail.trans handRecord_trail
    · exact putCtx_trail.trans handRecord_trail
    · exact putCtx_trail.trans reportTimeout_trail
  · unfold relatchCollecting
    dsimp only
    split
    · exact enterVacant_trail.trans handRecord_trail
    · split
      · exact putCtx_trail.trans handRecord_trail
      · exact enterHalting_trail.trans handRecord_trail
    · exact putCtx_trail.trans reportTimeout_trail
  · unfold relatchClearing
    dsimp only
    split
    · exact enterVacant_trail.trans handRecord_trail
    · exact quarantine_trail
    · unfold returnFromClearing
      dsimp only
      exact (Trail.ite putCtx_trail enterHalting_trail).trans reportTimeout_trail
  all_goals exact .refl

theorem requestRelease_trail {l h s} : Trail s (requestRelease l h s) :=
  .ite (.ite (putLatch_trail.trans haltLocker_trail) (putLatch_trail.trans issueLatch_trail)) relatchOutcome_trail

theorem takeExpiry_trail {l e s} : Trail s (takeExpiry l e s) := by
  unfold takeExpiry
  dsimp only
  split
  · exact enterHalting_trail.trans handRecord_trail
  · exact .ite (putCtx_trail.trans handRecord_trail) ((enterHalting_trail.trans handRecord_trail).trans withdraw_trail)
  all_goals exact .refl

theorem judgeExpiry_trail {l s} : Trail s (judgeExpiry l s) := by
  unfold judgeExpiry
  split
  · split
    · exact takeExpiry_trail
    · exact .refl
  · exact .refl

theorem lateOpening_trail {l h s} : Trail s (lateOpening l h s) := by
  unfold lateOpening
  dsimp only
  split
  · exact putCtx_trail
  all_goals exact .refl

theorem lkeSample_trail {l t s} : Trail s (lkeSample l t s) := .ite (putCtx_trail.trans handRecord_trail) .refl

/-! ### The latch controller -/

theorem freeNotice_trail {l s h} : Trail s (freeNotice l s h) := .ite (putLatch_trail.trans issueLatch_trail) .refl

theorem ltcFree_trail {l s} : Trail s (ltcFree l s) := freeNotice_trail.trans freeNotice_trail

theorem ackHatch_trail {l s h} : Trail s (ackHatch l s h) := by
  unfold ackHatch
  dsimp only
  split
  · exact putLatch_trail
  · split
    · exact putLatch_trail.trans relatchOutcome_trail
    · exact putLatch_trail.trans relatchOutcome_trail
    · exact putLatch_trail
    · exact putLatch_trail
  all_goals exact .refl

theorem ltcAck_trail {l s} : Trail s (ltcAck l s) := ackHatch_trail.trans ackHatch_trail

theorem failHatch_trail {l s h} : Trail s (failHatch l s h) := by
  unfold failHatch
  dsimp only
  split
  all_goals first | exact putLatch_trail | exact .refl

theorem ltcFault_trail {l s} : Trail s (ltcFault l s) := (failHatch_trail.trans failHatch_trail).trans quarantineCause_trail

theorem forcedHatch_trail {l h w s} : Trail s (forcedHatch l h w s) := handRecord_trail.trans quarantineCause_trail

theorem readHatch_trail {l h c t s} : Trail s (readHatch l h c t s) := by
  unfold readHatch
  split
  · unfold seenClosed
    dsimp only
    split
    · exact putLatch_trail
    · exact putLatch_trail.trans issueLatch_trail
    all_goals exact .refl
  · unfold seenOpen
    dsimp only
    split
    · exact .ite .refl (putLatch_trail.trans forcedHatch_trail)
    · exact putLatch_trail.trans forcedHatch_trail
    · exact putLatch_trail.trans forcedHatch_trail
    · exact putLatch_trail
    · split
      · exact putLatch_trail
      · exact putLatch_trail.trans lateOpening_trail
      · exact .refl
      · exact .refl
    all_goals exact .refl

theorem ltcReading_trail {l x s} : Trail s (ltcReading l x s) := readHatch_trail.trans readHatch_trail

theorem expireOpenWait_trail {l h s} : Trail s (expireOpenWait l h s) := putLatch_trail.trans issueLatch_trail

theorem expireHatchHeld_trail {l h s} : Trail s (expireHatchHeld l h s) := putLatch_trail.trans handRecord_trail

theorem secondHatch_trail {l s h} : Trail s (secondHatch l s h) := by
  unfold secondHatch
  dsimp only
  split
  · exact .ite expireOpenWait_trail putLatch_trail
  · exact .ite .refl (.ite expireHatchHeld_trail putLatch_trail)
  all_goals exact .refl

theorem ltcSeconds_trail {s} : Trail s (ltcSeconds s) :=
  Trail.fold (f := secondLatches) (fun _ _ => secondHatch_trail.trans secondHatch_trail) _ _

/-! ### The handshake -/

theorem attachedChan_attached {s : State} {l : Locker} {i : Chan} (h : s.attachedChan l = some i) :
    (s.chan i).st.attached = some l := by
  have := List.find?_some h
  simpa using this

theorem hscAck_trail {l s} : Trail s (hscAck l s) := by
  unfold hscAck
  split
  · next i h =>
    have e := attachedChan_attached h
    split
    · next k hc =>
      refine .one (.chan i _ (by simp [hc]) (by simp) (.inr ?_))
      exact e.symm ▸ rfl
    · next k hc =>
      exact ((Trail.one (.chan i _ (by simp [hc]) (by simp) (.inl rfl))).trans ltcFree_trail).trans lateGrant_trail
    all_goals exact .refl
  · exact .refl

theorem hscOnFailed_trail {l s} : Trail s (hscOnFailed l s) := by
  unfold hscOnFailed
  split
  · exact turnOff_trail.trans quarantineCause_trail
  · exact .refl

theorem hscOffFailed_trail {l s} : Trail s (hscOffFailed l s) := by
  unfold hscOffFailed
  split
  · next i h =>
    have e := attachedChan_attached h
    have n : (s.chan i).st ≠ .lost := by intro k; simp [k, ChanState.attached] at e
    exact ((Trail.one (.lost i _ n)).trans handRecord_trail).trans quarantineCause_trail
  · exact .refl

theorem pathAcked_trail {l k s} : Trail s (pathAcked l k s) := by
  unfold pathAcked
  split
  · exact hscAck_trail
  · exact ltcAck_trail

theorem pathFailed_trail {l k s} : Trail s (pathFailed l k s) := by
  unfold pathFailed
  split
  · exact .ite quarantineCause_trail (.ite hscOnFailed_trail hscOffFailed_trail)
  · exact ltcFault_trail

theorem commandFailed_trail {l k r s} : Trail s (commandFailed l k r s) := putPaths_trail.trans pathFailed_trail

theorem commandReissued_trail {l k r s} : Trail s (commandReissued l k r s) := commandReissued_within.trail rfl

theorem pathError_trail {l k r s} : Trail s (pathError l k r s) :=
  .ite (.ite commandFailed_trail commandReissued_trail) (.ite commandFailed_trail commandReissued_trail)

theorem judgePath_trail {l w s k} : Trail s (judgePath l w s k) := by
  have noAns {r s} : Trail s (pathNoAnswer l k r s) := .ite pathError_trail putPaths_trail
  unfold judgePath
  dsimp only
  split
  · split
    · exact noAns
    · split
      · split
        · exact putPaths_trail.trans pathAcked_trail
        · exact .ite pathError_trail putPaths_trail
        · exact commandFailed_trail
        · exact noAns
      · exact noAns
  · exact .refl

theorem judgeProbe_trail {l w s} : Trail s (judgeProbe l w s) := judgePath_trail.trans judgePath_trail

/-! ### The sampler and the seconds -/

theorem pollResult_trail {k l w s} : Trail s (pollResult k l w s) := by
  have imp {s} : Trail s (implausibleResult k l s) := by
    unfold implausibleResult
    split
    · exact .refl
    · exact .ite (putSampler_trail.trans quarantineCause_trail) putSampler_trail
  have stale {q s} : Trail s (staleStep k l q s) := by
    unfold staleStep
    split
    · exact .refl
    · exact .ite (.ite (putSampler_trail.trans quarantineCause_trail) putSampler_trail) putSampler_trail
  have valid {t s} : Trail s (validSteps l t s) := by
    have o {s} : Trail s (overtempStep l t s) := .ite quarantineCause_trail .refl
    have u {s} : Trail s (upperStep l t s) := .ite haltLocker_trail .refl
    exact ((o.trans u).trans hscSample_trail).trans lkeSample_trail
  unfold pollResult
  split
  · exact .refl
  · split
    · exact imp
    · dsimp only
      split
      · exact ((putSampler_trail.trans stale).trans valid).trans ltcReading_trail
      · exact (imp.trans stale).trans ltcReading_trail

theorem countLocker_trail {l s} : Trail s (countLocker l s) := .ite putCtx_trail .refl

theorem endLockout_trail {l s} : Trail s (endLockout l s) := putCtx_trail.trans handRecord_trail

theorem countLockout_trail {l s} : Trail s (countLockout l s) := .ite (.ite endLockout_trail putCtx_trail) .refl

theorem lkeSeconds_trail {s} : Trail s (lkeSeconds s) :=
  Trail.fold (f := secondLocker) (fun _ _ => (countLocker_trail.trans judgeExpiry_trail).trans countLockout_trail) _ _

/-! ### Commands and the bus passage -/

theorem applyOutcome_trail {l w o s} : Trail s (applyOutcome l w o s) := by
  unfold applyOutcome
  split
  · exact putCtx_trail
  · exact enterVacant_trail
  · exact enterHalting_trail.trans requestRelease_trail
  · exact putCtx_trail.trans requestRelease_trail
  · exact enterHalting_trail.trans requestRelease_trail
  · exact .ite (putCtx_trail.trans handRecord_trail) putCtx_trail
  · exact .refl

theorem commonEffects_trail {l s} : Trail s (commonEffects l s) :=
  (Trail.one (.presented l { s.ctx l with presCode := 0 } rfl)).trans putMark_trail

theorem captureCode_trail {l w s} : Trail s (captureCode l w s) :=
  (Trail.one (.presented l { s.ctx l with presCode := w } rfl)).trans putMark_trail

theorem captureOrder_trail {l w s} : Trail s (captureOrder l w s) :=
  .one (.presented l { s.ctx l with presOrder := w.extractLsb' 0 24 } rfl)

theorem evaluation_trail {l w s} : Trail s (evaluation l w s) := applyOutcome_trail.trans commonEffects_trail

theorem forward_trail {t e s} : Trail s (forward t e s) := forward_within.trail rfl

theorem refuse_trail {c a s} : Trail s (refuse c a s) := by
  unfold refuse
  exact .ite (cpi_within.trail rfl) ((cpi_within.trail rfl).trans handRecord_trail)

theorem takeWrite_trail {t s} : Trail s (takeWrite t s) := by
  unfold takeWrite
  dsimp only
  split
  · exact evaluation_trail.trans forward_trail
  · exact captureCode_trail.trans forward_trail
  · exact captureOrder_trail.trans forward_trail
  all_goals exact forward_trail

theorem decideTxn_trail {t s} : Trail s (decideTxn t s) := by
  unfold decideTxn
  split
  · unfold decideWrite
    split
    · exact refuse_trail
    · exact .ite takeWrite_trail forward_trail
  · unfold decideRead
    dsimp only
    refine .ite (.ite forward_trail ?_) forward_trail
    have k {c} : Within [.cpi] s { s with cpi := c } := by constructor <;> simp
    exact (k.trail rfl).trans (promote_within.trail rfl)

theorem arrive_trail {t s} : Trail s (arrive t s) := by
  have k : Within [.cpi] s { s with answer := none } := by constructor <;> simp
  have q {c} {s : State} : Within [.cpi] s { s with cpi := c } := by constructor <;> simp
  unfold arrive
  exact .ite ((k.trail rfl).trans (q.trail rfl)) ((k.trail rfl).trans decideTxn_trail)

theorem releaseStart_trail {s} : Trail s (releaseStart s) := by
  unfold releaseStart; split
  · exact decideTxn_trail
  all_goals exact .refl

/-! ### After an event -/

theorem rpwSettle_trail {s} : Trail s (rpwSettle s) := by
  have k {o} : Trail s { s with rpw := { s.rpw with op := o } } :=
    Plain.trail {}
  have d : Trail s { s with rpw := s.rpw.dropAll } :=
    .one (.fewer (q := [])
      { quarantined := by simp [dropAll_ring], lostChannels := by simp [dropAll_ring], queue := by simp [dropAll_ring] }
      (by simp))
  have d' {o} : Trail s { s with rpw := { s.rpw.dropAll with op := o } } :=
    .one (.fewer (q := [])
      { quarantined := by simp [dropAll_ring], lostChannels := by simp [dropAll_ring], queue := by simp [dropAll_ring] }
      (by simp))
  unfold rpwSettle
  refine .ite ?_ .refl
  unfold rpwStart
  refine .ite k (.ite .refl (.ite ?_ k))
  dsimp only
  split
  · exact d'
  · exact d

theorem settle_trail {s} : Trail s (settle s) := by
  unfold settle
  have m {s} : Trail s (mrwSettle s) := mrwSettle_within.trail rfl
  have a {s} : Trail s (ahuSettle s) := ahuSettle_within.trail rfl
  have p {s} : Trail s (smpSettle s) := smpSettle_within.trail rfl
  have h {s} : Trail s (releaseHolds s) := releaseHolds_within.trail rfl
  split
  all_goals first
    | exact .refl
    | exact (m.trans a).trans rpwSettle_trail
    | exact (((h.trans m).trans a).trans p).trans rpwSettle_trail

/-- A step that answers `done t` has left a trail to the state after it. -/
theorem done_trail {s t u : State} (h : Trail s t) (e : done t = .next u) : Trail s u := by
  cases e
  exact h.trans settle_trail

/-! ### The M-port -/

theorem freePort_trail {m s} : Trail s (freePort m s) :=
  .one (.memory (m := s.mem.complete m.txn) (Memory.complete_wf _) {})

/-- What `readBack` leaves, whatever is read. -/
theorem readBack_trail {p s} : Trail s { s with mpi := { s.mpi with port := none }, mem := s.mem.port2 p } :=
  .one (.memory (m := s.mem.port2 p) (Memory.port2_wf _) {})

theorem plain_grant {s : State} {m : Mpi} : Trail s { s with mpi := m } :=
  Plain.trail {}

theorem grantedAt_trail {r s} : Trail s (grantedAt r s) := by
  unfold grantedAt
  split
  · unfold fwdGranted
    split
    · exact Plain.trail {}
    all_goals exact .refl
  · unfold mrwGranted
    split
    · unfold mirrorGranted promotionStep
      dsimp only
      split
      · split
        · exact Plain.trail {}
        · exact Plain.trail {}
      · exact Plain.trail {}
    · exact .refl
  · unfold ahuGranted
    split
    · exact Plain.trail {}
    · exact .refl
  · unfold smpGranted
    split
    · exact Plain.trail {}
    · exact Plain.trail {}
    · exact .refl
  · unfold rpwGranted
    split
    · split
      all_goals exact Plain.trail {}
    · exact .refl

theorem grant_trail {r t s} : Trail s (grant r t s) := plain_grant.trans grantedAt_trail

/-! ### The landings -/

theorem rpw_trail {r : Rpw} {s} (h : r.quarantined = s.rpw.quarantined := by rfl)
    (k : r.lostChannels = s.rpw.lostChannels := by rfl) (q : r.queue.length ≤ s.rpw.queue.length := by exact Nat.le_refl _) :
    Trail s { s with rpw := r } :=
  .one (.fewer (q := r.queue) { quarantined := h, lostChannels := k } q)

theorem cpi_trail {c a s} : Trail s { s with cpi := c, answer := a } :=
  Plain.trail {}

theorem takeLanded_trail {e w s} : Trail s (takeLanded e w s) := by
  unfold takeLanded
  split
  all_goals first | exact .refl | exact rpw_trail

theorem fwdLanded_trail {m e s} : Trail s (fwdLanded m e s) := (freePort_trail.trans cpi_trail).trans takeLanded_trail

theorem fwdCompleted_trail {p f m s} : Trail s (fwdCompleted p f m s) := by
  unfold fwdCompleted
  dsimp only
  split
  · exact readBack_trail.trans cpi_trail
  · exact .ite (readBack_trail.trans cpi_trail) ((readBack_trail.trans cpi_trail).trans handRecord_trail)

theorem recordLanded_trail {s} : Trail s (recordLanded s) := by
  unfold recordLanded
  split
  · next h => exact rpw_trail (q := by simp [h])
  · exact .refl

theorem statusLanded_trail {s} : Trail s (statusLanded s) := .ite rpw_trail rpw_trail

theorem ringWordRead_trail {w s} : Trail s (ringWordRead w s) := by
  have k {s} : Trail s (judgeIndices s) := by
    unfold judgeIndices
    split <;> exact rpw_trail
  unfold ringWordRead
  split
  · exact rpw_trail
  · exact rpw_trail
  · exact Trail.trans rpw_trail k
  all_goals exact .refl

theorem mirrorLanded_trail {l c q s} : Trail s (mirrorLanded l c q s) := by
  have k {k} : Trail s (pathLanded l k q s) := pathLanded_within.trail rfl
  unfold mirrorLanded
  split
  all_goals first | exact k | exact .refl

/-! ### Start-up, supply and time -/

theorem setSeqs_trail {l a b s} : Trail s (setSeqs l a b s) := putPaths_trail

theorem relatchRestore_trail {l s} : Trail s (relatchRestore l s) := putLatch_trail.trans putLatch_trail

theorem restoreMarks_trail {l s} : Trail s (restoreMarks l s) := (putMark_trail.trans putMark_trail).trans putMark_trail

theorem restoreLocker_trail {l a b c s} : Trail s (restoreLocker l a b c s) := by
  unfold restoreLocker
  dsimp only
  refine Trail.trans ?_ restoreMarks_trail
  refine Trail.trans ?_ relatchRestore_trail
  refine Trail.trans ?_ issueLatch_trail
  refine Trail.trans ?_ issueHeat_trail
  exact Trail.trans putCtx_trail setSeqs_trail

theorem restoreWordRead_trail {l w s} : Trail s (restoreWordRead l w s) := by
  unfold restoreWordRead
  split
  · exact Plain.trail {}
  · exact Plain.trail {}
  · exact (Plain.trail (s := s) {}).trans restoreLocker_trail

theorem enterOperating_trail {s} : Trail s (enterOperating s) := by
  unfold enterOperating
  refine Trail.trans ?_ handRecord_trail
  exact Plain.trail {}

theorem endValidation_trail {s} : Trail s (endValidation s) :=
  (Trail.ite (Plain.trail {}) (Plain.trail {})).trans releaseStart_trail

theorem crossFeed_trail {f d s} : Trail s (crossFeed f d s) := .ite (Plain.trail {}) (Plain.trail {})

theorem supplyTo_trail {e d s} : Trail s (supplyTo e d s) :=
  ((Plain.trail (s := s) {}).trans setCapacity_trail).trans handRecord_trail

theorem smpFrameStart_trail {s} : Trail s (smpFrameStart s) := .ite (Plain.trail {}) (Plain.trail {})

/-! ### A command -/

/-- A transaction presented leaves a trail. -/
theorem present_trail {x s u} (e : present x s = .next u) : Trail s u := by
  unfold present at e
  split at e
  · cases e; exact .refl
  · split at e
    · exact done_trail arrive_trail e
    · cases e

theorem execCPortRead_trail {a n k s u} (e : execCPortRead a n k s = .next u) : Trail s u := by
  unfold execCPortRead at e
  split at e
  · exact present_trail e
  · cases e

theorem execUnknownKind_trail {a k g c h s u} (e : execUnknownKind a k g c h s = .next u) : Trail s u := by
  unfold execUnknownKind at e
  split at e
  · exact present_trail e
  · cases e

theorem execControllerWrite_trail {a n d s u} (e : execControllerWrite a n d s = .next u) : Trail s u := by
  unfold execControllerWrite at e
  split at e
  · exact present_trail e
  · cases e

theorem execMportGrant_trail {s u} (e : execMportGrant s = .next u) : Trail s u := by
  unfold execMportGrant at e
  split at e
  · cases e
  · split at e
    · exact done_trail grant_trail e
    · cases e

theorem execFwdWriteLand_trail {s u} (e : execFwdWriteLand s = .next u) : Trail s u := by
  unfold execFwdWriteLand at e
  split at e
  · split at e
    · exact done_trail fwdLanded_trail e
    · cases e
  · cases e

theorem execFwdReadComplete_trail {p f s u} (e : execFwdReadComplete p f s = .next u) : Trail s u := by
  unfold execFwdReadComplete at e
  split at e
  · split at e
    · exact done_trail fwdCompleted_trail e
    · cases e
  · cases e

theorem execMrwWriteLand_trail {s u} (e : execMrwWriteLand s = .next u) : Trail s u := by
  unfold execMrwWriteLand at e
  split at e
  · exact done_trail (freePort_trail.trans mirrorLanded_trail) e
  · cases e

theorem execProbeComplete_trail {p f s u} (e : execProbeComplete p f s = .next u) : Trail s u := by
  unfold execProbeComplete at e
  split at e
  · exact done_trail (readBack_trail.trans judgeProbe_trail) e
  · cases e

theorem execFramePollComplete_trail {p f s u} (e : execFramePollComplete p f s = .next u) : Trail s u := by
  unfold execFramePollComplete at e
  split at e
  · exact done_trail ((readBack_trail.trans leaveSweep_trail).trans pollResult_trail) e
  · cases e

theorem execFastPollComplete_trail {p f s u} (e : execFastPollComplete p f s = .next u) : Trail s u := by
  unfold execFastPollComplete at e
  split at e
  · exact done_trail (readBack_trail.trans pollResult_trail) e
  · cases e

theorem execRingRecordLand_trail {s u} (e : execRingRecordLand s = .next u) : Trail s u := by
  unfold execRingRecordLand at e
  split at e
  · exact done_trail (freePort_trail.trans recordLanded_trail) e
  · cases e

theorem execWriteIndexLand_trail {s u} (e : execWriteIndexLand s = .next u) : Trail s u := by
  have k {b s} : Trail s (indexLanded b s) := rpw_trail
  have z {s} : Trail s (writeCellZeroed s) := rpw_trail
  unfold execWriteIndexLand at e
  split at e
  · dsimp only at e
    split at e
    · exact done_trail (freePort_trail.trans k) e
    all_goals exact done_trail (freePort_trail.trans z) e
  · cases e

theorem execStatusLand_trail {s u} (e : execStatusLand s = .next u) : Trail s u := by
  unfold execStatusLand at e
  split at e
  · exact done_trail (freePort_trail.trans statusLanded_trail) e
  · cases e

theorem execRestoreReadComplete_trail {p f s u} (e : execRestoreReadComplete p f s = .next u) : Trail s u := by
  unfold execRestoreReadComplete at e
  split at e
  · exact done_trail (readBack_trail.trans restoreWordRead_trail) e
  · cases e

theorem execRingRestoreRead_trail {p f s u} (e : execRingRestoreRead p f s = .next u) : Trail s u := by
  unfold execRingRestoreRead at e
  split at e
  · exact done_trail (readBack_trail.trans ringWordRead_trail) e
  · cases e

theorem execReadCellZeroLand_trail {s u} (e : execReadCellZeroLand s = .next u) : Trail s u := by
  have z {s} : Trail s (readCellZeroed s) := rpw_trail
  unfold execReadCellZeroLand at e
  split at e
  · exact done_trail (freePort_trail.trans z) e
  · cases e

theorem execProbeInterval_trail {s u} (e : execProbeInterval s = .next u) : Trail s u := by
  have a {m s} : Trail s (ahuInterval { s with tmb := m }) := by unfold ahuInterval; exact Plain.trail {}
  have p {s} : Trail s (smpInterval s) := by unfold smpInterval; exact Plain.trail {}
  unfold execProbeInterval at e
  split at e
  · cases e
  · exact done_trail (a.trans (.ite p .refl)) e

theorem tmb_trail {m s} : Trail s { s with tmb := m } := Plain.trail {}

theorem execFrameStart_trail {s u} (e : execFrameStart s = .next u) : Trail s u := by
  unfold execFrameStart at e
  split at e
  · cases e
  · exact done_trail ((tmb_trail.trans hscFrameStart_trail).trans smpFrameStart_trail) e

theorem execSecondsEvent_trail {b s u} (e : execSecondsEvent b s = .next u) : Trail s u := by
  unfold execSecondsEvent at e
  split at e
  · cases e
  · exact done_trail
      (tmb_trail.trans (.ite (ltcSeconds_trail.trans lkeSeconds_trail) (lkeSeconds_trail.trans ltcSeconds_trail))) e

theorem execExpiry_trail {l s u} (e : execExpiry l s = .next u) : Trail s u := by
  unfold execExpiry at e
  dsimp only at e
  split at e
  · exact done_trail (countLocker_trail.trans judgeExpiry_trail) e
  · cases e; exact .refl

theorem execLockoutEnd_trail {l s u} (e : execLockoutEnd l s = .next u) : Trail s u := by
  unfold execLockoutEnd at e
  split at e
  · exact done_trail endLockout_trail e
  · cases e; exact .refl

theorem execOpenWaitExpiry_trail {l h s u} (e : execOpenWaitExpiry l h s = .next u) : Trail s u := by
  unfold execOpenWaitExpiry at e
  split at e
  · exact done_trail expireOpenWait_trail e
  · cases e; exact .refl

theorem execHatchHeld_trail {l h s u} (e : execHatchHeld l h s = .next u) : Trail s u := by
  unfold execHatchHeld at e
  split at e
  · exact done_trail expireHatchHeld_trail e
  · cases e; exact .refl

theorem execProbeTimeout_trail {l k s u} (e : execProbeTimeout l k s = .next u) : Trail s u := by
  unfold execProbeTimeout at e
  dsimp only at e
  split at e
  · exact done_trail pathError_trail e
  · cases e; exact .refl

theorem execShedTrip_trail {s u} (e : execShedTrip s = .next u) : Trail s u := by
  unfold execShedTrip at e
  split at e
  · exact done_trail supplyTo_trail e
  · cases e; exact .refl

theorem execCutTrip_trail {s u} (e : execCutTrip s = .next u) : Trail s u := by
  unfold execCutTrip at e
  split at e
  · split at e
    · exact done_trail supplyTo_trail e
    · cases e; exact .refl
  · exact done_trail supplyTo_trail e
  · cases e; exact .refl

theorem execShedRelease_trail {s u} (e : execShedRelease s = .next u) : Trail s u := by
  unfold execShedRelease at e
  split at e
  · exact done_trail supplyTo_trail e
  · cases e; exact .refl

theorem execCutRelease_trail {s u} (e : execCutRelease s = .next u) : Trail s u := by
  unfold execCutRelease at e
  split at e
  · exact done_trail supplyTo_trail e
  · cases e; exact .refl

theorem execResetRelease_trail {s u} (e : execResetRelease s = .next u) : Trail s u := by
  unfold execResetRelease at e
  split at e
  · cases e; exact Plain.trail {}
  · cases e

theorem execValidationDone_trail {s u} (e : execValidationDone s = .next u) : Trail s u := by
  unfold execValidationDone at e
  split at e
  · exact done_trail endValidation_trail e
  · cases e

theorem execRestoreEnd_trail {s u} (e : execRestoreEnd s = .next u) : Trail s u := by
  unfold execRestoreEnd at e
  split at e
  · exact done_trail enterOperating_trail e
  · cases e

theorem maintAnswer_trail {a s} : Trail s (maintAnswer a s) := Plain.trail {}

theorem maintReadFrame_trail {i s} : Trail s (maintReadFrame i s) := by
  unfold maintReadFrame
  split <;> exact maintAnswer_trail

theorem maintWriteFrame_trail {p i d s} : Trail s (maintWriteFrame p i d s) := by
  unfold maintWriteFrame
  split
  · exact .ite (Plain.trail {}) maintAnswer_trail
  · exact maintAnswer_trail

theorem maintEraseFrame_trail {p s} : Trail s (maintEraseFrame p s) := .ite (Plain.trail {}) maintAnswer_trail

/-- The three rows that assert reset. -/
def assertsReset : Instr → Bool
  | .powerOnReset | .logicBrownout | .resetPin => true
  | _ => false

/-- Every command but the three that assert reset changes the state by a trail of edits. -/
theorem exec_trail (c : Instr) (s t : State) (n : assertsReset c = false) (e : exec c s = .next t) : Trail s t := by
  cases c <;> simp only [exec] at e
  case assign | cancel | load | collect | clear | codeWrite | orderWrite | readIndexWrite | statusWrite | attentionWrite =>
    exact present_trail e
  case cPortRead => exact execCPortRead_trail e
  case unknownKind => exact execUnknownKind_trail e
  case controllerWrite => exact execControllerWrite_trail e
  case mportGrant => exact execMportGrant_trail e
  case fwdWriteLand => exact execFwdWriteLand_trail e
  case fwdReadComplete => exact execFwdReadComplete_trail e
  case mrwWriteLand => exact execMrwWriteLand_trail e
  case probeComplete => exact execProbeComplete_trail e
  case probeTimeout => exact execProbeTimeout_trail e
  case probeInterval => exact execProbeInterval_trail e
  case frameStart => exact execFrameStart_trail e
  case secondsEvent => exact execSecondsEvent_trail e
  case expiry => exact execExpiry_trail e
  case lockoutEnd => exact execLockoutEnd_trail e
  case openWaitExpiry => exact execOpenWaitExpiry_trail e
  case hatchHeld => exact execHatchHeld_trail e
  case framePollComplete => exact execFramePollComplete_trail e
  case fastPollComplete => exact execFastPollComplete_trail e
  case feedCrossing => exact done_trail crossFeed_trail e
  case shedTrip => exact execShedTrip_trail e
  case cutTrip => exact execCutTrip_trail e
  case shedRelease => exact execShedRelease_trail e
  case cutRelease => exact execCutRelease_trail e
  case ringRecordLand => exact execRingRecordLand_trail e
  case writeIndexLand => exact execWriteIndexLand_trail e
  case statusLand => exact execStatusLand_trail e
  case powerOnReset | logicBrownout | resetPin => simp [assertsReset] at n
  case resetRelease => exact execResetRelease_trail e
  case validationDone => exact execValidationDone_trail e
  case restoreReadComplete => exact execRestoreReadComplete_trail e
  case ringRestoreRead => exact execRingRestoreRead_trail e
  case restoreEnd => exact execRestoreEnd_trail e
  case maintRead =>
    cases e
    exact .ite maintReadFrame_trail .refl
  case maintWrite =>
    cases e
    exact .ite maintWriteFrame_trail .refl
  case maintErase =>
    cases e
    exact .ite maintEraseFrame_trail .refl
  case maintInvalid =>
    unfold execMaintInvalid at e
    split at e
    · cases e; exact .ite maintAnswer_trail .refl
    · cases e
  case readCellZeroLand => exact execReadCellZeroLand_trail e

end Sys2Proof.Machine
end

