-- ==== Sys2Proof/Laws/Keeps.lean ====
section
/-! SUPPORT. What one edit does to the conditions of Safety.lean. With `exec_trail` and `Trail.keeps` these reach every
command but the three that assert reset. -/

-- One theorem after the other: a thread for each would ask for more stack space than a build may have.
set_option Elab.async false

namespace Sys2Proof.Machine

/-- Channels are distinct when of any two at least one is unattached or both name different lockers. -/
theorem channelsDistinct_of_pairs {s : State}
    (h : ∀ i j : Chan, i = j ∨ (s.chan i).st.attached = none ∨ (s.chan i).st.attached ≠ (s.chan j).st.attached) :
    ChannelsDistinct s := by
  intro i j l hi hj
  rcases h i j with e | e | e
  · exact e
  · simp [hi] at e
  · exact absurd (hi.trans hj.symm) e

/-- A count over all of a finite type in which one member's answer changes. -/
theorem countP_change {n : Nat} (i : Fin n) (p q : Fin n → Bool) (h : ∀ j, j ≠ i → q j = p j) :
    (List.finRange n).countP q + (p i).toNat = (List.finRange n).countP p + (q i).toNat := by
  have m : (List.finRange n).Perm (i :: (List.finRange n).erase i) := List.perm_cons_erase (List.mem_finRange i)
  have e : ((List.finRange n).erase i).countP q = ((List.finRange n).erase i).countP p :=
    List.countP_congr fun j hj => by rw [h j ((List.nodup_finRange n).mem_erase_iff.mp hj).1]
  rw [m.countP_eq, m.countP_eq, List.countP_cons, List.countP_cons, e]
  cases p i <;> cases q i <;> simp

theorem markIf_hsc (q : Bool) (l : Locker) (c : MarkCell) (s : State) : (markIf q l c s).hsc = s.hsc := by
  unfold markIf; split <;> rfl

theorem markIf_rpw (q : Bool) (l : Locker) (c : MarkCell) (s : State) : (markIf q l c s).rpw = s.rpw := by
  unfold markIf; split <;> rfl

theorem countQuarantine_hsc (a b : Lifecycle) (s : State) : (countQuarantine a b s).hsc = s.hsc := by
  unfold countQuarantine; split <;> [rfl; skip]; split <;> rfl

theorem countQuarantine_rpw {a b : Lifecycle} {s t : State} (h : t.rpw = s.rpw) :
    (countQuarantine a b t).rpw = (countQuarantine a b s).rpw := by
  unfold countQuarantine; split <;> [simp only [h]; skip]; split <;> simp only [h]

theorem hscNotice_rpw (l : Locker) (s : State) : (hscNotice l s).rpw = s.rpw := by
  unfold hscNotice; dsimp only; split <;> split <;> rfl

/-- A context change reaches RPW by the quarantine count alone. -/
theorem putCtx_rpw (l : Locker) (c : Context) (s : State) :
    (putCtx l c s).rpw = (countQuarantine (s.ctx l).life c.life s).rpw := by
  have n {m : State} {p : Prop} [Decidable p] : (if p then hscNotice l m else m).rpw = m.rpw := by
    split
    · exact hscNotice_rpw l m
    · rfl
  unfold putCtx
  dsimp only
  rw [n]
  exact countQuarantine_rpw (by rw [markIf_rpw, markIf_rpw])

theorem edit_memoryCanonical (s t : State) (e : Edit s t) (h : MemoryCanonical s) : MemoryCanonical t := by
  have k (h' : t.mem = s.mem) : MemoryCanonical t := by unfold MemoryCanonical; rw [h']; exact h
  cases e with
  | plain p => exact k p.mem
  | ctx => exact k (putCtx_within.mem (by decide))
  | latch => exact k (putLatch_within.mem (by decide))
  | chan => exact k (putChan_within.mem (by decide))
  | allocated => exact k (putChan_within.mem (by decide))
  | lost i g => exact k (putChan_within.mem (by decide) : (putChan i { st := .lost, stamp := g } s).mem = s.mem)
  | fewer p => exact k p.mem
  | memory w p => unfold MemoryCanonical; rw [p.mem]; exact w h
  | presented | record | dropped | postedHq | postedWq => exact k rfl

theorem edit_fastPollExact (s t : State) (e : Edit s t) (h : FastPollExact s) : FastPollExact t := by
  have k (a : t.smp.fastPoll = s.smp.fastPoll) (b : t.ltc = s.ltc) : FastPollExact t := by
    intro l; rw [latches_of_ltc b]; simpa only [a] using h l
  cases e with
  | plain p => exact k p.fastPoll p.ltc
  | ctx => exact k (putCtx_within.fast (by decide)).1 (putCtx_within.ltc (by decide))
  | latch l c r =>
    intro n
    rw [putLatch_fastPoll, putLatch_latches]
    split
    · rfl
    · exact h n
  | chan => exact k (putChan_within.fast (by decide)).1 (putChan_within.ltc (by decide))
  | allocated => exact k (putChan_within.fast (by decide)).1 (putChan_within.ltc (by decide))
  | lost i g =>
    have w := putChan_within (i := i) (c := { st := .lost, stamp := g }) (s := s)
    exact k (w.fast (by decide)).1 (w.ltc (by decide))
  | fewer p => exact k p.fastPoll p.ltc
  | memory _ p => exact k p.fastPoll p.ltc
  | presented | record | dropped | postedHq | postedWq => exact k rfl rfl

theorem edit_appendQueueBounded (s t : State) (e : Edit s t) (h : AppendQueueBounded s) : AppendQueueBounded t := by
  have k (a : t.rpw.queue = s.rpw.queue) : AppendQueueBounded t := by unfold AppendQueueBounded; rw [a]; exact h
  cases e with
  | plain p => exact k p.queue
  | ctx => exact k (putCtx_within.queue (by decide)).1
  | latch => exact k (putLatch_within.queue (by decide)).1
  | chan => exact k (putChan_within.queue (by decide)).1
  | allocated => exact k (putChan_within.queue (by decide)).1
  | lost i g => exact k (putChan_within (i := i) (c := { st := .lost, stamp := g }) (s := s)|>.queue (by decide)).1
  | record r =>
    unfold AppendQueueBounded handRecord Rpw.hand
    dsimp only
    split
    · next g => simp only [List.length_append, List.length_singleton]; exact g
    · simp only [countLoss_ring]; exact h
  | fewer p g => unfold AppendQueueBounded; rw [p.queue]; exact g.trans h
  | memory _ p => exact k p.queue
  | presented | dropped | postedHq | postedWq => exact k rfl

theorem edit_queuesDistinct (s t : State) (e : Edit s t) (h : QueuesDistinct s) : QueuesDistinct t := by
  have sub {t : State} (a : t.hsc.hq.Sublist s.hsc.hq) (b : t.hsc.wq.Sublist s.hsc.wq) : QueuesDistinct t :=
    List.Nodup.sublist (a.append b) h
  have k {t : State} (a : t.hsc.hq = s.hsc.hq ∧ t.hsc.wq = s.hsc.wq) : QueuesDistinct t :=
    sub (a.1 ▸ .refl _) (a.2 ▸ .refl _)
  have o {l : Locker} {m : State} (a : m.hsc = s.hsc) :
      (hscNotice l m).hsc.hq.Sublist s.hsc.hq ∧ (hscNotice l m).hsc.wq.Sublist s.hsc.wq := by
    rw [(hscNotice_queues l m).1, (hscNotice_queues l m).2, a]
    constructor <;> split <;> first | exact .refl _ | exact List.filter_sublist
  have i {l : Locker} {m : State} {p : Prop} [Decidable p] (a : m.hsc = s.hsc) :
      QueuesDistinct (if p then hscNotice l m else m) := by
    split
    · exact sub (o a).1 (o a).2
    · exact k ⟨by rw [a], by rw [a]⟩
  cases e with
  | plain p => exact k ⟨p.hq, p.wq⟩
  | ctx l c => exact i (by simp only [countQuarantine_hsc, markIf_hsc])
  | latch l g r => exact i (by simp only [setFastPoll_hsc, markIf_hsc])
  | chan => exact k (putChan_within.entries (by decide))
  | allocated => exact k (putChan_within.entries (by decide))
  | lost j g => exact k (putChan_within (i := j) (c := { st := .lost, stamp := g }) (s := s)|>.entries (by decide))
  | fewer p => exact k ⟨p.hq, p.wq⟩
  | dropped a b => exact sub a b
  | postedHq l n =>
    have m : ((l :: s.ranking)).Nodup := List.nodup_cons.mpr ⟨n, h⟩
    refine (List.Perm.nodup_iff ?_).mpr m
    simp only [State.ranking]
    simp
  | postedWq l n =>
    have m : ((l :: s.ranking)).Nodup := List.nodup_cons.mpr ⟨n, h⟩
    refine (List.Perm.nodup_iff ?_).mpr m
    simp only [State.ranking, ← List.append_assoc]
    exact List.perm_append_singleton _ _
  | memory _ p => exact k ⟨p.hq, p.wq⟩
  | presented | record => exact k ⟨rfl, rfl⟩

theorem edit_quarantineCounted (s t : State) (e : Edit s t) (h : QuarantineCounted s) : QuarantineCounted t := by
  have k (a : t.rpw.quarantined = s.rpw.quarantined) (b : ∀ l, (t.ctx l).life = (s.ctx l).life) : QuarantineCounted t := by
    unfold QuarantineCounted; rw [a]; simp only [b]; exact h
  have f (a : t.lke = s.lke) (l : Locker) : (t.ctx l).life = (s.ctx l).life := by rw [ctx_of_lke a]
  cases e with
  | plain p => exact k p.quarantined (f p.lke)
  | ctx l c =>
    have w := countP_change l (fun k => decide ((s.ctx k).life = .quarantine))
      (fun k => decide (((putCtx l c s).ctx k).life = .quarantine)) (fun k n => by simp only [putCtx_ctx, if_neg n])
    simp only [putCtx_ctx, if_true] at w
    unfold QuarantineCounted at h ⊢
    rw [putCtx_rpw]
    simp only [putCtx_ctx]
    by_cases a : (s.ctx l).life = .quarantine <;> by_cases b : c.life = .quarantine <;>
      simp [a, b, countQuarantine] at w ⊢
    · exact h.trans w.symm
    · exact Nat.sub_eq_of_eq_add (h.trans w.symm)
    · exact (congrArg (· + 1) h).trans w.symm
    · exact h.trans w.symm
  | latch => exact k (putLatch_within.counts (by decide)).1 (f (putLatch_within.lke (by decide)))
  | chan => exact k (putChan_within.counts (by decide)).1 (f (putChan_within.lke (by decide)))
  | allocated => exact k (putChan_within.counts (by decide)).1 (f (putChan_within.lke (by decide)))
  | lost i g =>
    have w := putChan_within (i := i) (c := { st := .lost, stamp := g }) (s := s)
    exact k (w.counts (by decide)).1 (f (w.lke (by decide)))
  | record => exact k (handRecord_within.counts (by decide)).1 (f (handRecord_within.lke (by decide)))
  | presented l c g =>
    refine k rfl fun m => ?_
    simp only [State.ctx, getElem_setL]
    split
    · next e => subst e; exact g
    · rfl
  | fewer p => exact k p.quarantined (f p.lke)
  | memory _ p => exact k p.quarantined (f p.lke)
  | dropped | postedHq | postedWq => exact k rfl (f rfl)

theorem edit_lostChannelsCounted (s t : State) (e : Edit s t) (h : LostChannelsCounted s) : LostChannelsCounted t := by
  have k {t : State} (a : t.rpw.lostChannels = s.rpw.lostChannels)
      (b : ∀ i, (t.chan i).st = .lost ↔ (s.chan i).st = .lost) : LostChannelsCounted t := by
    unfold LostChannelsCounted; rw [a]; simp only [b]; exact h
  have f {t : State} (a : t.hsc.chans = s.hsc.chans) (i : Chan) : (t.chan i).st = .lost ↔ (s.chan i).st = .lost := by
    rw [chan_of_hsc a]
  have g {i : Chan} {c : Channel} (a : (s.chan i).st ≠ .lost) (b : c.st ≠ .lost) : LostChannelsCounted (putChan i c s) := by
    refine k (putChan_within.counts (by decide)).2 fun j => ?_
    simp only [putChan_chan]
    split
    · next e => subst e; exact ⟨fun x => absurd x b, fun x => absurd x a⟩
    · rfl
  cases e with
  | plain p => exact k p.lostChannels (f p.chans)
  | ctx l c =>
    exact k (by rw [putCtx_rpw]; unfold countQuarantine; split <;> [rfl; skip]; split <;> rfl) (f (putCtx_within.chans (by decide)).1)
  | latch => exact k (putLatch_within.counts (by decide)).2 (f (putLatch_within.chans (by decide)).1)
  | chan i c a b => exact g a b
  | allocated i l x a => exact g (by simp [a]) (by simp)
  | lost i x a =>
    have w := countP_change i (fun j => decide ((s.chan j).st = .lost))
      (fun j => decide (((putChan i { st := .lost, stamp := x } s).chan j).st = .lost))
      (fun j n => by simp only [putChan_chan, if_neg n])
    have c : (putChan i { st := .lost, stamp := x } s).rpw.lostChannels = s.rpw.lostChannels :=
      (putChan_within.counts (by decide)).2
    unfold LostChannelsCounted at h ⊢
    simp only [a, decide_false, Bool.toNat_false, putChan_chan, if_true, decide_true, Bool.toNat_true, Nat.add_zero] at w
    show (putChan i { st := .lost, stamp := x } s).rpw.lostChannels + 1
      = allChans.countP fun j => decide (((putChan i { st := .lost, stamp := x } s).chan j).st = .lost)
    rw [c, h]
    simp only [putChan_chan]
    exact w.symm
  | record => exact k (handRecord_within.counts (by decide)).2 (f rfl)
  | fewer p => exact k p.lostChannels (f p.chans)
  | memory _ p => exact k p.lostChannels (f p.chans)
  | presented | dropped | postedHq | postedWq => exact k rfl (f rfl)

theorem edit_channelsDistinct (s t : State) (e : Edit s t) (h : ChannelsDistinct s) : ChannelsDistinct t := by
  have k {t : State} (a : t.hsc.chans = s.hsc.chans) : ChannelsDistinct t := by
    intro i j l; rw [chan_of_hsc a, chan_of_hsc a]; exact h i j l
  have g {i : Chan} {c : Channel} (b : ∀ l, c.st.attached = some l → ∀ j, (s.chan j).st.attached = some l → j = i) :
      ChannelsDistinct (putChan i c s) := by
    intro x y l
    simp only [putChan_chan]
    split <;> split
    · intros; simp_all
    · next a _ => intro p q; rw [a]; exact (b l p y q).symm
    · next _ a => intro p q; rw [a]; exact b l q x p
    · exact h x y l
  have none {i : Chan} {c : Channel} (b : c.st.attached = none) : ChannelsDistinct (putChan i c s) :=
    g fun l p => by simp [b] at p
  cases e with
  | plain p => exact k p.chans
  | ctx => exact k (putCtx_within.chans (by decide)).1
  | latch => exact k (putLatch_within.chans (by decide)).1
  | chan i c _ _ a =>
    rcases a with a | a
    · exact none a
    · exact g fun l p j q => h j i l q (a ▸ p)
  | allocated i l x _ a =>
    refine g fun m p j q => ?_
    have e : l = m := by simpa [ChanState.attached] using p
    subst e
    have := List.find?_eq_none.mp a j (List.mem_finRange j)
    simp [q] at this
  | lost i x => exact none (c := { st := .lost, stamp := x }) rfl
  | fewer p => exact k p.chans
  | memory _ p => exact k p.chans
  | presented | record | dropped | postedHq | postedWq => exact k rfl

end Sys2Proof.Machine
end

