-- ==== Sys2Proof/Laws/Grants.lean ====
section
/-! SUPPORT. What the heat scheduler's grants come to, said once in the words of Safety.lean: one allocation, and the
repeated step of a late grant. -/

-- One theorem after the other: a thread for each would ask for more stack space than a build may have.
set_option Elab.async false

namespace Sys2Proof.Machine

/-! ### Lists -/

/-- A filter whose test drops exactly the first hit loses its head. -/
theorem filter_drop_head {α : Type} [DecidableEq α] {p q : α → Bool} {l : List α} {a : α} {rest : List α} (d : l.Nodup)
    (h : l.filter p = a :: rest) (e : ∀ x ∈ l, q x = (p x && decide (x ≠ a))) : l.filter q = rest := by
  have n : (a :: rest).Nodup := h ▸ d.filter p
  have f : l.filter q = (l.filter p).filter fun x => decide (x ≠ a) := by
    rw [List.filter_filter]
    exact List.filter_congr fun x hx => by rw [e x hx, Bool.and_comm]
  rw [f, h, List.filter_cons_of_neg (by simp)]
  exact List.filter_eq_self.mpr fun x hx => by
    have : x ≠ a := fun e => (List.nodup_cons.mp n).1 (e ▸ hx)
    simpa using this

/-! ### One allocation -/

/-- Marks that stand after an event stood before it or have been set by it: none is cleared. -/
def MarksKept (s t : State) : Prop := ∀ l c, (s.marks l).has c = true → (t.marks l).has c = true

theorem MarksKept.refl {s : State} : MarksKept s s := fun _ _ h => h

theorem MarksKept.trans {s t u : State} (h : MarksKept s t) (k : MarksKept t u) : MarksKept s u :=
  fun l c m => k l c (h l c m)

theorem putMark_marksKept {l c s} : MarksKept s (putMark l c true s) := fun k d h => by
  rw [putMark_has]; split <;> [rfl; exact h]

theorem markIf_marksKept {q l c s} : MarksKept s (markIf q l c s) := by
  unfold markIf; split <;> [exact putMark_marksKept; exact .refl]

theorem markAttach_marksKept {l s} : MarksKept s (markAttach l s) := by
  unfold markAttach; split <;> [exact putMark_marksKept; exact .refl]

theorem marksKept_of_mrw {s t : State} (h : t.mrw.marks = s.mrw.marks) : MarksKept s t := fun l c m => by
  rw [marks_of_mrw h]; exact m

theorem putPaths_marksKept {l p s} : MarksKept s (putPaths l p s) := by
  unfold putPaths
  refine MarksKept.trans ?_ markIf_marksKept
  exact marksKept_of_mrw rfl

theorem putChan_marksKept {i c s} : MarksKept s (putChan i c s) := by
  unfold putChan
  dsimp only
  split
  · exact marksKept_of_mrw rfl
  · refine MarksKept.trans (MarksKept.trans ?_ markAttach_marksKept) markAttach_marksKept
    exact marksKept_of_mrw rfl

theorem issueHeat_marksKept {l b s} : MarksKept s (issueHeat l b s) := by
  unfold issueHeat
  exact putPaths_marksKept.trans putMark_marksKept

/-- An issued heat command: image, next sequence, to be written, HEAT mark (R103, R130). -/
theorem issueHeat_commanded (l : Locker) (b : Bool) (s : State) : HeatCommanded l b s (issueHeat l b s) := by
  refine ⟨?_, ?_, ?_, ?_⟩
  · rw [issueHeat_paths, if_pos rfl]
  · rw [issueHeat_paths, if_pos rfl]; rfl
  · rw [issueHeat_paths, if_pos rfl]; rfl
  · have := putMark_has l l .heat .heat true (putPaths l { s.paths l with heatOn := b, heat := (s.paths l).heat.issue } s)
    simpa [issueHeat, Marks.has] using this

/-- What one allocation leaves: the channel, the on command, the grant counter; nothing else of the channels, the queues
and the paths (R102, R103). -/
structure Allocated (i : Chan) (l : Locker) (s t : State) : Prop where
  chan : t.chan i = { st := .onPending l, stamp := s.hsc.grants + 1 }
  others : ∀ j : Chan, j ≠ i → t.chan j = s.chan j
  commanded : HeatCommanded l true s t
  state : (t.marks l).state = true
  marks : MarksKept s t
  paths : ∀ k : Locker, k ≠ l → t.paths k = s.paths k
  grants : t.hsc.grants = s.hsc.grants + 1
  hq : t.hsc.hq = s.hsc.hq
  wq : t.hsc.wq = s.hsc.wq
  capacity : t.hsc.capacity = s.hsc.capacity
  copies : t.copies = s.copies

theorem allocateChan_allocated {i : Chan} {l : Locker} {s : State} (h : (s.chan i).st.attached ≠ some l) :
    Allocated i l s (allocateChan i l s) := by
  let s1 : State := { s with hsc := { s.hsc with grants := s.hsc.grants + 1 } }
  let c : Channel := { st := .onPending l, stamp := s.hsc.grants + 1 }
  have e : allocateChan i l s = issueHeat l true (putChan i c s1) := rfl
  have w := issueHeat_within (l := l) (b := true) (s := putChan i c s1)
  have v := putChan_within (i := i) (c := c) (s := s1)
  have p : ∀ k, (putChan i c s1).paths k = s.paths k := fun k => paths_of_ahu (v.paths (by decide)) k
  have m : MarksKept s (putChan i c s1) := by
    refine MarksKept.trans (t := s1) ?_ putChan_marksKept
    exact marksKept_of_mrw rfl
  have chans (j : Chan) : (allocateChan i l s).chan j = if j = i then c else s.chan j := by
    rw [e, chan_of_hsc (w.chans (by decide)).1, putChan_chan]; rfl
  constructor
  · rw [chans, if_pos rfl]
  · intro j hj; rw [chans, if_neg hj]
  · obtain ⟨a, b, q, d⟩ := issueHeat_commanded l true (putChan i c s1)
    exact ⟨a, b, (p l) ▸ q, d⟩
  · rw [e]
    refine issueHeat_marksKept l .state ?_
    unfold putChan
    dsimp only
    rw [if_neg (show ¬ (s1.chan i).st.attached = c.st.attached from h)]
    have := putMark_has l l .state .state true (markAttach (s1.chan i).st.attached
      { s1 with hsc := { s1.hsc with chans := s1.hsc.chans.set i.val c } })
    rw [if_pos ⟨rfl, rfl⟩] at this
    exact this
  · rw [e]; exact m.trans issueHeat_marksKept
  · intro k hk
    rw [e, issueHeat_paths, if_neg hk, p]
  · rw [e, (w.chans (by decide)).2]
    unfold putChan
    dsimp only
    split
    · rfl
    · rw [(markAttach_within.chans (by decide)).2, (markAttach_within.chans (by decide)).2]
  · rw [e, (w.entries (by decide)).1, (v.entries (by decide)).1]
  · rw [e, (w.entries (by decide)).2, (v.entries (by decide)).2]
  · rw [e, (w.limit (by decide)).1, (v.limit (by decide)).1]
  · rw [e, (w.ops (by decide)).2.2.2.1, (v.ops (by decide)).2.2.2.1]

/-! ### Late grants (R114) -/

theorem freeChan_eq (s : State) : s.freeChan = (freeChans s).head? := by
  unfold State.freeChan freeChans; rw [List.head?_filter]

theorem nextUnserved_eq (s : State) : s.nextUnserved = (unserved s).head? := by
  unfold State.nextUnserved unserved State.ranking
  rw [List.head?_filter]
  congr 1
  funext l
  rw [Bool.eq_iff_iff]
  simp [State.attachedChan, List.find?_eq_none, List.all_eq_true]

theorem freeChans_free {i : Chan} {s : State} (h : i ∈ freeChans s) : (s.chan i).st = .free := by
  have := (List.mem_filter.mp h).2
  simp only [Bool.and_eq_true, decide_eq_true_eq] at this
  exact this.2

/-- An allocation of the first FREE channel to the first unserved locker takes both off their lists. -/
theorem Allocated.lists {i : Chan} {l : Locker} {F : List Chan} {U : List Locker} {s t : State} (a : Allocated i l s t)
    (d : s.ranking.Nodup) (hf : freeChans s = i :: F) (hu : unserved s = l :: U) :
    freeChans t = F ∧ unserved t = U ∧ t.energisedCount = s.energisedCount + 1 := by
  have fi : (s.chan i).st = .free := freeChans_free (hf ▸ List.mem_cons_self)
  refine ⟨filter_drop_head (List.nodup_finRange 16) hf fun j _ => ?_, ?_, ?_⟩
  · rw [a.copies]
    by_cases e : j = i
    · subst e; simp [a.chan]
    · simp [a.others j e, e]
  · unfold unserved
    rw [a.hq, a.wq]
    refine filter_drop_head d hu fun k _ => ?_
    rw [Bool.eq_iff_iff]
    simp only [List.all_eq_true, decide_eq_true_eq, Bool.and_eq_true]
    constructor
    · refine fun h => ⟨fun j m => ?_, fun e => ?_⟩
      · by_cases e : j = i
        · rw [e, fi]; exact nofun
        · rw [← a.others j e]; exact h j m
      · exact h i (List.mem_finRange i) (by rw [a.chan, e]; rfl)
    · refine fun h j m => ?_
      by_cases e : j = i
      · rw [e, a.chan]; exact fun x => h.2 (Option.some.inj x).symm
      · rw [a.others j e]; exact h.1 j m
  · have c := countP_change i (fun j => (s.chan j).st.energised.isSome) (fun j => (t.chan j).st.energised.isSome)
      fun j e => by rw [a.others j e]
    have z : (s.chan i).st.energised.isSome = false := by rw [fi]; rfl
    have o : (t.chan i).st.energised.isSome = true := by rw [a.chan]; rfl
    rw [z, o] at c
    unfold State.energisedCount allChans
    simpa using c

/-- What a late grant comes to: the grants, and that no mark is cleared and no other locker's paths change (R114). -/
def LateGrantRun (s t : State) : Prop :=
  LateGranted s t ∧ MarksKept s t ∧ ∀ k, k ∉ (unserved s).take (lateGrants s) → t.paths k = s.paths k

/-- With nothing to grant, a late grant leaves everything. -/
theorem lateGrantRun_none {s : State} (h : lateGrants s = 0) : LateGrantRun s s := by
  refine ⟨⟨fun k hk => ?_, fun _ _ => rfl, ?_, rfl, rfl⟩, .refl, fun _ _ => rfl⟩
  · omega
  · rw [h]; simp

/-- One allocation before a late grant is a late grant. -/
theorem LateGrantRun.step {i : Chan} {l : Locker} {F : List Chan} {U : List Locker} {s u t : State}
    (a : Allocated i l s u) (d : s.ranking.Nodup) (hf : freeChans s = i :: F) (hu : unserved s = l :: U)
    (cap : s.energisedCount < s.hsc.capacity) (r : LateGrantRun u t) : LateGrantRun s t := by
  obtain ⟨ef, eu, ee⟩ := a.lists d hf hu
  obtain ⟨g, m, p⟩ := r
  have iF : i ∉ F := (List.nodup_cons.mp (hf ▸ (List.nodup_finRange 16).filter _)).1
  have lU : l ∉ U := (List.nodup_cons.mp (hu ▸ d.filter _)).1
  have more : lateGrants s = lateGrants u + 1 := by
    unfold lateGrants
    rw [ef, eu, ee, hf, hu, a.capacity]
    simp only [List.length_cons]
    omega
  have lp : t.paths l = u.paths l := p l fun h => lU (eu ▸ List.mem_of_mem_take h)
  refine ⟨⟨?_, ?_, ?_, g.hq.trans a.hq, g.wq.trans a.wq⟩, a.marks.trans m, ?_⟩
  · intro k hk j q hj hq
    rw [hf] at hj
    rw [hu] at hq
    rcases k with _ | k
    · simp only [List.getElem?_cons_zero, Option.some.injEq] at hj hq
      subst hj hq
      refine ⟨?_, ?_, m l .state a.state⟩
      · rw [g.others i fun h => iF (ef ▸ List.mem_of_mem_take h), a.chan]
        rfl
      · obtain ⟨x, y, z, w⟩ := a.commanded
        unfold HeatCommanded
        rw [lp]
        exact ⟨x, y, z, m l .heat w⟩
    · simp only [List.getElem?_cons_succ] at hj hq
      obtain ⟨x, ⟨y, z, w, v⟩, st⟩ := g.granted k (by omega) j q (ef ▸ hj) (eu ▸ hq)
      have ne : q ≠ l := fun e => lU (e ▸ List.mem_of_getElem? hq)
      refine ⟨?_, ⟨y, z, by rw [w, a.paths q ne], v⟩, st⟩
      rw [x, a.grants, BitVec.add_assoc]
      congr 2
      rw [show (1 : BitVec 32) = BitVec.ofNat 32 1 from rfl, ← BitVec.ofNat_add]
      congr 1
      omega
  · intro j hj
    rw [more, hf, List.take_succ_cons, List.mem_cons, not_or] at hj
    rw [g.others j (ef ▸ hj.2), a.others j hj.1]
  · rw [g.grants, a.grants, more, BitVec.add_assoc]
    congr 1
    rw [show (1 : BitVec 32) = BitVec.ofNat 32 1 from rfl, ← BitVec.ofNat_add]
    congr 1
    omega
  · intro k hk
    rw [more, hu, List.take_succ_cons, List.mem_cons, not_or] at hk
    rw [p k (eu ▸ hk.2), a.paths k hk.1]

/-- The repeated step of a late grant, with fuel for every FREE channel (R114). -/
theorem lateGrantLoop_spec (n : Nat) (s : State) (hn : (freeChans s).length ≤ n) (d : s.ranking.Nodup) :
    LateGrantRun s (lateGrantLoop n s) := by
  induction n generalizing s with
  | zero => exact lateGrantRun_none (by unfold lateGrants; omega)
  | succ n ih =>
    unfold lateGrantLoop
    rw [freeChan_eq, nextUnserved_eq]
    split
    case isFalse cap => exact lateGrantRun_none (by unfold lateGrants; omega)
    case isTrue cap =>
      split
      · next i l hi hl =>
        obtain ⟨F, hf⟩ := List.head?_eq_some_iff.mp hi
        obtain ⟨U, hu⟩ := List.head?_eq_some_iff.mp hl
        have a : Allocated i l s (allocateChan i l s) := allocateChan_allocated (by
          rw [freeChans_free (hf ▸ List.mem_cons_self)]; exact nofun)
        refine .step a d hf hu cap (ih _ ?_ ?_)
        · rw [(a.lists d hf hu).1]
          rw [hf, List.length_cons] at hn
          omega
        · unfold State.ranking; rw [a.hq, a.wq]; exact d
      · next no =>
        refine lateGrantRun_none ?_
        unfold lateGrants
        rcases hf : freeChans s with _ | ⟨i, F⟩
        · simp
        rcases hu : unserved s with _ | ⟨l, U⟩
        · simp
        exact absurd (by rw [hu]; rfl) (no i l (by rw [hf]; rfl))

/-- A late grant in OPERATING, with at most one entry for each locker (R102, R103, R106, R114). -/
theorem lateGrant_spec {s : State} (h : s.mode = .operating) (d : QueuesDistinct s) : LateGrantRun s (lateGrant s) := by
  unfold lateGrant
  rw [if_pos h]
  refine lateGrantLoop_spec 16 s ?_ d
  exact (List.length_filter_le _ _).trans (by simp [allChans])

/-- A late grant outside OPERATING grants nothing (log 29). -/
theorem lateGrant_idle {s : State} (h : s.mode ≠ .operating) : lateGrant s = s := if_neg h

end Sys2Proof.Machine
end

