-- ==== Sys2Proof/Tests/Slice0.lean ====
section
/-! SUPPORT. Tests: the smoke test of WellFormed; for each statement a concrete state and operands that meet its hypotheses;
values of the spec's examples. Each is one step or less on a small state. -/

-- One theorem after the other: a thread for each would ask for more stack space than a build may have.
set_option Elab.async false

namespace Sys2Proof.Tests

open Machine

/-! ### Small states -/

/-- The words of a store that validation passes: 5 lockers, frame code 0, ring size 16, Cmax 2, Cshed 1, locker table at
0x10000, ring at 0x20000, guard window 0 of 256 bytes at 0x30000, lockout at 2 attempts, one staff code. -/
def storeWord (i : Nat) : Word :=
  if i = 0 then 0x01020005
  else if i = 1 then 0x10000
  else if i = 2 then 0x20000
  else if i = 3 then 0x30000
  else if i = 4 then 0xFFFF00
  else if i = 7 then 0x00242001
  else if i = 8 then 0x001E0005
  else if i = 9 then 0x00000164
  else if 10 ≤ i ∧ i < 26 then if i % 2 = 0 then 0x00A00082 else 0x0140108C
  else if i = 26 then 0x5A000001
  else if i = 27 then 0xFFFFFFFF
  else if i = 34 then 1
  else if i = 62 then 0xFFFFFFFF
  else 0

def words0 : Vector Word 64 := Vector.ofFn fun i : Fin 64 => storeWord i.val
def store0 : Vector Word 64 := words0.set 63 (integritySum words0)

/-- OPERATING with that store, every locker VACANT. -/
def op0 : State :=
  { State.reset with
    mode := .operating, store := store0, copies := storeCopies store0,
    tmb := { seconds := 7, probe := some 0, frame := some 0, second := some 0 }, hsc := { Hsc.reset with capacity := 2 },
    rpw := { Rpw.reset with adopted := true, stage := .done } }

/-- RESTORING with that store, nothing restored yet. -/
def rs0 : State := { op0 with mode := .restoring, rpw := { Rpw.reset with stage := .readWrite } }

def withCtx (l : Locker) (c : Context) (s : State) : State := { s with lke := s.lke.set l.val c }
def withLatches (l : Locker) (p : LatchPair) (s : State) : State := { s with ltc := s.ltc.set l.val p }
def withPaths (l : Locker) (p : PathPair) (s : State) : State := { s with ahu := { s.ahu with paths := s.ahu.paths.set l.val p } }
def withChan (i : Chan) (c : Channel) (s : State) : State := { s with hsc := { s.hsc with chans := s.hsc.chans.set i.val c } }
def withPort (t : MTag) (x : Txn) (s : State) : State := { s with mpi := { s.mpi with port := some ⟨t, x⟩ } }
def withCode (code : Word) (l : Locker) (life : Lifecycle) (s : State) : State :=
  withCtx l { Context.reset with life := life, presCode := code, customer := 0x11 } s

def latchRec (st : LatchState) (k : RelatchKind) : LatchRec := { LatchRec.reset with st := st, kind := k }
def pathPair (heat latch : PathState) : PathPair :=
  { heatOn := false, heat := { PathRec.reset with st := heat }, relFront := false, relRear := false,
    latch := { PathRec.reset with st := latch } }

/-- The state after a command, where there is one. -/
def after (i : Instr) (s : State) : Option State :=
  match exec i s with
  | .next t => some t
  | .fault _ => none
  | .refused _ => none

def stepNext (s : State) : Option State :=
  match step s with
  | .next t => some t
  | .fault _ => none
  | .refused _ => none

/-! ### WellFormed refuses -/

theorem test_read_of_no_beat_is_ill_formed : (Instr.cPortRead 0 0xF 0).wellFormed = false := by decide
theorem test_read_of_nine_beats_is_ill_formed : (Instr.cPortRead 0 0xF 9).wellFormed = false := by decide
theorem test_read_of_eight_beats_is_well_formed : (Instr.cPortRead 0 0xF 8).wellFormed = true := by decide
theorem test_write_of_no_beat_is_ill_formed : (Instr.controllerWrite 0 0xF []).wellFormed = false := by decide
theorem test_known_kind_is_no_unknown_kind : (Instr.unknownKind 0 3 0 0 0).wellFormed = false := by decide
theorem test_kind_six_is_an_unknown_kind : (Instr.unknownKind 0 6 0 0 0).wellFormed = true := by decide
theorem test_erase_is_no_invalid_operation : (Instr.maintInvalid 3 0).wellFormed = false := by decide
theorem test_ill_formed_read_stops : exec (.cPortRead 0 0xF 9) op0 = .fault .malformed := rfl

/-! ### Values of the spec -/

theorem test_store_is_valid : storeValid store0 = true := by decide +kernel

/-- R184: an erased store fails validation, first by its integrity word. -/
theorem test_erased_store_fails :
    storeValid State.reset.store = false ∧ integritySum State.reset.store = 0xFFFFFFC2 := by decide +kernel

/-- R35, R62: COLLECTED's data, hold-elapsed 609 and cold-dwell 38. -/
theorem test_counts_word : countsWord { Context.reset with hold := 609, cold := 38 } = 0x00260261 := by decide

/-- R34: STATUS with one record lost and the overrun flag. -/
theorem test_status_word : statusWord 1 true = 0x101 := by decide

/-- R33: a COMMAND word of tag 0x31, kind LOAD, and the word forwarded for it with outcome STATE. -/
theorem test_command_word :
    commandWord 0x31 3 0 0 = 0x331 ∧ forwardedWord 0x331 .state = 0x20331
      ∧ forwardedWord 0xFFF80331 .accepted = 0x10331 := by decide

/-- R19: a SENSE word of 71.5 °C, sequence 5, both hatches closed, a tray. -/
theorem test_sense_word :
    senseOf 0x0070508F = { temp := 143, seq := 5, frontClosed := true, rearClosed := true, tray := true } := by decide

/-- R4: the classes at the edges of the windows. -/
theorem test_window_edges :
    classify op0.copies 0x00FFFF = .pass ∧ classify op0.copies 0x010000 = .ltw 0 0
      ∧ classify op0.copies 0x010FFF = .ltw 63 15 ∧ classify op0.copies 0x011000 = .pass
      ∧ classify op0.copies 0x02000C = .ringCtl 3 ∧ classify op0.copies 0x020010 = .ringArea
      ∧ classify op0.copies 0x02010F = .ringArea ∧ classify op0.copies 0x020110 = .pass
      ∧ classify op0.copies 0x0300FF = .guard ∧ classify op0.copies 0x030100 = .pass := by decide +kernel

/-- R36: the bytes of a WRITE frame. -/
theorem test_write_frame :
    frameBytes (.maintWrite true 26 0x5A000001) = some [2, 26, 0x5A, 0, 0, 1]
      ∧ decodeFrame true [2, 26, 0x5A, 0, 0, 1] = some (.maintWrite true 26 0x5A000001) := by decide

/-- R33: STATE of a HOLDING locker of class 2 with a channel attached. -/
theorem test_state_word :
    stateWord { Context.reset with life := .holding, cls := 2 } { front := LatchRec.reset, rear := LatchRec.reset } true
      (pathPair .idle .idle) = 0x20204 := by decide

/-- R37, R163: guard window, levels and classes as the store gives them. -/
theorem test_copies :
    op0.copies.lockerCount = 5 ∧ op0.copies.ringSize = 16 ∧ op0.copies.cmax = 2 ∧ op0.copies.cshed = 1
      ∧ op0.copies.g0 = { base := 0x30000, mask := 0xFFFF00, enabled := true } ∧ op0.copies.g1.enabled = false
      ∧ op0.copies.lockoutAttempts = 2 ∧ op0.copies.overtempC = 100
      ∧ (op0.copies.classes[(2 : Nat)]).holdMin = 1 ∧ (op0.copies.classes[(2 : Nat)]).coldLimit = 20 := by
  decide +kernel

/-- R20, R66: a CODE write and the ASSIGN that takes it, one step each. -/
theorem test_code_write :
    (after (.codeWrite 0x10044 0x11) op0).map (fun t => ((t.ctx 1).presCode, t.cpi))
      = some (0x11, .waiting (writeTxn 0x10044 [0x11]) .none) := by decide +kernel

theorem test_assign :
    (after (.assign 0x10040 9 2 0) (withCode 0x22 1 .vacant op0)).map
        (fun t => ((t.ctx 1).life, (t.ctx 1).customer, (t.ctx 1).presCode, t.mrw.req))
      = some (.assigned, 0x22, 0, some (1, .state)) := by decide +kernel

/-! ### Transactions -/

/-- A write that OWNER governs at its second beat, in locker 1's record. -/
def ownerWrite : Txn := { write := true, addr := 0x10048, lanes := 0xF, len := 2, data := [0, 0] }

/-- A write that GUARD governs at its second beat, of no locker. -/
def guardWrite : Txn := { write := true, addr := 0x2FFFC, lanes := 0xF, len := 2, data := [0, 0] }

/-- A write of word 15 of record 4, and one of the word below the table and of a word of no window. -/
def word15 : Txn := { write := true, addr := 0x1013C, lanes := 0x3, len := 1, data := [0] }
def belowTable : Txn := { write := true, addr := 0xFFF8, lanes := 0xF, len := 2, data := [0, 0] }

theorem word15_beats : word15.beats = [0x1013C] := by decide +kernel
theorem belowTable_beats : belowTable.beats = [0xFFF8, 0xFFFC] := by decide +kernel
theorem guardWrite_beats : guardWrite.beats = [0x2FFFC, 0x30000] := by decide +kernel
theorem ownerWrite_beats : ownerWrite.beats = [0x10048, 0x1004C] := by decide +kernel

/-! ### The hypotheses of each statement are met -/

theorem witness_StepRunsFrontCommand :
    { op0 with pending := [Instr.mportGrant] }.pending = Instr.mportGrant :: [] ∧ op0.pending = [] := by decide

theorem witness_ExecKeepsWaitingCommands :
    exec .resetRelease State.reset = .next { State.reset with mode := .validating } := rfl

theorem witness_MaintFrameReadsBack : opInvalid 0 = true ∧ opInvalid 4 = true ∧ opInvalid 255 = true := by decide

theorem witness_ImpossibleEventsStopByName :
    (Instr.assign 0 0 0 0).wellFormed = true ∧ onCPort (.assign 0 0 0 0) = true ∧ State.reset.mode = .inReset
      ∧ op0.mode ≠ .inReset ∧ { op0 with cpi := Cpi.waiting (readTxn 0) .none }.cpi ≠ .idle
      ∧ (withPort .fwd (readTxn 0) op0).mpi.port ≠ none ∧ op0.mpi.port = none ∧ endsMPort .fwdWriteLand = true
      ∧ (Instr.cPortRead 0 0xF 0).wellFormed = false := by decide +kernel

/-- A locker HOLDING with an energised channel, one in QUARANTINE with its front latch open, a lost channel, queue entries,
a byte of memory: every step of the invariants' statements starts from states like this. -/
def busy : State :=
  withChan 1 { st := .lost, stamp := 0 } <| withChan 0 { st := .on 1, stamp := 1 } <|
  withCtx 1 { Context.reset with life := .holding } <| withCtx 2 { Context.reset with life := .quarantine } <|
  withCtx 3 { Context.reset with life := .assigned } <|
  withLatches 2 { front := latchRec .opened .none, rear := LatchRec.reset }
    { op0 with
      pending := [.frameStart], mem := [(0x10000, 1)], hsc := { op0.hsc with hq := [1], wq := [3] },
      smp := { op0.smp with fastPoll := op0.smp.fastPoll.set 2 true },
      rpw := { op0.rpw with quarantined := 1, lostChannels := 1 } }

theorem busy_channels : ChannelsDistinct busy := channelsDistinct_of_pairs (by decide +kernel)

theorem witness_StepKeepsMemoryCanonical : MemoryCanonical busy ∧ (stepNext busy).isSome = true := by
  unfold MemoryCanonical; decide +kernel

theorem witness_StepKeepsFastPollExact : FastPollExact busy ∧ (stepNext busy).isSome = true := by
  unfold FastPollExact; decide +kernel

theorem witness_StepKeepsInterlock : Interlocked busy ∧ (stepNext busy).isSome = true := by
  unfold Interlocked LockerInterlocked; decide +kernel

theorem witness_StepKeepsHeatWithinCapacity : HeatWithinCapacity busy ∧ (stepNext busy).isSome = true :=
  ⟨⟨by decide +kernel, busy_channels, fun h => absurd rfl h⟩, by decide +kernel⟩

theorem witness_StepKeepsHeatBehindLatched : HeatBehindLatched busy ∧ (stepNext busy).isSome = true := by
  and_intros <;> first | decide +kernel | exact busy_channels | exact fun h => absurd rfl h

theorem witness_StepKeepsQuarantineCount : QuarantineCounted busy ∧ (stepNext busy).isSome = true := by
  unfold QuarantineCounted; decide +kernel

theorem witness_StepKeepsCountsAndQueues :
    LostChannelsCounted busy ∧ AppendQueueBounded busy ∧ QueuesDistinct busy ∧ (stepNext busy).isSome = true := by
  unfold LostChannelsCounted AppendQueueBounded QueuesDistinct; decide +kernel

theorem witness_ResetReturnsEveryBlock :
    (Instr.resetPin, ResetCause.pin)
        ∈ [(Instr.powerOnReset, ResetCause.powerOn), (.logicBrownout, .brownout), (.resetPin, .pin)]
      ∧ op0.mpi.port = none ∧ (withPort .fwd (writeTxn 0 [1]) op0).mpi.port = some ⟨.fwd, writeTxn 0 [1]⟩ := by
  decide +kernel

theorem witness_ValidationSetsModeAndCopies :
    State.reset.mode = .inReset ∧ { State.reset with mode := .validating }.cpi = .idle
      ∧ storeValid State.reset.store = false ∧ storeValid store0 = true ∧ State.reset.mrw.turn = none := by decide +kernel

/-- A validation that passes, a transaction held for START. -/
def held (x : Txn) : State := { State.reset with mode := .validating, store := store0, cpi := .held x true false false }

theorem witness_ValidationHoldsTransactions :
    beatsOk 1 = true ∧ beatsOk 8 = true
      ∧ { State.reset with mode := .validating, cpi := Cpi.held (readTxn 0) true false false }.cpi
          = .held (readTxn 0) true false false
      ∧ 1 ≤ (readTxn 0).len ∧ storeValid State.reset.store = false := by decide +kernel

theorem witness_ValidationHoldsTransactions_passed :
    (held guardWrite).mode = .validating ∧ (held guardWrite).cpi = .held guardWrite true false false
      ∧ storeValid (held guardWrite).store = true ∧ (held guardWrite).rpw.adopted = false
      ∧ (readTxn 0).write = false ∧ guardWrite.write = true
      ∧ (∃ a ∈ ownerWrite.beats, classify (storeCopies store0) a ≠ .guard ∧ classify (storeCopies store0) a ≠ .pass)
      ∧ (∀ a ∈ guardWrite.beats, classify (storeCopies store0) a = .guard ∨ classify (storeCopies store0) a = .pass)
      ∧ 1 < guardWrite.len ∧ classify (storeCopies store0) (guardWrite.beatAddr 1) = .guard
      ∧ (∀ j < 1, classify (storeCopies store0) (guardWrite.beatAddr j) ≠ .guard)
      ∧ (∀ a ∈ belowTable.beats, classify (storeCopies store0) a = .pass) := by
  simp only [ownerWrite_beats, guardWrite_beats, belowTable_beats, List.mem_cons, forall_eq_or_imp, exists_eq_or_imp,
    List.not_mem_nil, false_and, exists_false, false_implies, implies_true]
  decide +kernel

theorem witness_UnconfiguredPassage :
    { State.reset with mode := .unconfigured }.mode = .unconfigured ∧ { State.reset with mode := .unconfigured }.cpi = .idle
      ∧ beatsOk [(0 : Word)].length = true := by decide +kernel

theorem witness_RestoringPassage :
    rs0.mode = .restoring ∧ rs0.cpi = .idle ∧ beatsOk ownerWrite.data.length = true
      ∧ (∃ a ∈ ownerWrite.beats, classify rs0.copies a ≠ .guard ∧ classify rs0.copies a ≠ .pass)
      ∧ (∀ a ∈ guardWrite.beats, classify rs0.copies a = .guard ∨ classify rs0.copies a = .pass)
      ∧ classify rs0.copies (guardWrite.beatAddr 1) = .guard ∧ (∀ j < 1, classify rs0.copies (guardWrite.beatAddr j) ≠ .guard)
      ∧ (∀ a ∈ belowTable.beats, classify rs0.copies a = .pass) ∧ rs0.ringFull = false ∧ beatsOk 8 = true := by
  simp only [ownerWrite_beats, guardWrite_beats, belowTable_beats, List.mem_cons, forall_eq_or_imp, exists_eq_or_imp,
    List.not_mem_nil, false_and, exists_false, false_implies, implies_true]
  decide +kernel

/-- The third read of locker 4, the last. -/
def restoring4 (state : Option Word) : State :=
  withPort .restoreRead (readTxn 0x10118)
    { rs0 with restore := { next := 4, cell := .latch, stateWord := state, heatWord := some 0xF0 } }

theorem witness_RestoreReadRestoresLocker :
    (restoring4 none).mode = .restoring ∧ (restoring4 none).mpi.port = some ⟨.restoreRead, readTxn 0x10118⟩
      ∧ (restoring4 none).restoring = some 4 ∧ (restoring4 none).restore.cell = .latch
      ∧ ((restoring4 none).mem.port2 []).readBeats (readTxn 0x10118) = [0]
      ∧ (restoring4 none).restore.stateWord = none
      ∧ (restoring4 (some 0x30B0)).restore.stateWord = some 0x30B0
      ∧ readsVacant 0 = true ∧ readsVacant 0x30B0 = true ∧ readsVacant 0xC0 = false ∧ readsVacant 0x3800 = false
      ∧ readsVacant 1 = false := by decide +kernel

def ringRestoring (w r : Option Word) : State :=
  withPort .ringRestoreRead (readTxn 0x2000C)
    { rs0 with rpw := { rs0.rpw with stage := .readAttention, keptWrite := w, keptRead := r } }

theorem witness_RingRestoreKeepsOrZeroesIndices :
    (ringRestoring none none).mode = .restoring
      ∧ (ringRestoring none none).mpi.port = some ⟨.ringRestoreRead, readTxn 0x2000C⟩
      ∧ (ringRestoring none none).rpw.stage = .readAttention ∧ (ringRestoring none none).rpw.adopted = false
      ∧ ((ringRestoring none none).mem.port2 []).readBeats (readTxn 0x2000C) = [0]
      ∧ (15 : Word).toNat < rs0.copies.ringSize ∧ ¬ (16 : Word).toNat < rs0.copies.ringSize
      ∧ (withPort .ringReadCell (writeTxn 0x20004 [0]) rs0).mpi.port = some ⟨.ringReadCell, writeTxn 0x20004 [0]⟩ := by
  decide +kernel

/-- A restore with nothing left to do. -/
def restored : State := { rs0 with restore := { Restore.reset with next := 5 }, rpw := { op0.rpw with stage := .done } }

theorem witness_RestoreEndEntersOperating :
    restored.mode = .restoring ∧ restored.copies.lockerCount ≤ restored.restore.next ∧ restored.rpw.adopted = true
      ∧ restored.ringFull = false
      ∧ ∀ l : Locker, l.val < restored.copies.lockerCount →
          (restored.paths l).heat.st = .idle ∧ (restored.paths l).latch.st = .idle ∧ (restored.marks l).any = false := by
  decide +kernel

/-- A list cut at an element that stands once in it. -/
theorem order_before_owner (before after : List Cause)
    (h : [Cause.notReady, .range, .owner, .torn, .guard] = before ++ .owner :: after) : before = [.notReady, .range] := by
  rcases before with _ | ⟨a, _ | ⟨b, _ | ⟨c, _ | ⟨d, _ | ⟨e, f⟩⟩⟩⟩⟩ <;> simp_all

theorem order_before_guard (before after : List Cause)
    (h : [Cause.notReady, .range, .owner, .torn, .guard] = before ++ .guard :: after) :
    before = [.notReady, .range, .owner, .torn] := by
  rcases before with _ | ⟨a, _ | ⟨b, _ | ⟨c, _ | ⟨d, _ | ⟨e, f⟩⟩⟩⟩⟩ <;> simp_all

theorem witness_RefusedWriteIsReported_owner :
    Ready op0 ∧ beatsOk ownerWrite.data.length = true ∧ op0.ringFull = false ∧ 1 < ownerWrite.data.length
      ∧ causeOf op0 ownerWrite (ownerWrite.beatAddr 1) = some .owner
      ∧ (∀ j < 1, causeOf op0 ownerWrite (ownerWrite.beatAddr j) ≠ some .owner)
      ∧ (∀ before after, [Cause.notReady, .range, .owner, .torn, .guard] = before ++ .owner :: after →
          ∀ d ∈ before, ∀ j < ownerWrite.data.length, causeOf op0 ownerWrite (ownerWrite.beatAddr j) ≠ some d)
      ∧ (∃ cell, classify op0.copies (ownerWrite.beatAddr 1) = .ltw 1 cell) := by
  refine ⟨by decide +kernel, by decide, by decide +kernel, by decide, by decide +kernel, by decide +kernel, ?_, by decide +kernel⟩
  intro before rest h
  rw [order_before_owner before rest h]
  decide +kernel

theorem witness_RefusedWriteIsReported_guard :
    Ready op0 ∧ beatsOk guardWrite.data.length = true ∧ op0.ringFull = false ∧ 1 < guardWrite.data.length
      ∧ causeOf op0 guardWrite (guardWrite.beatAddr 1) = some .guard
      ∧ (∀ j < 1, causeOf op0 guardWrite (guardWrite.beatAddr j) ≠ some .guard)
      ∧ (∀ before after, [Cause.notReady, .range, .owner, .torn, .guard] = before ++ .guard :: after →
          ∀ d ∈ before, ∀ j < guardWrite.data.length, causeOf op0 guardWrite (guardWrite.beatAddr j) ≠ some d)
      ∧ (∀ l cell, classify op0.copies (guardWrite.beatAddr 1) = .ltw l cell → op0.copies.lockerCount ≤ l.val) := by
  refine ⟨by decide +kernel, by decide, by decide +kernel, by decide, by decide +kernel, by decide +kernel, ?_, ?_⟩
  · intro before rest h
    rw [order_before_guard before rest h]
    decide +kernel
  · intro l cell h
    rw [show classify op0.copies (guardWrite.beatAddr 1) = .guard by decide +kernel] at h
    cases h

/-- A write of some beats at an address, whose READ index value lies outside the span. -/
def causeAt (lanes : BitVec 4) (len : Nat) (data : Word) (a : Addr) : Option Cause :=
  causeOf op0 { write := true, addr := a, lanes := lanes, len := len, data := [data] } a

/-- R4, R6, R7, R8: the causes of a beat at the edges of every range of addresses, by a single full write, a partial one and
a burst. -/
theorem witness_BeatCauses :
    [0x10000, 0x10008, 0x1000C, 0x10020, 0x10024, 0x1013C, 0x10140, 0x10FFF].map (causeAt 0xF 1 0)
        = [none, none, some .owner, some .owner, none, none, some .range, some .range]
      ∧ [0x10000, 0x10008, 0x10024, 0x20004, 0x20008, 0x2000C].map (causeAt 0x7 1 0)
        = [some .torn, some .torn, none, some .torn, some .torn, some .torn]
      ∧ [0x10008, 0x20004, 0x2000C].map (causeAt 0xF 2 0) = [some .torn, some .torn, some .torn]
      ∧ [0x20000, 0x20004, 0x20008, 0x2000C, 0x20010, 0x2010C].map (causeAt 0xF 1 0)
        = [some .owner, none, none, none, some .owner, some .owner]
      ∧ causeAt 0xF 1 1 0x20004 = some .range
      ∧ [0x0FFFC, 0x11000, 0x20110, 0x2FFFC, 0x30000, 0x300FC, 0x30100].map (causeAt 0xF 1 0)
        = [none, none, none, none, some .guard, some .guard, none] := by decide +kernel

theorem witness_OrdinaryWriteIsForwarded :
    Ready op0 ∧ beatsOk word15.data.length = true ∧ beatsOk belowTable.data.length = true
      ∧ classify op0.copies 0x30000 = .guard ∧ (∀ a ∈ word15.beats, causeOf op0 word15 a = none)
      ∧ (∀ a ∈ word15.beats, ∃ l cell, classify op0.copies a = .ltw l cell ∧ 9 ≤ cell.val)
      ∧ (∀ a ∈ belowTable.beats, causeOf op0 belowTable a = none)
      ∧ (∃ a ∈ belowTable.beats, classify op0.copies a = .pass) := by
  rw [word15_beats, belowTable_beats]
  simp only [forall_eq, List.mem_cons, forall_eq_or_imp, List.not_mem_nil, or_false]
  exact ⟨by decide +kernel, rfl, rfl, by decide +kernel, by decide +kernel, ⟨4, 15, by decide +kernel⟩, by decide +kernel,
    ⟨0xFFF8, .inl rfl, by decide +kernel⟩⟩

theorem witness_CodeWriteIsCaptured : Ready op0 ∧ CellAt op0 0x10004 0 1 ∧ CellAt op0 0x10104 4 1 := by decide +kernel

theorem witness_OrderWriteIsCaptured : Ready op0 ∧ CellAt op0 0x10008 0 2 ∧ CellAt op0 0x10108 4 2 := by decide +kernel

/-- The ring with two unread records, READ at the last slot but one. -/
def ring2 : State := { op0 with rpw := { op0.rpw with read := 15, write := 1 } }

theorem witness_ReadIndexWriteIsJudgedBySpan :
    Ready ring2 ∧ classify ring2.copies 0x20004 = .ringCtl 1 ∧ ring2.rpw.read < ring2.copies.ringSize
      ∧ ring2.rpw.write < ring2.copies.ringSize ∧ ring2.ringFull = false
      ∧ (∀ n ∈ [15, 0, 1], n < ring2.copies.ringSize
          ∧ (n + ring2.copies.ringSize - ring2.rpw.read) % ring2.copies.ringSize
            ≤ (ring2.rpw.write + ring2.copies.ringSize - ring2.rpw.read) % ring2.copies.ringSize)
      ∧ (∀ n ∈ [14, 2, 16], ¬ (n < ring2.copies.ringSize
          ∧ (n + ring2.copies.ringSize - ring2.rpw.read) % ring2.copies.ringSize
            ≤ (ring2.rpw.write + ring2.copies.ringSize - ring2.rpw.read) % ring2.copies.ringSize)) := by decide +kernel

theorem witness_StatusAndAttentionWritesAreForwarded :
    Ready op0 ∧ classify op0.copies 0x20008 = .ringCtl 2 ∧ classify op0.copies 0x2000C = .ringCtl 3 := by decide +kernel

/-- A locker with a mark, and a ring operation in flight. -/
def marked (op : RingOp) : State :=
  { op0 with
    mrw := { op0.mrw with marks := op0.mrw.marks.set 4 { Marks.none with hold := true } }, rpw := { op0.rpw with op := op } }

theorem witness_ReadIsHeldBehindMarksAndRing :
    Ready (marked .recordFly) ∧ beatsOk 1 = true ∧ ((marked .recordFly).marks 4).any = true
      ∧ (∃ a ∈ Txn.beats { write := false, addr := 0x10100, lanes := 0xF, len := 1, data := [] },
          ∃ cell, classify op0.copies a = .ltw 4 cell)
      ∧ (marked .recordFly).rpw.op.inFlight = true ∧ (marked .recordReq).rpw.op.inFlight = false
      ∧ (∃ a ∈ Txn.beats { write := false, addr := 0x2010C, lanes := 0xF, len := 1, data := [] },
          (∃ w, classify op0.copies a = .ringCtl w) ∨ classify op0.copies a = .ringArea)
      ∧ (marked .recordFly).mirrorFlying = false ∧ (∀ d, (marked .recordFly).mrw.req ≠ some (4, d))
      ∧ FirstMarked ((marked .recordFly).marks 4) (cellsAfter none) .hold :=
  ⟨by decide +kernel, rfl, by decide +kernel, ⟨0x10100, by decide +kernel, 0, by decide +kernel⟩, rfl, rfl,
    ⟨0x2010C, by decide +kernel, .inr (by decide +kernel)⟩, rfl, fun _ => nofun, by decide +kernel⟩

theorem witness_CommandIsEvaluatedAndForwarded :
    commandRow (.unknownKind 0x10040 15 1 2 3) = some (0x10040, commandWord 1 15 2 3)
      ∧ commandRow (.assign 0x10040 1 2 3) = some (0x10040, commandWord 1 1 2 3) ∧ Ready op0 ∧ CellAt op0 0x10040 1 0 := by
  decide +kernel

/-- The kinds at the edges of R64's first test, and one word of each kind. -/
theorem witness_OutcomeFollowsTestOrder :
    evaluate op0 1 0x000 = .unknown ∧ evaluate op0 1 0x600 = .unknown
      ∧ evaluate (withCode 0 1 .loading op0) 1 0x100 = .busy ∧ evaluate (withCode 0 1 .clearing op0) 1 0x500 = .busy
      ∧ evaluate op0 1 0x100 = .code ∧ evaluate (withCode 0 1 .loadable op0) 1 0x200 = .accepted
      ∧ evaluate (withCode 0 1 .assigned op0) 1 0x300 = .state ∧ evaluate (withCode 0x11 1 .expired op0) 1 0x400 = .expired
      ∧ evaluate (withCode 0x5A000001 1 .quarantine op0) 1 0x500 = .accepted := by decide +kernel

/-- R71: an entry is compared where its mask holds 1, and only while it is enabled; a mask of 0 matches every code. -/
theorem test_staff_match :
    op0.staffMatch 0x5A000001 = true ∧ op0.staffMatch 0x5A000000 = false
      ∧ StaffEntry.matchesCode { code := 0x5A000000, mask := 0xFF000000, enabled := true } 0x5A123456 = true
      ∧ StaffEntry.matchesCode { code := 0x5A000000, mask := 0xFF000000, enabled := false } 0x5A123456 = false
      ∧ StaffEntry.matchesCode { code := 0x5A000000, mask := 0, enabled := true } 0 = true := by decide +kernel

theorem witness_AssignBindsOrder :
    Ready (withCode 0x22 1 .vacant op0) ∧ CellAt (withCode 0x22 1 .vacant op0) 0x10040 1 0
      ∧ ((withCode 0x22 1 .vacant op0).ctx 1).life = .vacant
      ∧ ((withCode 0x22 1 .vacant op0).copies.classes[((7 : BitVec 3)).toFin.val]).holdMin ≠ 0
      ∧ ((withCode 0x22 1 .vacant op0).ctx 1).presCode ≠ 0 := by decide +kernel

/-- A locker in a lifecycle state with a channel of its own, energised. -/
def heated (code : Word) (life : Lifecycle) : State := withChan 0 { st := .on 1, stamp := 1 } (withCode code 1 life op0)

theorem heated_channels (code : Word) (life : Lifecycle) : ChannelsDistinct (heated code life) :=
  channelsDistinct_of_pairs (by
    have h (i : Chan) : (heated code life).chan i = (withChan 0 { st := .on 1, stamp := 1 } op0).chan i := rfl
    simp only [h]
    decide +kernel)

theorem witness_CancelClearsLocker :
    Ready (heated 0 .loadable) ∧ CellAt (heated 0 .loadable) 0x10040 1 0
      ∧ ((heated 0 .assigned).ctx 1).life = .assigned ∧ ((heated 0 .loadable).ctx 1).life = .loadable
      ∧ ChannelsDistinct (heated 0 .loadable) ∧ (heated 0 .loadable).ringFull = false := by
  and_intros <;> first | decide +kernel | exact heated_channels _ _

theorem witness_LoadReleasesRear :
    Ready (heated 0 .loadable) ∧ CellAt (heated 0 .loadable) 0x10040 1 0 ∧ ((heated 0 .loadable).ctx 1).life = .loadable
      ∧ ChannelsDistinct (heated 0 .loadable) ∧ (heated 0 .loadable).bothLatched 1 = true
      ∧ (heated 0 .loadable).attachedChan 1 ≠ none ∧ (withCode 0 1 .loadable op0).attachedChan 1 = none
      ∧ (withLatches 1 { front := latchRec .failed .none, rear := LatchRec.reset } (heated 0 .loadable)).bothLatched 1 = false
      ∧ (heated 0 .loadable).ringFull = false := by
  and_intros <;> first | decide +kernel | exact heated_channels _ _

theorem witness_CollectReleasesFront :
    Ready (heated 0x11 .holding) ∧ CellAt (heated 0x11 .holding) 0x10040 1 0
      ∧ ((heated 0x11 .holding).ctx 1).life = .holding ∧ ChannelsDistinct (heated 0x11 .holding)
      ∧ (heated 0x5A000001 .holding).staffMatch ((heated 0x5A000001 .holding).ctx 1).presCode = true
      ∧ (heated 0x11 .holding).staffMatch ((heated 0x11 .holding).ctx 1).presCode = false
      ∧ ((heated 0x11 .holding).ctx 1).lockedOut = false
      ∧ ((heated 0x11 .holding).ctx 1).presCode = ((heated 0x11 .holding).ctx 1).customer
      ∧ (heated 0x11 .holding).bothLatched 1 = true := by
  and_intros <;> first | decide +kernel | exact heated_channels _ _

theorem witness_ClearReleasesRear :
    Ready (heated 0x5A000001 .expired) ∧ CellAt (heated 0x5A000001 .expired) 0x10040 1 0
      ∧ (((heated 0x5A000001 .expired).ctx 1).life, ReturnState.expired)
          ∈ [(Lifecycle.holding, ReturnState.holding), (.expired, .expired), (.quarantine, .quarantine)]
      ∧ (heated 0x5A000001 .expired).staffMatch ((heated 0x5A000001 .expired).ctx 1).presCode = true
      ∧ (heated 0x5A000001 .expired).bothLatched 1 = true ∧ ChannelsDistinct (heated 0x5A000001 .expired) := by
  and_intros <;> first | decide +kernel | exact heated_channels _ _

theorem witness_WrongCodeCountsAndLocksOut :
    Ready (heated 0x33 .holding) ∧ CellAt (heated 0x33 .holding) 0x10040 1 0
      ∧ ((heated 0x33 .holding).ctx 1).life = .holding
      ∧ (heated 0x33 .holding).staffMatch ((heated 0x33 .holding).ctx 1).presCode = false
      ∧ ((heated 0x33 .holding).ctx 1).lockedOut = false
      ∧ ((heated 0x33 .holding).ctx 1).presCode ≠ ((heated 0x33 .holding).ctx 1).customer
      ∧ (heated 0x33 .holding).ringFull = false
      ∧ ((heated 0x33 .holding).ctx 1).attempts + 1 ≠ (heated 0x33 .holding).copies.lockoutAttempts
      ∧ ((withCtx 1 { (heated 0x33 .holding).ctx 1 with attempts := 1 } op0).ctx 1).attempts + 1
          = op0.copies.lockoutAttempts := by decide +kernel

theorem witness_RefusedCommandChangesNothingElse :
    commandRow (.load 0x10040 1 0 0) = some (0x10040, commandWord 1 3 0 0) ∧ Ready op0 ∧ CellAt op0 0x10040 1 0
      ∧ evaluate op0 1 (commandWord 1 3 0 0) ≠ .accepted
      ∧ ¬ ((commandWord 1 3 0 0).extractLsb' 8 4 = 4 ∧ evaluate op0 1 (commandWord 1 3 0 0) = .code) := by decide +kernel

/-- A forwarded read waits while a mark of locker 4 asks for its HOLD cell. -/
def asking (pointer : Requester) : State :=
  { marked .idle with
    cpi := .waiting (readTxn 0x20) .none, mrw := { (marked .idle).mrw with req := some (4, .hold) },
    mpi := { pointer := pointer, port := none } }

theorem witness_GrantGoesRoundTheCircle :
    (asking .ahu).mpi.port = none ∧ circleFrom (asking .ahu).mpi.pointer = [.ahu, .smp, .rpw] ++ .fwd :: [.mrw]
      ∧ (∀ q ∈ [Requester.ahu, .smp, .rpw], request (asking .ahu) q = none)
      ∧ request (asking .ahu) .fwd = some ⟨.fwd, readTxn 0x20⟩
      ∧ circleFrom (asking .mrw).mpi.pointer = [] ++ .mrw :: [.ahu, .smp, .rpw, .fwd]
      ∧ (request (asking .mrw) .mrw).isSome = true := by decide +kernel

/-- The same with a read of locker 4's record held for that mark, locker 4 at the head of the promotion list and in the
turn, and another cell of it marked where `more` says so. -/
def askingHeld (more : Bool) : State :=
  { asking .mrw with
    cpi := .held (readTxn 0x10100) false true true,
    mrw := { (asking .mrw).mrw with
      promo := [4], turn := some (4, none),
      marks := (asking .mrw).mrw.marks.set 4 { Marks.none with hold := true, codeZero := more } } }

theorem witness_MirrorGrantFixesContent :
    (asking .mrw).mpi.port = none
      ∧ nextGrant (asking .mrw) = some (.mrw, ⟨.mirror 4 .hold 0, writeTxn 0x10110 [0]⟩)
      ∧ (asking .mrw).mrw.req = some (4, .hold) ∧ (asking .mrw).mrw.promo.head? ≠ some 4 := by decide +kernel

theorem witness_MirrorGrantFixesContent_held :
    (askingHeld true).mpi.port = none
      ∧ nextGrant (askingHeld true) = some (.mrw, ⟨.mirror 4 .hold 0, writeTxn 0x10110 [0]⟩)
      ∧ nextGrant (askingHeld false) = some (.mrw, ⟨.mirror 4 .hold 0, writeTxn 0x10110 [0]⟩)
      ∧ (askingHeld true).mrw.req = some (4, .hold) ∧ (askingHeld true).mrw.promo.head? = some 4
      ∧ ((askingHeld true).marks 4).has .codeZero = true
      ∧ (∀ d ∈ cellsAfter none, d ≠ .hold → ((askingHeld false).marks 4).has d = false)
      ∧ (askingHeld false).mrw.turn = some (4, none) ∧ (askingHeld false).mode = .operating
      ∧ (askingHeld false).cpi = .held (readTxn 0x10100) false true true
      ∧ (after .mportGrant (askingHeld false)).map (fun t => t.mrw.promo) = some []
      ∧ (after .mportGrant (askingHeld true)).map (fun t => t.mrw.promo) = some [4] := by decide +kernel

/-- A write of one word on the M-port for the C-port. -/
def carrying (land : LandEffect) : State :=
  withPort .fwd (writeTxn 0x20004 [3]) { op0 with cpi := .carrying (writeTxn 0x20004 [3]) land }

theorem witness_ForwardedWriteLands :
    (carrying .none).mpi.port = some ⟨.fwd, writeTxn 0x20004 [3]⟩ ∧ (writeTxn 0x20004 [3]).write = true
      ∧ (carrying .none).cpi = .carrying (writeTxn 0x20004 [3]) .none ∧ MemoryCanonical (carrying .none)
      ∧ (writeTxn 0x20004 [3]).data = [3] ∧ (writeTxn 0x20004 [3]).lanes = 0xF := by
  unfold MemoryCanonical; decide +kernel

theorem witness_LandedRingWordsAreTaken :
    (carrying .readIndex).mpi.port = some ⟨.fwd, writeTxn 0x20004 [3]⟩ ∧ (writeTxn 0x20004 [3]).data = [3]
      ∧ (carrying .readIndex).cpi = .carrying (writeTxn 0x20004 [3]) .readIndex ∧ (carrying .readIndex).rpw.queue = []
      ∧ (carrying .status).cpi = .carrying (writeTxn 0x20004 [3]) .status
      ∧ (carrying .attention).cpi = .carrying (writeTxn 0x20004 [3]) .attention := by decide +kernel

/-- A read of two words of locker 1's record on the M-port for the C-port. -/
def reading : State :=
  withPort .fwd { readTxn 0x10040 with len := 2 } { op0 with cpi := .carrying { readTxn 0x10040 with len := 2 } .none }

theorem witness_ForwardedReadCompletes :
    reading.mode = .operating ∧ reading.mpi.port = some ⟨.fwd, { readTxn 0x10040 with len := 2 }⟩
      ∧ reading.cpi = .carrying { readTxn 0x10040 with len := 2 } .none ∧ (∀ k < 2, (0xFC : BitVec 8).getLsbD k = false)
      ∧ (2 : BitVec 8).getLsbD 1 = true ∧ (∀ j < 1, (2 : BitVec 8).getLsbD j = false)
      ∧ classify reading.copies (Txn.beatAddr { readTxn 0x10040 with len := 2 } 1) = .ltw 1 1
      ∧ (1 : Locker).val < reading.copies.lockerCount ∧ reading.ringFull = false
      ∧ classify reading.copies (Txn.beatAddr { readTxn 0x1FFFC with len := 2 } 1) = .ringCtl 0
      ∧ classify reading.copies (Txn.beatAddr { readTxn 0x10140 with len := 2 } 1) = .ltw 5 1
      ∧ reading.copies.lockerCount ≤ (5 : Locker).val
      ∧ { reading with mode := .unconfigured }.mode = .unconfigured := by decide +kernel

/-- A mirror write of locker 1 in flight, locker 4's HOLD mark and locker 2's STATE mark standing. -/
def landing (promo : List Locker) (promoLast : Option MarkCell) (turn : Option (Locker × Option MarkCell)) : State :=
  withPort (.mirror 1 .state 0) (writeTxn 0x1004C [0])
    { op0 with
      mrw := { Mrw.reset with
        marks := (op0.mrw.marks.set 4 { Marks.none with hold := true }).set 2 { Marks.none with state := true },
        promo := promo, promoLast := promoLast, turn := turn, lastServed := 4 } }

theorem witness_MirrorLandingStartsProbing :
    (withPort (.mirror 1 .heat 0) (writeTxn 0x10054 [0]) (withPaths 1 (pathPair .writing .idle) op0)).mpi.port
        = some ⟨.mirror 1 .heat 0, writeTxn 0x10054 [0]⟩
      ∧ (((withPaths 1 (pathPair .writing .idle) op0).paths 1).get .heat).st = .writing
      ∧ (((withPaths 1 (pathPair .writing .idle) op0).paths 1).get .heat).seq = 0
      ∧ ((withPaths 1 (pathPair .probing .idle) op0).paths 1).heat.st ≠ .writing := by decide +kernel

theorem witness_MirrorLandingStartsProbing_next :
    (landing [4] none none).mode = .operating ∧ (landing [4] none none).mrw.req = none
      ∧ (landing [4] none none).mrw.promo.head? = some 4
      ∧ FirstMarked ((landing [4] none none).marks 4) (cellsAfter none) .hold
      ∧ (∀ e ∈ cellsAfter (some .hold), ((landing [4] (some .hold) none).marks 4).has e = false)
      ∧ (landing [] none (some (4, none))).mrw.turn = some (4, none)
      ∧ (∀ d ∈ cellsAfter (some .hold), ((landing [] none (some (4, some .hold))).marks 4).has d = false)
      ∧ FirstMarkedFrom (landing [] none (some (4, some .hold))) 5 2
      ∧ FirstMarked ((landing [] none none).marks 2) (cellsAfter none) .state
      ∧ (landing [] none none).mrw.turn = none ∧ FirstMarkedFrom (landing [] none none) (4 + 1) 2
      ∧ Unmarked op0 := by
  and_intros <;> decide +kernel

/-- A probe of locker 1 on the M-port, its heat path PROBING with some counts. -/
def probed (naks probes errs : Nat) : State :=
  withPort (.probe 1) (readTxn 0x10060)
    (withPaths 1
      { pathPair .probing .idle with heat := { PathRec.reset with st := .probing, naks := naks, probes := probes, errs := errs } }
      op0)

/-- The scanner's word in locker 1's ACK cell. -/
def acked (w : Word) : List PortWrite := [⟨0x10060, w⟩]

theorem witness_ProbeWithoutAckCounts :
    (probed 30 0 0).mpi.port = some ⟨.probe 1, readTxn 0x10060⟩
      ∧ ((probed 30 0 0).mem.port2 (acked 0x20)).readBeats (readTxn 0x10060) = [0x20]
      ∧ ((probed 30 0 0).paths 1).heat.st = .probing ∧ ((probed 30 0 0).paths 1).latch.st ≠ .probing
      ∧ AnswersNak .heat false 0x20 ((probed 30 0 0).paths 1).heat
      ∧ ((probed 30 0 0).paths 1).heat.naks + 1 < 32
      ∧ AnswersError (probed 31 0 0).copies.ackLimit .heat false 0x20 ((probed 31 0 0).paths 1).heat
      ∧ AnswersNone .heat true 0x20 ((probed 0 0 0).paths 1).heat
      ∧ ((probed 0 0 0).paths 1).heat.probes + 1 < (probed 0 0 0).copies.ackLimit
      ∧ AnswersError (probed 0 1 1).copies.ackLimit .heat true 0 ((probed 0 1 1).paths 1).heat
      ∧ ((probed 0 1 1).paths 1).heat.errs + 1 < 3 ∧ ((probed 0 1 3).paths 1).heat.fin + 1 < 3 := by decide +kernel

/-- A path that is not the one is the other. -/
theorem other_idle {s : State} (k : PathKind)
    (h : ((s.paths 1).get (match k with | .heat => .latch | .latch => .heat)).st ≠ .probing) :
    ∀ j : PathKind, j ≠ k → ((s.paths 1).get j).st ≠ .probing := by
  intro j hj; cases j <;> cases k <;> first | exact h | exact absurd rfl hj

/-- A probe of locker 1 whose path has some errors and final attempts; the image on or off, channel 0 attached or not. -/
def failing (k : PathKind) (on : Bool) (errs fin : Nat) (st : ChanState) : State :=
  let r : PathRec := { PathRec.reset with st := .probing, probes := 1, errs := errs, fin := fin }
  withChan 0 { st := st, stamp := 1 }
    (withPort (.probe 1) (readTxn 0x10060) (withPaths 1 ({ pathPair .idle .idle with heatOn := on }.set k r)
      (withCtx 1 { Context.reset with life := .holding } op0)))

theorem witness_FailedOnCommand :
    ProbeOf 1 .heat 0x30 (readTxn 0x10060) (acked 0x30) (failing .heat true 0 0 (.onPending 1))
      ∧ FailsCommand 2 .heat false 0x30 ((failing .heat true 0 0 (.onPending 1)).paths 1).heat
      ∧ FailsCommand 2 .heat true 0x30 ((failing .heat true 2 0 (.onPending 1)).paths 1).heat
      ∧ FailsCommand 2 .heat true 0x30 ((failing .heat true 3 2 (.onPending 1)).paths 1).heat
      ∧ (failing .heat true 0 0 (.onPending 1)).copies.ackLimit = 2
      ∧ (failing .heat true 0 0 (.onPending 1)).mode = .operating
      ∧ ((failing .heat true 0 0 (.onPending 1)).paths 1).heatOn = true
      ∧ ((failing .heat true 0 0 (.onPending 1)).chan 0).st = .onPending 1
      ∧ ChannelsDistinct (failing .heat true 0 0 (.onPending 1))
      ∧ (failing .heat true 0 0 (.onPending 1)).bothLatched 1 = true
      ∧ (failing .heat true 0 0 (.onPending 1)).ringFull = false := by
  and_intros <;> first
    | decide +kernel
    | exact other_idle .heat (by decide +kernel)
    | exact channelsDistinct_of_pairs (by decide +kernel)

theorem witness_FailedOffCommand :
    ProbeOf 1 .heat 0x30 (readTxn 0x10060) (acked 0x30) (failing .heat false 0 0 (.offPending 1))
      ∧ FailsCommand 2 .heat false 0x30 ((failing .heat false 0 0 (.offPending 1)).paths 1).heat
      ∧ ((failing .heat false 0 0 (.offPending 1)).paths 1).heatOn = false
      ∧ ((failing .heat false 0 0 (.offPending 1)).chan 0).st = .offPending 1
      ∧ ChannelsDistinct (failing .heat false 0 0 (.offPending 1))
      ∧ ((withLatches 1 { front := LatchRec.reset, rear := latchRec .haltWait .none }
            (failing .heat false 0 0 (.offPending 1))).latch 1 .rear).st = .haltWait
      ∧ ((failing .heat false 0 0 (.offPending 1)).ctx 1).life ≠ .quarantine := by
  and_intros <;> first
    | decide +kernel
    | exact other_idle .heat (by decide +kernel)
    | exact channelsDistinct_of_pairs (by decide +kernel)

theorem witness_FailedRestoreHeatCommand :
    FailsCommand 2 .heat false 0x30 ((failing .heat false 0 0 .free).paths 1).heat
      ∧ { failing .heat false 0 0 .free with mode := .restoring }.mode = .restoring
      ∧ ∀ i : Chan, ((failing .heat false 0 0 .free).chan i).st.attached = none := by decide +kernel

theorem witness_FailedLatchCommand :
    ProbeOf 1 .latch 0x3000 (readTxn 0x10060) (acked 0x3000) (failing .latch false 0 0 .free)
      ∧ FailsCommand 2 .latch false 0x3000 ((failing .latch false 0 0 .free).paths 1).latch
      ∧ FailsCommand 2 .latch true 0 ((failing .latch false 2 0 .free).paths 1).latch
      ∧ ChannelsDistinct (failing .latch false 0 0 .free)
      ∧ ((withLatches 1 { front := latchRec .unlatchPending .none, rear := LatchRec.reset }
            (failing .latch false 0 0 .free)).latch 1 .front).st = .unlatchPending
      ∧ ((failing .latch false 0 0 .free).latch 1 .rear).st = .latched := by
  and_intros <;> first
    | decide +kernel
    | exact other_idle .latch (by decide +kernel)
    | exact channelsDistinct_of_pairs (by decide +kernel)

theorem witness_TimeoutReissuesCommand :
    (1 : Locker).val < (probed 0 1 1).copies.lockerCount ∧ (((probed 0 1 1).paths 1).get .heat).st = .probing
      ∧ (probed 0 1 1).copies.ackLimit ≤ (((probed 0 1 1).paths 1).get .heat).probes + 1
      ∧ (((probed 0 1 1).paths 1).get .heat).errs + 1 < 3 := by decide +kernel

/-- The same with channel 0 attached to the locker. -/
def probedChan (st : ChanState) : State := withChan 0 { st := st, stamp := 1 } (probed 0 0 0)

/-- The same with locker 2 warming up, in the warm-up queue without a channel. -/
def probedWaiting : State :=
  let s := withCtx 2 { Context.reset with life := .assigned } (probedChan (.offPending 1))
  { s with hsc := { s.hsc with wq := [2] } }

theorem witness_HeatAckMovesChannel :
    (probedChan (.onPending 1)).mpi.port = some ⟨.probe 1, readTxn 0x10060⟩
      ∧ ((probedChan (.onPending 1)).mem.port2 (acked 0x10)).readBeats (readTxn 0x10060) = [0x10]
      ∧ ((probedChan (.onPending 1)).paths 1).heat.st = .probing
      ∧ ((probedChan (.onPending 1)).paths 1).latch.st ≠ .probing
      ∧ ackSeq .heat 0x10 = ((probedChan (.onPending 1)).paths 1).heat.seq ∧ ackCode .heat 0x10 = .ack
      ∧ ChannelsDistinct (probedChan (.onPending 1)) ∧ QueuesDistinct (probedChan (.onPending 1))
      ∧ ((probedChan (.onPending 1)).chan 0).st = .onPending 1
      ∧ ((probedChan (.offPending 1)).chan 0).st = .offPending 1 ∧ (probedChan (.offPending 1)).hsc.hq = []
      ∧ ((withLatches 1 { front := latchRec .haltWait .none, rear := LatchRec.reset } (probedChan (.offPending 1))).latch 1
          .front).st = .haltWait := by
  and_intros <;> first
    | decide +kernel
    | exact channelsDistinct_of_pairs (by decide +kernel)
    | (unfold QueuesDistinct; decide +kernel)

theorem witness_HeatAckMovesChannel_late_grant :
    QueuesDistinct probedWaiting ∧ (1 : Locker) ∉ probedWaiting.ranking
      ∧ (∀ h : Hatch, (probedWaiting.latch 1 h).st ≠ .haltWait) ∧ probedWaiting.mode = .operating
      ∧ unserved probedWaiting = [2] ∧ probedWaiting.energisedCount < probedWaiting.hsc.capacity
      ∧ (after (.probeComplete (acked 0x10) false) probedWaiting).map (fun t => (t.chan 0).st) = some (.onPending 2) := by
  and_intros <;> first
    | decide +kernel
    | (unfold QueuesDistinct; decide +kernel)
    | exact fun h => by cases h <;> decide +kernel

/-- A locker in a sequence whose latch waits for its relatch command's acknowledgement. -/
def relatching (life : Lifecycle) (h : Hatch) (k : RelatchKind) (tray : Bool) (e : Option ExpiryReason) : State :=
  withPort (.probe 1) (readTxn 0x10060)
    (withPaths 1 (pathPair .idle .probing)
      (withLatches 1
        (LatchPair.set { front := LatchRec.reset, rear := LatchRec.reset } h { latchRec .relatchPending k with tray := tray })
        (withCtx 1 { Context.reset with life := life, ret := .holding, collExp := e } op0)))

theorem witness_RelatchEndsCollection :
    (relatching .collecting .front .opened false none).mode = .operating
      ∧ (relatching .collecting .front .opened false none).mpi.port = some ⟨.probe 1, readTxn 0x10060⟩
      ∧ ((relatching .collecting .front .opened false none).mem.port2 (acked 0x1000)).readBeats (readTxn 0x10060) = [0x1000]
      ∧ ((relatching .collecting .front .opened false none).paths 1).heat.st ≠ .probing
      ∧ ((relatching .collecting .front .opened false none).paths 1).latch.st = .probing
      ∧ ackSeq .latch 0x1000 = ((relatching .collecting .front .opened false none).paths 1).latch.seq
      ∧ ackCode .latch 0x1000 = .ack
      ∧ ((relatching .collecting .front .opened false none).latch 1 .front).st = .relatchPending
      ∧ ((relatching .collecting .front .opened false none).latch 1 .rear).st = .latched
      ∧ ((relatching .collecting .front .opened false none).ctx 1).life = .collecting
      ∧ (relatching .collecting .front .opened false none).ringFull = false
      ∧ ((relatching .collecting .front .opened false none).latch 1 .front).kind = .opened
      ∧ ((relatching .collecting .front .opened false none).latch 1 .front).tray = false
      ∧ ((relatching .collecting .front .opened true none).latch 1 .front).tray = true
      ∧ ((relatching .collecting .front .opened true (some .coldDwell)).ctx 1).collExp = some .coldDwell
      ∧ ((relatching .collecting .front .notOpened false none).latch 1 .front).kind = .notOpened := by decide +kernel

/-- The outcomes of the rear sequences and of a withdrawn release, by the lifecycle state they leave. -/
theorem witness_RelatchEndsCollection_outcomes :
    [(Lifecycle.loading, Hatch.rear, RelatchKind.opened, true), (.loading, .rear, .opened, false),
        (.loading, .rear, .notOpened, false), (.clearing, .rear, .opened, false), (.clearing, .rear, .opened, true),
        (.clearing, .rear, .notOpened, false), (.expired, .front, .notOpened, false)].map (fun c =>
          (after (.probeComplete (acked 0x1000) false) (relatching c.1 c.2.1 c.2.2.1 c.2.2.2 none)).map
            fun t => ((t.ctx 1).life, (t.rpw.queue.map (·.kind))))
      = [some (.holding, [.loaded]), some (.loadable, [.loadEmpty]), some (.loadable, [.openTimeout]),
          some (.vacant, [.cleared]), some (.quarantine, [.quarantined]), some (.holding, [.openTimeout]),
          some (.expired, [])] := by decide +kernel

/-- A locker whose latch command is acknowledged by the next probe, one of its latches in some state. -/
def acking (st : LatchState) : State :=
  withPort (.probe 1) (readTxn 0x10060)
    (withPaths 1 (pathPair .idle .probing)
      (withLatches 1 { front := latchRec st .none, rear := LatchRec.reset } (withCode 0 1 .collecting op0)))

/-- The same in RESTORING, in the restore's relatch. -/
def restoreAcking : State :=
  { withLatches 1 { front := latchRec .relatchPending .restore, rear := latchRec .relatchPending .restore }
      (acking .relatchPending) with mode := .restoring }

theorem witness_RelatchEndsCollection_acks :
    ProbeOf 1 .latch 0x1000 (readTxn 0x10060) (acked 0x1000) (acking .unlatchPending)
      ∧ ackSeq .latch 0x1000 = ((acking .unlatchPending).paths 1).latch.seq ∧ ackCode .latch 0x1000 = .ack
      ∧ (acking .unlatchPending).ringFull = false ∧ ((acking .unlatchPending).latch 1 .front).st = .unlatchPending
      ∧ ((acking .unlatchPending).latch 1 .rear).st = .latched
      ∧ (∀ h : Hatch, ((acking .opened).latch 1 h).st ≠ .unlatchPending ∧ ((acking .opened).latch 1 h).st ≠ .relatchPending)
      ∧ restoreAcking.mode = .restoring ∧ (restoreAcking.latch 1 .front).kind = .restore
      ∧ (restoreAcking.latch 1 .rear).kind = .restore := by
  and_intros <;> first
    | decide +kernel
    | exact other_idle .latch (by decide +kernel)
    | exact fun h => by cases h <;> decide +kernel

/-- R87, R99: what an acknowledgement leaves of the latches, from UNLATCH_PENDING, from OPEN, and in the restore. -/
theorem test_latch_acks :
    [acking .unlatchPending, acking .opened, restoreAcking].map (fun s =>
        (after (.probeComplete (acked 0x1000) false) s).map fun t =>
          ((t.latch 1 .front).st, (t.latch 1 .front).openWait, (t.latch 1 .rear).st))
      = [some (.openWait, 5, .latched), some (.opened, 0, .latched), some (.latched, 0, .latched)] := by decide +kernel

/-- A frame poll of locker 1 on the M-port, its implausible count at some value. -/
def polled (k : PollKind) (n : Nat) (s : State) : State :=
  withPort (.poll k 1) (readTxn 0x1005C)
    { s with smp := { s.smp with recs := s.smp.recs.set 1 { SamplerRec.reset with implausible := n } } }

theorem witness_ImplausiblePollsQuarantine :
    (polled .frame 2 (withCode 0 1 .holding op0)).mode = .operating
      ∧ (polled .frame 2 (withCode 0 1 .holding op0)).mpi.port = some ⟨.poll .frame 1, readTxn 0x1005C⟩
      ∧ ((polled .frame 2 (withCode 0 1 .holding op0)).ctx 1).life ≠ .vacant
      ∧ ((polled .frame 2 (withCode 0 1 .holding op0)).ctx 1).life ≠ .quarantine
      ∧ 3 ≤ ((polled .frame 2 (withCode 0 1 .holding op0)).sampler 1).implausible + 1
      ∧ ((polled .frame 1 (withCode 0 1 .holding op0)).sampler 1).implausible + 1 < 3 := by decide +kernel

/-- A reading of 145 half-degrees with both hatches closed. -/
def sensed (w : Word) : List PortWrite := [⟨0x1005C, w⟩]

/-- An ASSIGNED locker under a frame poll. -/
def warming : State := polled .frame 0 (withCode 0 1 .assigned op0)

theorem witness_SampleAtThresholdMakesLoadable :
    warming.mode = .operating ∧ warming.mpi.port = some ⟨.poll .frame 1, readTxn 0x1005C⟩
      ∧ (warming.mem.port2 (sensed 0x30008D)).readBeats (readTxn 0x1005C) = [0x30008D]
      ∧ (warming.ctx 1).life = .assigned ∧ warming.bothLatched 1 = true ∧ warming.ringFull = false
      ∧ (senseOf 0x30008D).temp = 141 ∧ (warming.opts 1).load = 140 ∧ (warming.opts 1).midpoint = 145
      ∧ (warming.opts 1).upper = 160 ∧ (141 : Int) < 2 * (warming.copies.overtempC : Int)
      ∧ (warming.sampler 1).lastSeq ≠ some (senseOf 0x30008D).seq
      ∧ (senseOf 0x30008D).frontClosed = true ∧ (senseOf 0x30008D).rearClosed = true := by decide +kernel

/-- A HOLDING locker with channel 0 ON under a poll, its sampler record at some counts, the last sequence 0. -/
def judged (k : PollKind) (implausible stale : Nat) : State :=
  let s := withChan 0 { st := .on 1, stamp := 1 } (withCode 0 1 .holding op0)
  withPort (.poll k 1) (readTxn 0x1005C)
    { s with
      smp := { s.smp with
        recs := s.smp.recs.set 1 { latest := some 90, lastSeq := some 0, stale := stale, implausible := implausible } } }

theorem witness_PollsJudged :
    PollOf .frame 1 0x30012D (readTxn 0x1005C) (sensed 0x30012D) (judged .frame 2 3)
      ∧ ((judged .frame 2 3).ctx 1).life ≠ .vacant ∧ (judged .frame 2 3).bothLatched 1 = true
      ∧ (senseOf 0x30012D).frontClosed = true ∧ (senseOf 0x30012D).rearClosed = true
      ∧ (judged .frame 2 3).ringFull = false ∧ ChannelsDistinct (judged .frame 2 3)
      ∧ [pollCause .frame op0.copies ((judged .frame 2 3).sampler 1) (senseOf 0x30012D),
          pollCause .frame op0.copies ((judged .frame 1 3).sampler 1) (senseOf 0x30012D),
          pollCause .frame op0.copies ((judged .frame 2 2).sampler 1) (senseOf 0x3000C8),
          pollCause .fast op0.copies ((judged .fast 2 3).sampler 1) (senseOf 0x3000C8),
          pollCause .fast op0.copies ((judged .fast 2 3).sampler 1) (senseOf 0x300FD7),
          pollCause .frame op0.copies ((judged .frame 0 0).sampler 1) (senseOf 0x3000C7)]
        = [some .implausible, some .stale, some .overtemp, some .overtemp, none, none]
      ∧ (senseOf 0x300FD7).temp = -41 ∧ (senseOf 0x3000C8).temp = 2 * op0.copies.overtempC
      ∧ ((judged .fast 0 0).opts 1).upper = 160 ∧ (senseOf 0x3000A0).temp = 160 := by
  and_intros <;> first
    | decide +kernel
    | exact channelsDistinct_of_pairs (by decide +kernel)

/-- R151 to R154: lifecycle, reason and channel after a third implausible, a stale, an over-limit and an upper-limit
reading, and after one just below the upper limit. -/
theorem test_polls_judged :
    [(PollKind.frame, 2, 3, (0x30012D : Word)), (.frame, 1, 3, 0x30012D), (.fast, 0, 0, 0x3000C8), (.fast, 0, 0, 0x3000A0),
        (.fast, 0, 0, 0x30009F)].map (fun c =>
          (after (pollComplete c.1 (sensed c.2.2.2) false) (judged c.1 c.2.1 c.2.2.1)).map fun t =>
            ((t.ctx 1).life, (t.ctx 1).reason, (t.chan 0).st))
      = [some (.quarantine, .implausible, .offPending 1), some (.quarantine, .stale, .offPending 1),
          some (.quarantine, .overtemp, .offPending 1), some (.holding, .none, .offPending 1),
          some (.holding, .none, .on 1)] := by decide +kernel

/-- A HOLDING locker under a frame poll, posted already or not. -/
def holdingPolled (hq : List Locker) : State :=
  let s := polled .frame 0 (withCode 0 1 .holding op0)
  { s with hsc := { s.hsc with hq := hq } }

/-- A reading below the midpoint posts, and the late grant serves; one at the midpoint takes the entry out. -/
theorem witness_SamplePosts :
    ChannelsDistinct (holdingPolled []) ∧ QueuesDistinct (holdingPolled []) ∧ ((holdingPolled []).ctx 1).life = .holding
      ∧ (1 : Locker) ∉ (holdingPolled []).ranking ∧ (144 : Int) < ((holdingPolled []).opts 1).midpoint
      ∧ (after (.framePollComplete (sensed 0x300090) false) (holdingPolled [])).map
          (fun t => (t.hsc.hq, (t.chan 0).st)) = some ([1], .onPending 1)
      ∧ (after (.framePollComplete (sensed 0x300091) false) (holdingPolled [1])).map (fun t => t.hsc.hq) = some []
      ∧ (139 : Int) < (warming.opts 1).load ∧ (1 : Locker) ∉ warming.ranking
      ∧ (after (.framePollComplete (sensed 0x30008B) false) warming).map (fun t => (t.hsc.wq, (t.chan 0).st))
          = some ([1], .onPending 1) := by
  and_intros <;> first
    | decide +kernel
    | exact channelsDistinct_of_pairs (by decide +kernel)
    | (unfold QueuesDistinct; decide +kernel)

/-- A locker under a fast poll, one of its latches in some state. -/
def watched (life : Lifecycle) (h : Hatch) (st : LatchState) (k : RelatchKind) : State :=
  polled .fast 0
    (withLatches 1 (LatchPair.set { front := LatchRec.reset, rear := LatchRec.reset } h (latchRec st k)) (withCode 0 1 life op0))

theorem witness_FastPollFollowsTheHatch :
    (watched .collecting .front .openWait .none).mode = .operating
      ∧ (watched .collecting .front .openWait .none).mpi.port = some ⟨.poll .fast 1, readTxn 0x1005C⟩
      ∧ ((watched .collecting .front .openWait .none).mem.port2 (sensed 0x200091)).readBeats (readTxn 0x1005C) = [0x200091]
      ∧ ((watched .collecting .front .openWait .none).ctx 1).life ≠ .vacant
      ∧ (watched .collecting .front .openWait .none).ringFull = false
      ∧ ((watched .collecting .front .openWait .none).latch 1 .rear).st = .latched
      ∧ closedAt (senseOf 0x200091) .rear = true ∧ closedAt (senseOf 0x200091) .front = false
      ∧ closedAt (senseOf 0x100091) .rear = false ∧ closedAt (senseOf 0x30012D) .front = true
      ∧ (senseOf 0x200091).temp < 2 * (op0.copies.overtempC : Int) ∧ 300 < (senseOf 0x30012D).temp
      ∧ ((watched .expired .front .relatchPending .notOpened).latch 1 .front).kind = .notOpened := by decide +kernel

/-- An opening, a late one, a reopening, a closing, and forced hatches, front and rear: the latch state and the lifecycle
state they leave, and the reports. -/
theorem witness_FastPollFollowsTheHatch_outcomes :
    [(Lifecycle.collecting, Hatch.front, LatchState.openWait, RelatchKind.none, (0x200091 : Word)),
        (.expired, .front, .relatchPending, .notOpened, 0x200091), (.clearing, .rear, .relatchPending, .opened, 0x100091),
        (.loading, .rear, .opened, .none, 0x30012D), (.holding, .rear, .latched, .none, 0x100091),
        (.clearing, .rear, .unlatchPending, .none, 0x100091), (.quarantine, .front, .latched, .none, 0x200091)].map
        (fun c => (after (.fastPollComplete (sensed c.2.2.2.2) false) (watched c.1 c.2.1 c.2.2.1 c.2.2.2.1)).map
          fun t => ((t.latch 1 c.2.1).st, (t.ctx 1).life, (t.rpw.queue.map (·.kind))))
      = [some (.opened, .collecting, []), some (.opened, .collecting, []), some (.opened, .clearing, []),
          some (.relatchPending, .loading, []), some (.latched, .quarantine, [.forced, .quarantined]),
          some (.opened, .quarantine, [.forced, .quarantined]), some (.latched, .quarantine, [.forced])] := by
  decide +kernel

/-- R88, R95, R97: a frame poll that finds the front hatch of a HOLDING locker open behind a LATCHED latch. -/
theorem witness_FastPollFollowsTheHatch_frame :
    PollOf .frame 1 0x201091 (readTxn 0x1005C) (sensed 0x201091) (judged .frame 0 0)
      ∧ (∀ g : Hatch, g ≠ .front →
          ((judged .frame 0 0).latch 1 g).st = .latched ∧ closedAt (senseOf 0x201091) g = true)
      ∧ closedAt (senseOf 0x201091) .front = false
      ∧ pollCause .frame op0.copies ((judged .frame 0 0).sampler 1) (senseOf 0x201091) = none
      ∧ ((judged .frame 0 0).latch 1 .front).st = .latched ∧ ((judged .frame 0 0).latch 1 .front).note = false
      ∧ (after (.framePollComplete (sensed 0x201091) false) (judged .frame 0 0)).map
          (fun t => ((t.latch 1 .front).note, (t.ctx 1).reason, (t.rpw.queue.map (·.kind))))
        = some (true, .forced, [.forced, .quarantined]) := by
  and_intros <;> first
    | decide +kernel
    | exact fun g h => by cases g <;> first | exact absurd rfl h | decide +kernel

/-- A record of the kind READY. -/
def ready0 : Record := { kind := .ready, locker := 1, detail := 0, order := 0, time := 0, data := 0 }

theorem witness_RingLandingsAdvanceTheRing :
    (withPort .ringRecord (writeTxn 0x20010 ready0.words) { op0 with rpw := { op0.rpw with queue := [ready0] } }).rpw.queue
        = ready0 :: []
      ∧ { op0 with rpw := { op0.rpw with op := RingOp.indexFly .ready } }.rpw.op = .indexFly .ready
      ∧ (withPort .ringWriteIndex (writeTxn 0x20000 [1]) op0).mpi.port = some ⟨.ringWriteIndex, writeTxn 0x20000 [1]⟩
      ∧ rs0.rpw.op = .idle ∧ rs0.rpw.adopted = false
      ∧ (withPort .ringStatus (writeTxn 0x20008 [0]) op0).mpi.port = some ⟨.ringStatus, writeTxn 0x20008 [0]⟩
      ∧ op0.rpw.adopted = true ∧ op0.rpw.queue = [] ∧ op0.rpw.statusMark = false
      ∧ { op0 with cpi := Cpi.held (readTxn 0x20000) false true true }.cpi = .held (readTxn 0x20000) false true true
      ∧ op0.mrw.promo = [] ∧ op0.mode = .operating ∧ (readTxn 0x20000).write = false
      ∧ (readTxn 0x20000).touchesRing op0.copies = true := by decide +kernel

/-- The end of an append, at 13 or 14 unread records of the 15 that the ring can hold, with two records left. -/
def appended (write lost : Nat) (overrun mark : Bool) : State :=
  withPort .ringWriteIndex (writeTxn 0x20000 [2])
    { op0 with
      rpw := { op0.rpw with
        op := .indexFly .ready, read := 0, write := write, lost := lost, overrun := overrun, statusMark := mark,
        queue := [ready0, ready0] } }

theorem witness_FullRingDrops :
    (appended 14 254 false false).mpi.port = some ⟨.ringWriteIndex, writeTxn 0x20000 [2]⟩
      ∧ (appended 14 254 false false).rpw.op = .indexFly .ready ∧ (appended 14 254 false false).rpw.adopted = true
      ∧ (appended 14 254 false false).mode = .operating ∧ (appended 14 254 false false).ringReadStands = false
      ∧ (appended 14 254 false false).rpw.queue ≠ []
      ∧ [appended 13 254 false false, appended 14 254 false false, appended 14 255 true false, appended 14 0 false true].map
          (fun s => (after .writeIndexLand s).map fun t =>
            (t.rpw.op, t.rpw.queue.length, t.rpw.lost, t.rpw.overrun, t.rpw.statusMark))
        = [some (.recordReq, 2, 254, false, false), some (.statusReq, 0, 255, true, true),
            some (.idle, 0, 255, true, false), some (.statusReq, 2, 0, false, true)] := by decide +kernel

/-- RPW's operation at some point, with some records in the queue, the ring full. -/
def reporting (op : RingOp) (n lost : Nat) : State :=
  { op0 with rpw := { op0.rpw with op := op, read := 0, write := 15, lost := lost, queue := List.replicate n ready0 } }

theorem witness_HandOffMeetsTheRing :
    Ready (reporting .recordReq 3 0) ∧ (reporting .recordReq 3 0).rpw.adopted = true
      ∧ causeOf (reporting .recordReq 3 0) (writeTxn 0x30000 [0]) ((writeTxn 0x30000 [0]).beatAddr 0) = some .guard
      ∧ (reporting .idle 0 0).ringFull = true ∧ (reporting .idle 0 0).rpw.statusMark = false
      ∧ [reporting .recordReq 3 0, reporting .recordReq 4 0, reporting .recordReq 4 255, reporting .idle 0 0].map
          (fun s => (after (.controllerWrite 0x30000 0xF [0]) s).map fun t =>
            (t.rpw.op, t.rpw.queue.length, t.rpw.lost, t.rpw.overrun, t.rpw.statusMark))
        = [some (.recordReq, 4, 0, false, false), some (.recordReq, 4, 1, true, true),
            some (.recordReq, 4, 255, true, true), some (.statusReq, 0, 1, true, true)] := by decide +kernel

theorem witness_ProbeIntervalMakesLockersDue :
    op0.tmb.probe ≠ none ∧ (1 : Locker).val < (probed 0 0 0).copies.lockerCount ∧ (probed 0 0 0).probing 1 = true
      ∧ busy.mode = .operating ∧ (2 : Locker).val < busy.copies.lockerCount ∧ busy.smp.fastPoll[(2 : Nat)] = true := by
  decide +kernel

/-- Lockers 1 and 4 with their heat paths PROBING, lockers 0 and 3 in a latch sequence, all positions at 2, a sweep that
lists locker 2. -/
def attended (toggle : PollKind) (sweep : Option (List Locker)) : State :=
  let s := withPaths 1 (pathPair .probing .idle) (withPaths 4 (pathPair .probing .idle) (withCode 0 2 .holding op0))
  { s with
    ahu := { s.ahu with probePos := 2 },
    smp := { s.smp with fastPoll := (s.smp.fastPoll.set 0 true).set 3 true, fastPos := 2, toggle := toggle, sweep := sweep } }

theorem witness_IntervalMakesDue :
    (attended .frame (some [0, 2])).tmb.probe ≠ none ∧ (attended .frame (some [0, 2])).mode = .operating
      ∧ (attended .frame (some [0, 2])).ahu.req = none ∧ (attended .frame (some [0, 2])).probeFlying = false
      ∧ FirstFrom 5 (fun l => (attended .frame none).probing l = true) 2 4
      ∧ FirstFrom 5 (fun l => (attended .frame none).smp.fastDue[l.val] = true
          ∨ (attended .frame none).smp.fastPoll[l.val] = true) 2 3
      ∧ (attended .frame (some [0, 2])).smp.req = none ∧ (attended .frame (some [0, 2])).pollFlying = false
      ∧ ((attended .frame none).ctx 0).life = .vacant ∧ ((attended .frame none).ctx 2).life ≠ .vacant
      ∧ [attended .frame (some [0, 2]), attended .fast (some [0, 2]), attended .frame none].map
          (fun s => (after .probeInterval s).map fun t => (t.ahu.req, t.smp.req, t.smp.toggle, t.smp.fastPos))
        = [some (some 4, some (.frame, 2), .fast, 2), some (some 4, some (.fast, 3), .frame, 4),
            some (some 4, some (.fast, 3), .frame, 4)] := by
  and_intros <;> decide +kernel

/-- The same with the locker's request standing, the M-port free and its pointer at the requester. -/
def attendedAsking (probe : Option Locker) (poll : Option (PollKind × Locker)) (pointer : Requester) : State :=
  let s := attended .frame none
  { s with
    ahu := { s.ahu with req := probe, due := (s.ahu.due.set 1 true).set 4 true },
    smp := { s.smp with req := poll, fastDue := s.smp.fastDue.set 3 true }, mpi := { pointer := pointer, port := none } }

theorem witness_GrantEndsDue :
    nextGrant (attendedAsking (some 4) none .ahu) = some (.ahu, ⟨.probe 4, readTxn 0x10120⟩)
      ∧ nextGrant (attendedAsking none (some (.fast, 3)) .smp) = some (.smp, ⟨.poll .fast 3, readTxn 0x100DC⟩)
      ∧ (attendedAsking (some 4) none .ahu).mpi.port = none := by decide +kernel

/-- A probe of locker 2 is on the M-port, its command superseded; lockers 1 and 4 are due, and locker 1's command has been
superseded as well. -/
def superseded : State :=
  withPaths 1 (pathPair .writing .idle) (withPort (.probe 2) (readTxn 0x100A0) (attendedAsking none none .fwd))

/-- R132, log 33: locker 4 is probed next, and locker 1 is due no more. -/
theorem witness_ProbesGoRound :
    superseded.mode = .operating ∧ superseded.mpi.port = some ⟨.probe 2, readTxn 0x100A0⟩ ∧ superseded.probing 2 = false
      ∧ superseded.ahu.req = none ∧ superseded.ahu.due[1] = true
      ∧ FirstFrom 5 (fun k => superseded.ahu.due[k.val] = true ∧ superseded.probing k = true) 2 4
      ∧ (after (.probeComplete [] false) superseded).map (fun t => (t.ahu.req, t.ahu.due[1], t.ahu.due[4]))
        = some (some 4, false, true) := by decide +kernel

/-- Locker 1 energised with no entry, lockers 2 and 4 posted for holding heat, locker 3 for warming up. -/
def rationed (capacity : Nat) : State :=
  withChan 0 { st := .on 1, stamp := 1 } <|
  withCtx 1 { Context.reset with life := .holding } <| withCtx 2 { Context.reset with life := .holding } <|
  withCtx 3 { Context.reset with life := .assigned } <| withCtx 4 { Context.reset with life := .holding }
    { op0 with hsc := { op0.hsc with hq := [2, 4], wq := [3], capacity := capacity } }

theorem witness_FrameStartRationsHeat :
    busy.mode = .operating ∧ busy.tmb.frame ≠ none ∧ ChannelsDistinct busy ∧ QueuesDistinct busy
      ∧ (polled .frame 0 op0).pollFlying = true
      ∧ { op0 with smp := { op0.smp with sweep := some [1] } }.smp.sweep ≠ none ∧ busy.ringFull = false
      ∧ ChannelsDistinct (rationed 2) ∧ QueuesDistinct (rationed 2) ∧ (walkRanking (rationed 2)).2 = [2]
      ∧ (walkRanking (rationed 1)).2.length = (rationed 1).hsc.capacity := by
  and_intros <;> first
    | decide +kernel
    | exact busy_channels
    | (unfold QueuesDistinct; decide +kernel)
    | exact channelsDistinct_of_pairs (by decide +kernel)

/-- One channel is FREE below Cmax: locker 2 has it, locker 4's entry stays with a granted count below the capacity, so that
no overrun is judged; at capacity 1 it is. -/
theorem test_frame_start_overrun :
    (after .frameStart (rationed 2)).map (fun t => (t.hsc.hq, t.hsc.wq, (t.chan 0).st, (t.chan 1).st, t.hsc.overrun))
        = some ([4], [3], .offPending 1, .onPending 2, false)
      ∧ (after .frameStart (rationed 1)).map (fun t => (t.hsc.overrun, t.rpw.queue.map (·.kind)))
          = some (true, [.holdOverrun]) := by decide +kernel

/-- A HOLDING locker with some counts, its latest valid sample at 100 half-degrees. -/
def timed (hold cold : Nat) : State :=
  withCtx 1 { Context.reset with life := .holding, hold := hold, cold := cold }
    { op0 with smp := { op0.smp with recs := op0.smp.recs.set 1 { SamplerRec.reset with latest := some 100 } } }

theorem witness_SecondsEventCountsHolding :
    (timed 58 18).tmb.second ≠ none ∧ (1 : Locker).val < (timed 58 18).copies.lockerCount
      ∧ ((timed 58 18).ctx 1).life = .holding
      ∧ ¬ holdReached (timed 58 18) 1 (timesCounted (timed 58 18) 1)
      ∧ ¬ coldReached (timed 58 18) 1 (timesCounted (timed 58 18) 1)
      ∧ (timesCounted (timed 58 18) 1).hold = 59 ∧ (timesCounted (timed 58 18) 1).cold = 19
      ∧ ((withCtx 1 { Context.reset with life := .collecting, hold := 59, collExp := some .holdLimit } op0).ctx 1).collExp
          ≠ none
      ∧ (lockoutCounted { Context.reset with lockedOut := true, lockoutLeft := 2 }).lockoutLeft = 1
      ∧ (lockoutCounted { Context.reset with lockedOut := true, lockoutLeft := 1, attempts := 2 }) = Context.reset
      ∧ (busy.ctx 2).life ≠ .holding ∧ (busy.ctx 2).life ≠ .collecting ∧ (busy.ctx 2).lockedOut = false := by
  decide +kernel

/-- The same collecting, its front latch in some state. -/
def timedOut (st : LatchState) (k : RelatchKind) : State :=
  withLatches 1 { front := latchRec st k, rear := LatchRec.reset }
    (withCtx 1 { Context.reset with life := .collecting, ret := .holding, hold := 59 } op0)

theorem witness_ExpiryEndsHolding :
    (1 : Locker).val < (timed 59 18).copies.lockerCount ∧ ((timed 59 18).ctx 1).life = .holding
      ∧ (timed 59 18).ringFull = false ∧ ChannelsDistinct (timed 59 18)
      ∧ holdReached (timed 59 18) 1 (timesCounted (timed 59 18) 1)
      ∧ coldReached (timed 58 19) 1 (timesCounted (timed 58 19) 1)
      ∧ ¬ holdReached (timed 58 19) 1 (timesCounted (timed 58 19) 1)
      ∧ ((timedOut .opened .none).ctx 1).life = .collecting ∧ ((timedOut .opened .none).ctx 1).collExp = none
      ∧ holdReached (timedOut .opened .none) 1 (timesCounted (timedOut .opened .none) 1)
      ∧ ChannelsDistinct (timedOut .opened .none) ∧ ((timedOut .openWait .none).latch 1 .rear).st = .latched := by
  and_intros <;> first | decide +kernel | exact channelsDistinct_of_pairs (by decide +kernel)

/-- Each front latch with which a COLLECTING locker expires: the state it goes to, the lifecycle state, the reports. -/
theorem witness_ExpiryEndsHolding_collecting :
    [(LatchState.opened, RelatchKind.none), (.relatchPending, .opened), (.haltWait, .none), (.openWait, .none),
        (.relatchPending, .notOpened), (.latched, .none)].map (fun c =>
          (after (.expiry 1) (timedOut c.1 c.2)).map fun t =>
            ((t.latch 1 .front).st, (t.ctx 1).life, (t.rpw.queue.map fun r => (r.kind, r.detail))))
      = [some (.opened, .collecting, [(.expired, 257)]), some (.relatchPending, .collecting, [(.expired, 257)]),
          some (.latched, .expired, [(.expired, 1), (.collectWithdrawn, 6)]),
          some (.relatchPending, .expired, [(.expired, 1), (.collectWithdrawn, 6)]),
          some (.relatchPending, .expired, [(.expired, 1), (.collectWithdrawn, 6)]),
          some (.latched, .expired, [(.expired, 1)])] := by decide +kernel

theorem witness_SecondsRunOut :
    (1 : Locker).val < op0.copies.lockerCount ∧ op0.ringFull = false
      ∧ ((withCtx 1 { Context.reset with lockedOut := true, lockoutLeft := 1 } op0).ctx 1).lockoutLeft ≤ 1
      ∧ ((withCtx 1 { Context.reset with lockedOut := true, lockoutLeft := 1 } op0).ctx 1).lockedOut = true
      ∧ ((watched .collecting .front .openWait .none).latch 1 .front).st = .openWait ∧ ((watched .collecting .front .openWait .none).latch 1 .front).openWait ≤ 1
      ∧ ((withLatches 1 { front := LatchRec.reset, rear := { latchRec .opened .none with hatchHeld := 1 } } op0).latch 1
          .rear).hatchHeld = 1 := by decide +kernel

theorem witness_CrossingSetsTimers : op0.mode = .operating ∧ rs0.mode = .restoring ∧ op0.sup.st = .normal := by decide +kernel

/-- A supply state with its timers. -/
def supplied (st : Supply) (shedTrip cutTrip shedRelease cutRelease : Option Nat) : State :=
  { op0 with
    sup := { st := st, shedTrip := shedTrip, cutTrip := cutTrip, shedRelease := shedRelease, cutRelease := cutRelease } }

theorem witness_CompletionsChangeSupply :
    op0.ringFull = false ∧ busy.energisedCount ≤ busy.hsc.capacity ∧ (supplied .normal (some 20) (some 19) none none).sup.st = .normal
      ∧ (∃ e, (supplied .normal (some 20) none none none).sup.shedTrip = some e
          ∧ (supplied .normal (some 20) none none none).sup.cutTrip = none ∧ e = 20)
      ∧ (supplied .normal (some 5) (some 5) none none).sup.cutTrip = some 5
      ∧ (supplied .shed none (some 5) none none).sup.cutTrip ≠ none
      ∧ (supplied .shed none none (some 5) none).sup.shedRelease ≠ none
      ∧ (supplied .cut none none none (some 5)).sup.cutRelease ≠ none ∧ op0.sup.shedTrip = none := by
  refine ⟨by decide +kernel, by decide +kernel, rfl, ⟨20, rfl, rfl, rfl⟩, rfl, by decide +kernel, by decide +kernel,
    by decide +kernel, rfl⟩

/-- Lockers 1 and 3 energised, 1 HOLDING by the later grant, 3 warming up; locker 2 waiting. -/
def shedding (st : Supply) (capacity : Nat) : State :=
  withChan 0 { st := .on 1, stamp := 2 } <| withChan 1 { st := .on 3, stamp := 1 } <|
  withCtx 1 { Context.reset with life := .holding } <| withCtx 3 { Context.reset with life := .assigned }
    { supplied st (some 5) none (some 5) (some 5) with hsc := { op0.hsc with capacity := capacity, grants := 2 } }

theorem witness_CompletionsChangeSupply_capacity :
    ChannelsDistinct (shedding .normal 2) ∧ QueuesDistinct (shedding .normal 2)
      ∧ (shedding .normal 2).energisedCount ≤ (shedding .normal 2).hsc.capacity
      ∧ (shedding .normal 2).copies.cshed < (shedding .normal 2).hsc.capacity
      ∧ (after .shedTrip (shedding .normal 2)).map (fun t => ((t.chan 0).st, (t.chan 1).st))
          = some (.on 1, .offPending 3)
      ∧ HaltedAhead (shedding .normal 2) 1 0 ∧ ¬ HaltedAhead (shedding .normal 2) 0 1
      ∧ (probedWaiting.hsc.capacity = 2 ∧ unserved probedWaiting = [2]) := by
  and_intros <;> first
    | decide +kernel
    | exact channelsDistinct_of_pairs (by decide +kernel)
    | (unfold QueuesDistinct; decide +kernel)

/-- R119: at a rise to Cmax locker 2, which waits in the warm-up queue, is granted the FREE channel. -/
theorem test_capacity_increase :
    (after .shedRelease
        { op0 with
          sup := { op0.sup with st := .shed, shedRelease := some 5 }, hsc := { op0.hsc with capacity := 0, wq := [2] },
          lke := op0.lke.set 2 { Context.reset with life := .assigned } }).map (fun t => (t.hsc.capacity, (t.chan 0).st))
      = some (2, .onPending 2) := by decide +kernel

/-- R147: a locker cancelled while a poll flies leaves the running sweep's list, and assigning it again does not put it
back. -/
theorem test_sweep_strikes_vacant :
    let s : State := withPort (.poll .fast 2) (readTxn 0x1009C)
      { withCode 0x22 1 .assigned op0 with smp := { op0.smp with sweep := some [0, 1, 2] } }
    ((after (.cancel 0x10040 0 0 0) s).bind fun t => after (.assign 0x10040 0 2 0)
        { t with cpi := .idle, lke := t.lke.set 1 { t.ctx 1 with presCode := 7 } }).map
          (fun t => ((t.ctx 1).life, t.smp.sweep))
      = some (.assigned, some [0, 2]) := by decide +kernel

theorem witness_MaintenanceOperations :
    op0.mode ≠ .inReset ∧ (63 : BitVec 8).toNat < 64 ∧ 64 ≤ (64 : BitVec 8).toNat ∧ op0.mode ≠ .validating
      ∧ State.reset.store[(63 : Nat)] = 0xFFFFFFFF ∧ store0[(0 : Nat)] ≠ 0xFFFFFFFF ∧ opInvalid 4 = true := by
  decide +kernel

theorem witness_StoreLockHidesStaffCodes :
    op0.mode ≠ .inReset ∧ op0.mode ≠ .validating ∧ op0.store[(62 : Nat)] = 0xFFFFFFFF
      ∧ { op0 with store := store0.set 62 0 }.storeLocked = true ∧ 26 ≤ (26 : BitVec 8).toNat
      ∧ (33 : BitVec 8).toNat ≤ 33
      ∧ (after (.maintErase true 0) { op0 with store := store0.set 62 0 }).map State.storeLocked = some false := by
  decide +kernel

theorem witness_LinesFollowTheState :
    { State.reset with mode := .unconfigured }.mode = .unconfigured ∧ State.reset.mode = .inReset
      ∧ busy.mode = .operating ∧ QuarantineCounted busy ∧ LostChannelsCounted busy := by
  unfold QuarantineCounted LostChannelsCounted; decide +kernel

end Sys2Proof.Tests
end

section
/-! PROOFS. The bus passage for an ordinary write: no cause, no capture, no ring word; it is forwarded as it
came (R5, R8, R23). With it, what an arrival in OPERATING and a forwarded transaction leave alone. -/

namespace Sys2Proof.Machine

/-! ### Beats and their causes -/

@[simp] theorem wordAddr_wordAddr (a : Addr) : wordAddr (wordAddr a) = wordAddr a := by
  simp [wordAddr, BitVec.and_assoc]

theorem GuardWindow.contains_wordAddr (g : GuardWindow) (a : Addr) : g.contains (wordAddr a) = g.contains a := by
  unfold GuardWindow.contains
  rw [wordAddr_wordAddr]

/-- The class of an address is that of its word (R4). -/
theorem classify_wordAddr (c : Copies) (a : Addr) : classify c (wordAddr a) = classify c a := by
  simp only [classify, GuardWindow.contains_wordAddr, wordAddr_wordAddr]

theorem Txn.beats_of_singleFull {x : Txn} (h : x.singleFull = true) : x.beats = [wordAddr x.addr] := by
  obtain ⟨len, -⟩ : x.len = 1 ∧ x.lanes = 0xF := by simpa [Txn.singleFull] using h
  simp [Txn.beats, Txn.beatAddr, len]

theorem causeOf_operating {s : State} (h : s.mode = .operating) (x : Txn) (a : Addr) :
    causeOf s x a = causeOperating s x a := by simp [causeOf, h]

theorem causeOperating_of_guard {s : State} {a : Addr} (h : classify s.copies a = .guard) (x : Txn) :
    causeOperating s x a = some .guard := by simp [causeOperating, h]

theorem causeOperating_of_pass {s : State} {a : Addr} (h : classify s.copies a = .pass) (x : Txn) :
    causeOperating s x a = none := by simp [causeOperating, h]

/-- No cause governs a write exactly when no beat shows one (R5). -/
theorem governing_eq_none_iff {s : State} {x : Txn} :
    governing s x = none ↔ ∀ a ∈ x.beats, causeOf s x a = none := by
  have listed (c : Cause) : c ∈ causeOrder := by cases c <;> decide
  simp only [governing, List.findSome?_eq_none_iff, Option.map_eq_none_iff, List.find?_eq_none, decide_eq_true_eq]
  constructor
  · intro h a ha
    cases hc : causeOf s x a with
    | none => rfl
    | some c => exact absurd hc (h c (listed c) a ha)
  · intro h c _ a ha
    simp [h a ha]

/-! ### A write that shows no cause -/

/-- The classes of which a write is forwarded unchanged and nothing is captured: passthrough, and words 9 to 15 of records
(R6, R8). -/
def BeatClass.Ordinary (b : BeatClass) : Prop := b = .pass ∨ ∃ l cell, b = .ltw l cell ∧ 9 ≤ cell.val

/-- A write is forwarded unchanged unless it is a single full one of a word that the part takes (R6, R7). -/
theorem takeWrite_of_ordinary {x : Txn} {s : State}
    (h : x.singleFull = true → (classify s.copies x.addr).Ordinary) : takeWrite x s = forward x .none s := by
  unfold takeWrite
  cases full : x.singleFull with
  | false => rfl
  | true =>
    obtain pass | ⟨l, cell, table, high⟩ := h full
    · simp [pass]
    · rw [table]
      split <;> simp_all

theorem decideWrite_of_clean {x : Txn} {s : State} (mode : s.mode = .operating)
    (clean : ∀ a ∈ x.beats, causeOf s x a = none) : decideWrite x s = takeWrite x s := by
  simp [decideWrite, governing_eq_none_iff.mpr clean, mode]

/-- A write that arrives in OPERATING is decided at once; the answer before it no longer stands (R2, R5). -/
theorem arrive_write {x : Txn} {s : State} (mode : s.mode = .operating) (write : x.write = true) :
    arrive x s = decideWrite x { s with answer := none } := by
  simp [arrive, decideTxn, mode, write]

/-! ### What follows a forwarded transaction -/

/-- With a transaction waiting for its grant no hold is released, and CPI stands. -/
theorem settle_of_waiting {s : State} {x : Txn} {e : LandEffect} (h : s.cpi = .waiting x e) :
    Within [.turns, .due, .sweep, .queue, .ringOp] s (settle s) := by
  have holds : releaseHolds s = s := by simp [releaseHolds, h]
  unfold settle
  rw [holds]
  cases s.mode with
  | inReset | validating | unconfigured => exact .refl
  | restoring => exact (mrwSettle_within.widen.next ahuSettle_within).next rpwSettle_within
  | operating => exact ((mrwSettle_within.widen.next ahuSettle_within).next smpSettle_within).next rpwSettle_within

theorem settle_forward_cpi (x : Txn) (e : LandEffect) (s : State) :
    (settle (forward x e s)).cpi = .waiting x e :=
  ((settle_of_waiting (s := forward x e s) rfl).cpi (by decide)).1

/-- A transaction forwarded at its arrival touches no more than what follows every event: CPI, turns, requests, and RPW's
queue, which a full ring empties (R175). -/
theorem settle_forward_within (x : Txn) (e : LandEffect) (s : State) :
    Within settleParts s (settle (forward x e { s with answer := none })) :=
  (cpi_within.widen.next forward_within).next settle_within

/-! ### From the parts left alone to the words of the statements -/

section
variable {bs : List Part} {s t : State} (h : Within bs s t)
include h

theorem Within.outsideKept (ops : Part.ops ∉ bs) (mem : Part.mem ∉ bs) : OutsideKept s t := by
  obtain ⟨mode, cause, store, copies, restore, feed, maint⟩ := h.ops ops
  exact ⟨h.pending, mode, cause, store, copies, restore, feed, maint, fun a => by rw [h.mem mem]⟩

theorem Within.clockKept (tmb : Part.tmb ∉ bs) (sup : Part.sup ∉ bs) : ClockKept s t := ⟨h.tmb tmb, h.sup sup⟩

theorem Within.lockersKept (lke : Part.lke ∉ bs) (ltc : Part.ltc ∉ bs) : LockersKept s t := ⟨h.lke lke, h.ltc ltc⟩

theorem Within.hsc_eq (chans : Part.chans ∉ bs) (entries : Part.entries ∉ bs) (limit : Part.limit ∉ bs) :
    t.hsc = s.hsc := by
  obtain ⟨hchans, hgrants⟩ := h.chans chans
  obtain ⟨hhq, hwq⟩ := h.entries entries
  obtain ⟨hcapacity, hoverrun⟩ := h.limit limit
  cases ht : t.hsc
  cases hs : s.hsc
  simp_all

theorem Within.heatKept (chans : Part.chans ∉ bs) (entries : Part.entries ∉ bs) (limit : Part.limit ∉ bs)
    (paths : Part.paths ∉ bs) : HeatKept s t := ⟨h.hsc_eq chans entries limit, h.paths paths⟩

theorem Within.samplesKept (recs : Part.recs ∉ bs) (fast : Part.fast ∉ bs) : SamplesKept s t :=
  ⟨h.recs recs, (h.fast fast).1⟩

theorem Within.ringKept (ring : Part.ring ∉ bs) (counts : Part.counts ∉ bs) : RingKept s t := by
  obtain ⟨adopted, write, read, attention, mask, -⟩ := h.ring ring
  obtain ⟨quarantined, lostChannels⟩ := h.counts counts
  exact ⟨adopted, write, read, attention, mask, quarantined, lostChannels⟩

end

/-! ### The row -/

/-- A write presented in OPERATING while CPI is IDLE arrives, and what follows it follows. -/
theorem exec_controllerWrite {s : State} {addr : Addr} {lanes : BitVec 4} {data : List Word} (ready : Ready s)
    (form : beatsOk data.length = true) :
    exec (.controllerWrite addr lanes data) s =
      .next (settle (arrive { write := true, addr := addr, lanes := lanes, len := data.length, data := data } s)) := by
  obtain ⟨mode, idle⟩ := ready
  simp [exec, execControllerWrite, present, done, form, mode, idle]

/-- A single full write with a passthrough beat, or with all its beats words 9 to 15 of records, is of an ordinary class at
its address. -/
theorem classify_addr_ordinary {c : Copies} {x : Txn}
    (h : (∃ a ∈ x.beats, classify c a = .pass) ∨ ∀ a ∈ x.beats, ∃ l cell, classify c a = .ltw l cell ∧ 9 ≤ cell.val)
    (full : x.singleFull = true) : (classify c x.addr).Ordinary := by
  simpa [Txn.beats_of_singleFull full, classify_wordAddr, BeatClass.Ordinary] using h

/-- Settles O22: a beat's class decides its cause; with no cause and no word that the part takes, the write is forwarded as
it came, and what follows the arrival reaches only requests, turns and RPW's queue. -/
theorem ordinaryWriteIsForwarded : Obligations.OrdinaryWriteIsForwarded := by
  intro s addr lanes data ready form x
  refine ⟨fun a guard => ?_, fun a pass => ?_, fun clean ordinary => ?_⟩
  · rw [causeOf_operating ready.1, causeOperating_of_guard guard]
  · rw [causeOf_operating ready.1, causeOperating_of_pass pass]
  · have arrives : arrive x s = forward x .none { s with answer := none } := by
      rw [arrive_write ready.1 rfl, decideWrite_of_clean (s := { s with answer := none }) ready.1 clean]
      exact takeWrite_of_ordinary (classify_addr_ordinary ordinary)
    have kept := settle_forward_within x .none s
    refine ⟨_, by rw [exec_controllerWrite ready form, arrives], settle_forward_cpi .., ?_⟩
    exact ⟨kept.outsideKept (by decide) (by decide), kept.clockKept (by decide) (by decide),
      kept.lockersKept (by decide) (by decide), kept.heatKept (by decide) (by decide) (by decide) (by decide),
      kept.samplesKept (by decide) (by decide), kept.marks (by decide), kept.ringKept (by decide) (by decide)⟩

end Sys2Proof.Machine
end

section
/-! PROOFS. The command evaluator's outcome: the tests of R64 in their order, and the match with the staff table under its
masks (R64, R66 to R71). -/

namespace Sys2Proof.Machine

/-! ### The staff table -/

/-- Two words agree under a mask when they agree in each bit where it holds 1. -/
theorem xor_and_eq_zero_iff (a b mask : Word) :
    (a ^^^ b) &&& mask = 0#32 ↔ ∀ i : Nat, i < 32 → mask.getLsbD i = true → a.getLsbD i = b.getLsbD i := by
  have bits : (a ^^^ b) &&& mask = 0#32 ↔ ∀ i < 32, ((a ^^^ b) &&& mask).getLsbD i = false :=
    ⟨fun h => by simp [h], fun h => BitVec.eq_of_getLsbD_eq fun i hi => by simpa using h i hi⟩
  rw [bits]
  refine forall₂_congr fun i _ => ?_
  rw [BitVec.getLsbD_and, BitVec.getLsbD_xor]
  cases mask.getLsbD i <;> simp

theorem StaffEntry.matchesCode_iff (e : StaffEntry) (code : Word) :
    e.matchesCode code = true ↔ e.enabled = true
      ∧ ∀ i : Nat, i < 32 → e.mask.getLsbD i = true → code.getLsbD i = e.code.getLsbD i := by
  simp [StaffEntry.matchesCode, xor_and_eq_zero_iff]

/-- A code matches the table when it matches one of the four entries (R71). -/
theorem State.staffMatch_iff (s : State) (code : Word) :
    s.staffMatch code = true ↔ ∃ e : Fin 4, (s.copies.staff[e.val]).matchesCode code = true := by
  simp [State.staffMatch, Vector.any_eq_true, Fin.exists_iff]

/-! ### The kind and the running sequence -/

/-- The kinds 1 to 5 are known (R33). -/
theorem CmdKind.ofCode_eq_none_iff (k : BitVec 4) : CmdKind.ofCode k = none ↔ k = 0 ∨ 5 < k := by decide +revert

theorem CmdKind.ofCode_known {k : BitVec 4} (pos : 0 < k) (le : k ≤ 5) : ∃ kind, CmdKind.ofCode k = some kind := by
  have known : CmdKind.ofCode k ≠ none := by
    rw [ne_eq, CmdKind.ofCode_eq_none_iff]
    bv_omega
  exact Option.ne_none_iff_exists'.mp known

theorem Lifecycle.inSequence_iff (life : Lifecycle) :
    life.inSequence = true ↔ life = .loading ∨ life = .collecting ∨ life = .clearing := by
  cases life <;> simp [Lifecycle.inSequence]

/-! ### The tests of the kinds -/

theorem testCancel_eq (c : Context) :
    testCancel c = if c.life = .assigned ∨ c.life = .loadable then .accepted else .state := by
  unfold testCancel
  cases c.life <;> simp

theorem State.bothLatched_iff (s : State) (l : Locker) :
    s.bothLatched l = true ↔ (s.latch l .front).st = .latched ∧ (s.latch l .rear).st = .latched := by
  simp [State.bothLatched, State.latch, LatchPair.get]

theorem testClear_eq (s : State) (l : Locker) :
    testClear s l =
      if ¬ ((s.ctx l).life = .holding ∨ (s.ctx l).life = .expired ∨ (s.ctx l).life = .quarantine) then .state
      else if s.staffMatch (s.ctx l).presCode = false then .code
      else if (s.latch l .front).st = .latched ∧ (s.latch l .rear).st = .latched then .accepted else .state := by
  simp only [testClear, ← s.bothLatched_iff l]
  cases s.staffMatch (s.ctx l).presCode <;> cases s.bothLatched l <;> simp

/-! ### The order of the tests (R64) -/

theorem evaluate_of_unknownKind {w : Word} (unknown : CmdKind.ofCode (cmdKind w) = none) (s : State) (l : Locker) :
    evaluate s l w = .unknown := by simp [evaluate, unknown]

theorem evaluate_of_inSequence {s : State} {l : Locker} {w : Word} {kind : CmdKind}
    (known : CmdKind.ofCode (cmdKind w) = some kind) (busy : (s.ctx l).life.inSequence = true) :
    evaluate s l w = .busy := by simp [evaluate, known, busy]

/-- The tests that a kind's own rule gives (R66 to R70). -/
def kindTests (s : State) (l : Locker) (w : Word) : CmdKind → CmdOutcome
  | .assign => testAssign s l (cmdClass w).toFin
  | .cancel => testCancel (s.ctx l)
  | .load => testLoad (s.ctx l)
  | .collect => testCollect s l
  | .clear => testClear s l

/-- Outside a running sequence a known kind's own tests give the outcome. -/
theorem evaluate_of_idle {s : State} {l : Locker} {w : Word} {kind : CmdKind}
    (idle : ¬ (s.ctx l).life.inSequence = true) (known : CmdKind.ofCode (cmdKind w) = some kind) :
    evaluate s l w = kindTests s l w kind := by
  cases kind <;> simp [evaluate, known, idle, kindTests]

/-- Settles O29: an entry matches bit by bit under its mask; the outcome is unknown, busy, or what the tests of the kind
give, by the first of them that fails. -/
theorem outcomeFollowsTestOrder : Obligations.OutcomeFollowsTestOrder := by
  refine ⟨fun s code => ?_, fun s l w => ?_⟩
  · simp only [s.staffMatch_iff, StaffEntry.matchesCode_iff]
  · intro c kind busy
    refine ⟨fun unknown => ?_, fun ⟨pos, le, running⟩ => ?_, fun idle => ?_⟩
    · exact evaluate_of_unknownKind ((CmdKind.ofCode_eq_none_iff _).mpr unknown) s l
    · obtain ⟨_, known⟩ := CmdKind.ofCode_known pos le
      exact evaluate_of_inSequence known ((Lifecycle.inSequence_iff _).mpr running)
    · have tests (k : CmdKind) (known : CmdKind.ofCode kind = some k) : evaluate s l w = kindTests s l w k :=
        evaluate_of_idle (mt (Lifecycle.inSequence_iff _).mp idle) known
      refine ⟨fun assign => ?_, fun cancel => ?_, fun load => ?_, fun collect => ?_, fun clear => ?_⟩
      · exact tests .assign (congrArg CmdKind.ofCode assign)
      · exact (tests .cancel (congrArg CmdKind.ofCode cancel)).trans (testCancel_eq c)
      · exact tests .load (congrArg CmdKind.ofCode load)
      · exact tests .collect (congrArg CmdKind.ofCode collect)
      · exact (tests .clear (congrArg CmdKind.ofCode clear)).trans (testClear_eq s l)

end Sys2Proof.Machine
end

section
/-! PROOFS. The landing of a mirror write: what AHU takes of it, and the request that MRW raises next (R26 to R28,
R131). -/

namespace Sys2Proof.Machine

/-! ### The search round the index (R26) -/

/-- The first hit among the lockers below a count, in ascending index. -/
theorem find?_lockersBelow {count : Nat} {p : Locker → Bool} {k : Locker} (below : k.val < count) (hit : p k = true)
    (first : ∀ j : Locker, j.val < count → p j = true → k ≤ j) : (lockersBelow count).find? p = some k := by
  rw [lockersBelow, List.find?_filter, ← Fin.find?_eq_find?_finRange, Fin.find?_eq_some_iff]
  refine ⟨by simp [below, hit], fun j before => ?_⟩
  by_contra found
  obtain ⟨inside, met⟩ : j.val < count ∧ p j = true := by simpa using found
  exact absurd (first j inside met) (not_le.mpr before)

theorem mem_lockersBelow {count : Nat} {l : Locker} : l ∈ lockersBelow count ↔ l.val < count := by
  simp [lockersBelow]

/-- The search finds the first locker from its start on, and past the last those before its start. -/
theorem searchFrom_of_firstFrom {count start : Nat} {p : Locker → Bool} {k : Locker}
    (h : FirstFrom count (fun j => p j = true) start k) : searchFrom (lockersBelow count) start p = some k := by
  obtain ⟨below, hit, first⟩ := h
  unfold searchFrom
  by_cases after : start ≤ k.val
  · have found : ((lockersBelow count).find? fun j => decide (start ≤ j.val) && p j) = some k := by
      refine find?_lockersBelow below (by simp [after, hit]) fun j inside met => ?_
      obtain ⟨from_start, holds⟩ : start ≤ j.val ∧ p j = true := by simpa using met
      have := first j inside holds
      show k.val ≤ j.val
      omega
    rw [found, Option.some_or]
  · have missed : ((lockersBelow count).find? fun j => decide (start ≤ j.val) && p j) = none := by
      refine List.find?_eq_none.mpr fun j listed met => ?_
      obtain ⟨from_start, holds⟩ : start ≤ j.val ∧ p j = true := by simpa using met
      have := first j (mem_lockersBelow.mp listed) holds
      omega
    rw [missed, Option.none_or]
    refine find?_lockersBelow below (by simp [hit]; omega) fun j inside met => ?_
    obtain ⟨before, holds⟩ : j.val < start ∧ p j = true := by simpa using met
    have := first j inside holds
    show k.val ≤ j.val
    omega

theorem searchFrom_eq_none {count : Nat} {p : Locker → Bool} (h : ∀ j : Locker, j.val < count → p j = false)
    (start : Nat) : searchFrom (lockersBelow count) start p = none := by
  have missed (q : Locker → Bool) : ((lockersBelow count).find? fun j => q j && p j) = none :=
    List.find?_eq_none.mpr fun j listed => by simp [h j (mem_lockersBelow.mp listed)]
  simp only [searchFrom, missed, Option.none_or]

/-! ### The write order (R26) -/

theorem cellsAfter_eq_filter (last : Option MarkCell) : cellsAfter last = writeOrder.filter (·.after last) := by
  obtain - | last := last
  · rfl
  · cases last <;> rfl

theorem Marks.next_eq_find? (m : Marks) (last : Option MarkCell) : m.next last = (cellsAfter last).find? m.has := by
  simp [Marks.next, cellsAfter_eq_filter, List.find?_filter]

theorem Marks.next_of_firstMarked {m : Marks} {last : Option MarkCell} {c : MarkCell}
    (h : FirstMarked m (cellsAfter last) c) : m.next last = some c := (m.next_eq_find? last).trans h

theorem Marks.next_of_unmarked {m : Marks} {last : Option MarkCell} (h : ∀ c ∈ cellsAfter last, m.has c = false) :
    m.next last = .none := by
  rw [m.next_eq_find? last, List.find?_eq_none]
  exact fun c listed => by simp [h c listed]

/-! ### MRW's next request (R26, R28) -/

theorem mrwChoose_of_found {s : State} {k : Locker}
    (h : searchFrom s.lockers (s.mrw.lastServed.val + 1) (fun l => (s.marks l).any) = some k) :
    mrwChoose s
      = { s with mrw := { s.mrw with turn := some (k, none), req := ((s.marks k).next none).map fun c => (k, c) } } := by
  simp [mrwChoose, h]

theorem mrwChoose_of_missed {s : State}
    (h : searchFrom s.lockers (s.mrw.lastServed.val + 1) (fun l => (s.marks l).any) = none) :
    mrwChoose s = { s with mrw := { s.mrw with turn := none } } := by simp [mrwChoose, h]

/-- The choice of a turn, with no request standing: it serves no locker, and it requests what the first marked locker after
the one last served calls for. -/
theorem mrwChoose_turnFrom {s t : State} (after : t.mrw = (mrwChoose s).mrw) (req : s.mrw.req = none) :
    t.mrw.lastServed = s.mrw.lastServed ∧ TurnFrom (s.mrw.lastServed.val + 1) s t := by
  rw [after]
  refine ⟨by unfold mrwChoose; split <;> rfl, fun k c marked cell => ?_, fun unmarked => ?_⟩
  · rw [after, mrwChoose_of_found (searchFrom_of_firstFrom marked), Marks.next_of_firstMarked cell]
    exact ⟨rfl, rfl⟩
  · rw [after, mrwChoose_of_missed (searchFrom_eq_none unmarked _)]
    exact ⟨rfl, req⟩

theorem mrwNext_of_promoted {s : State} {k : Locker} (h : s.mrw.promo.head? = some k) :
    (mrwNext s).mrw.req
      = (((s.marks k).next s.mrw.promoLast).or ((s.marks k).next none)).map fun c => (k, c) := by
  obtain ⟨rest, promo⟩ := List.head?_eq_some_iff.mp h
  simp [mrwNext, promo]

theorem mrwNext_of_noTurn {s : State} (promo : s.mrw.promo = []) (turn : s.mrw.turn = none) :
    mrwNext s = mrwChoose s := by simp [mrwNext, promo, mrwTurn, turn]

theorem mrwNext_of_cell {s : State} {k : Locker} {last : Option MarkCell} {c : MarkCell} (promo : s.mrw.promo = [])
    (turn : s.mrw.turn = some (k, last)) (cell : (s.marks k).next last = some c) :
    mrwNext s = { s with mrw := { s.mrw with req := some (k, c) } } := by simp [mrwNext, promo, mrwTurn, turn, cell]

theorem mrwNext_of_turnOver {s : State} {k : Locker} {last : Option MarkCell} (promo : s.mrw.promo = [])
    (turn : s.mrw.turn = some (k, last)) (past : (s.marks k).next last = none) :
    mrwNext s = mrwChoose { s with mrw := { s.mrw with turn := none, lastServed := k } } := by
  simp [mrwNext, promo, mrwTurn, turn, past]

/-! ### The next request depends on MRW and the locker count alone -/

section
variable {s u : State} (mrw : u.mrw = s.mrw) (copies : u.copies = s.copies)
include mrw copies

theorem mrwChoose_congr : (mrwChoose u).mrw = (mrwChoose s).mrw := by
  simp only [mrwChoose, State.lockers, State.marks, mrw, copies]
  split
  · next found => simp only [found]
  · next missed => simp only [missed]

theorem mrwTurn_congr : (mrwTurn u).mrw = (mrwTurn s).mrw := by
  simp only [mrwTurn, State.marks, mrw]
  split
  · exact mrwChoose_congr mrw copies
  · next turn =>
    simp only [turn]
    split
    · next cell => simp only [cell]
    · next past =>
      simp only [past]
      exact mrwChoose_congr rfl copies

theorem mrwNext_congr : (mrwNext u).mrw = (mrwNext s).mrw := by
  simp only [mrwNext, State.marks, mrw]
  split
  · next promo => simp only [promo]
  · exact mrwTurn_congr mrw copies

end

/-! ### MRW after an event -/

/-- The choice of a request leaves the promotion list (R28). -/
theorem mrwNext_promo (s : State) :
    (mrwNext s).mrw.promo = s.mrw.promo ∧ (mrwNext s).mrw.promoLast = s.mrw.promoLast := by
  have choose (u : State) : (mrwChoose u).mrw.promo = u.mrw.promo ∧ (mrwChoose u).mrw.promoLast = u.mrw.promoLast := by
    unfold mrwChoose
    split <;> exact ⟨rfl, rfl⟩
  unfold mrwNext
  split
  · exact ⟨rfl, rfl⟩
  · unfold mrwTurn
    split
    · exact choose s
    · split
      · exact ⟨rfl, rfl⟩
      · exact choose _

theorem mrwSettle_promo (s : State) :
    (mrwSettle s).mrw.promo = s.mrw.promo ∧ (mrwSettle s).mrw.promoLast = s.mrw.promoLast := by
  unfold mrwSettle
  dsimp only
  split
  · exact mrwNext_promo (mrwWithdraw s)
  · exact ⟨rfl, rfl⟩

/-- With no request standing and no mirror write on the M-port, MRW raises its next request. -/
theorem mrwSettle_of_quiet {s : State} (req : s.mrw.req = none) (port : s.mpi.port = none) :
    (mrwSettle s).mrw = (mrwNext s).mrw := by
  have withdrawn : (mrwWithdraw s).mrw = s.mrw := by
    unfold mrwWithdraw
    dsimp only
    rw [req, Option.filter_none, ← req]
  have none_flies : (mrwWithdraw s).mirrorFlying = false := by simp [State.mirrorFlying, mrwWithdraw, port]
  unfold mrwSettle
  dsimp only
  rw [withdrawn, none_flies, req]
  exact mrwNext_congr withdrawn rfl

theorem Within.mrw_eq {bs : List Part} {s t : State} (h : Within bs s t) (marks : Part.marks ∉ bs)
    (turns : Part.turns ∉ bs) : t.mrw = s.mrw := by
  obtain ⟨lastServed, turn, promo, promoLast, req⟩ := h.turns turns
  have same := h.marks marks
  cases ht : t.mrw
  cases hs : s.mrw
  simp_all

/-- In RESTORING and OPERATING what follows an event reaches MRW by its own step alone. -/
theorem settle_mrw {s : State} (mode : s.mode = .restoring ∨ s.mode = .operating) :
    ∃ u, Within [.cpi] s u ∧ (settle s).mrw = (mrwSettle u).mrw := by
  have rest {u t : State} (h : Within [.due, .sweep, .queue, .ringOp] (mrwSettle u) t) : t.mrw = (mrwSettle u).mrw :=
    h.mrw_eq (by decide) (by decide)
  obtain restoring | operating := mode
  · refine ⟨s, .refl, ?_⟩
    simp only [settle, restoring]
    exact rest (ahuSettle_within.widen.next rpwSettle_within)
  · refine ⟨releaseHolds s, releaseHolds_within, ?_⟩
    simp only [settle, operating]
    exact rest ((ahuSettle_within.widen.next smpSettle_within).next rpwSettle_within)

theorem settle_mrw_of_quiet {s : State} (mode : s.mode = .restoring ∨ s.mode = .operating) (req : s.mrw.req = none)
    (port : s.mpi.port = none) : (settle s).mrw = (mrwNext s).mrw := by
  obtain ⟨u, kept, after⟩ := settle_mrw mode
  have mrw := kept.mrw_eq (by decide) (by decide)
  obtain ⟨-, -, -, copies, -⟩ := kept.ops (by decide)
  rw [after, mrwSettle_of_quiet (mrw ▸ req) ((kept.mpi (by decide)).symm ▸ port)]
  exact mrwNext_congr mrw copies

/-- What follows an event leaves the promotion list (R28). -/
theorem settle_promo (s : State) :
    (settle s).mrw.promo = s.mrw.promo ∧ (settle s).mrw.promoLast = s.mrw.promoLast := by
  by_cases mode : s.mode = .restoring ∨ s.mode = .operating
  · obtain ⟨u, kept, after⟩ := settle_mrw mode
    rw [after, ← kept.mrw_eq (by decide) (by decide)]
    exact mrwSettle_promo u
  · have idle : settle s = s := by
      unfold settle
      split <;> simp_all
    rw [idle]
    exact ⟨rfl, rfl⟩

/-! ### The landing at AHU (R131) -/

/-- A change of paths that leaves both error counts sets no mark (R128). -/
theorem putPaths_of_errs {l : Locker} {p : PathPair} {s : State} (heat : p.heat.errs = (s.paths l).heat.errs)
    (latch : p.latch.errs = (s.paths l).latch.errs) :
    putPaths l p s = { s with ahu := { s.ahu with paths := s.ahu.paths.set l.val p } } := by
  simp [putPaths, markIf, heat, latch]

theorem pathLanded_of_current {l : Locker} {k : PathKind} {q : BitVec 4} {s : State}
    (writing : ((s.paths l).get k).st = .writing) (current : ((s.paths l).get k).seq = q) :
    (pathLanded l k q s).paths l
      = (s.paths l).set k { (s.paths l).get k with st := .probing, probes := 0 } := by
  simp [pathLanded, writing, current]

theorem pathLanded_of_stale {l : Locker} {k : PathKind} {q : BitVec 4} {s : State}
    (stale : ((s.paths l).get k).st ≠ .writing ∨ ((s.paths l).get k).seq ≠ q) : pathLanded l k q s = s :=
  if_neg fun ⟨writing, current⟩ => stale.elim (· writing) (· current)

/-- A landing changes paths alone: the error counts stand, so no mark is set. -/
theorem pathLanded_onlyPaths {l : Locker} {k : PathKind} {q : BitVec 4} {s : State} :
    Within [.paths] s (pathLanded l k q s) := by
  unfold pathLanded
  dsimp only
  refine .ite ?_ .refl
  rw [putPaths_of_errs (by cases k <;> rfl) (by cases k <;> rfl)]
  constructor <;> simp

theorem mirrorLanded_onlyPaths {l : Locker} {c : MarkCell} {q : BitVec 4} {s : State} :
    Within [.paths] s (mirrorLanded l c q s) := by
  cases c with
  | heat | latch => exact pathLanded_onlyPaths
  | state | hold | codeZero => exact .refl

/-- The landing of the current command's cell starts the probing of its path. -/
theorem mirrorLanded_of_current {l : Locker} {c : MarkCell} {k : PathKind} {q : BitVec 4} {s : State}
    (cell : (k = .heat ∧ c = .heat) ∨ (k = .latch ∧ c = .latch)) (writing : ((s.paths l).get k).st = .writing)
    (current : ((s.paths l).get k).seq = q) :
    (mirrorLanded l c q s).paths l = (s.paths l).set k { (s.paths l).get k with st := .probing, probes := 0 } := by
  obtain ⟨rfl, rfl⟩ | ⟨rfl, rfl⟩ := cell <;> exact pathLanded_of_current writing current

/-- Any other landing leaves the state. -/
theorem mirrorLanded_of_stale {l : Locker} {c : MarkCell} {q : BitVec 4} {s : State}
    (heat : c = .heat → (s.paths l).heat.st ≠ .writing ∨ (s.paths l).heat.seq ≠ q)
    (latch : c = .latch → (s.paths l).latch.st ≠ .writing ∨ (s.paths l).latch.seq ≠ q) :
    mirrorLanded l c q s = s := by
  cases c with
  | heat => exact pathLanded_of_stale (heat rfl)
  | latch => exact pathLanded_of_stale (latch rfl)
  | state | hold | codeZero => rfl

/-! ### The row -/

theorem exec_mrwWriteLand {s : State} {l : Locker} {c : MarkCell} {q : BitVec 4} {x : Txn}
    (port : s.mpi.port = some ⟨.mirror l c q, x⟩) :
    exec .mrwWriteLand s = .next (settle (mirrorLanded l c q (freePort ⟨.mirror l c q, x⟩ s))) := by
  simp [exec, execMrwWriteLand, port, done]

/-- Settles O42: AHU's part is that of the landing, which touches paths alone; with the M-port free, MRW's part is its next
request, by the promotion list, the turn and the search round the index. -/
theorem mirrorLandingStartsProbing : Obligations.MirrorLandingStartsProbing := by
  intro s x l c q port
  let freed := freePort ⟨.mirror l c q, x⟩ s
  have landed : Within [.paths] freed (mirrorLanded l c q freed) := mirrorLanded_onlyPaths
  have settled : Within settleParts (mirrorLanded l c q freed) (settle (mirrorLanded l c q freed)) := settle_within
  have kept : Within (.paths :: settleParts) freed (settle (mirrorLanded l c q freed)) :=
    landed.widen.next settled
  have landed_mrw : (mirrorLanded l c q freed).mrw = s.mrw := landed.mrw_eq (by decide) (by decide)
  have landed_port : (mirrorLanded l c q freed).mpi.port = none := congrArg Mpi.port (landed.mpi (by decide))
  obtain ⟨promo, promoLast⟩ := settle_promo (mirrorLanded l c q freed)
  rw [landed_mrw] at promo promoLast
  obtain ⟨landed_mode, -, -, landed_copies, -⟩ := landed.ops (by decide)
  refine ⟨_, exec_mrwWriteLand port, kept.mem (by decide), congrArg Mpi.port (kept.mpi (by decide)),
    kept.lockersKept (by decide) (by decide), kept.hsc_eq (by decide) (by decide) (by decide), kept.marks (by decide),
    fun k cell writing current => ?_, fun heat latch => ?_, promo, promoLast, fun mode req => ?_⟩
  · rw [paths_of_ahu (settled.paths (by decide))]
    exact mirrorLanded_of_current cell writing current
  · rw [settled.paths (by decide), mirrorLanded_of_stale (s := freed) heat latch]
    rfl
  · have raised : (settle (mirrorLanded l c q freed)).mrw = (mrwNext s).mrw :=
      (settle_mrw_of_quiet (landed_mode.symm ▸ mode) (landed_mrw.symm ▸ req) landed_port).trans
        (mrwNext_congr landed_mrw landed_copies)
    refine ⟨fun k d head => ⟨fun cell => ?_, fun past cell => ?_⟩,
      fun k last promo turn => ⟨fun d cell => ?_, fun past => ?_⟩, fun promo turn => ?_⟩
    · rw [raised, mrwNext_of_promoted head, Marks.next_of_firstMarked cell]
      rfl
    · rw [raised, mrwNext_of_promoted head, Marks.next_of_unmarked past, Marks.next_of_firstMarked cell]
      rfl
    · rw [raised, mrwNext_of_cell promo turn (Marks.next_of_firstMarked cell)]
      exact ⟨rfl, rfl, rfl⟩
    · rw [mrwNext_of_turnOver promo turn (Marks.next_of_unmarked past)] at raised
      exact mrwChoose_turnFrom raised req
    · rw [mrwNext_of_noTurn promo turn] at raised
      exact mrwChoose_turnFrom raised req

end Sys2Proof.Machine
end

section
/-! PROOFS. The option store: the commands that write it, what each leaves in it, and the lock by word 62, which
neither validation nor the copies see (R37, R181, R182, R184). -/

namespace Sys2Proof.Machine

/-! ### What the blocks do leaves the store -/

theorem Within.store_eq {bs : List Part} {s t : State} (h : Within bs s t) (ops : Part.ops ∉ bs := by decide) :
    t.store = s.store := by
  obtain ⟨-, -, store, -⟩ := h.ops ops
  exact store

@[simp] theorem settle_store (s : State) : (settle s).store = s.store := settle_within.store_eq
@[simp] theorem arrive_store (x : Txn) (s : State) : (arrive x s).store = s.store := arrive_within.store_eq
@[simp] theorem releaseStart_store (s : State) : (releaseStart s).store = s.store := releaseStart_within.store_eq

@[simp] theorem mirrorLanded_store (l : Locker) (c : MarkCell) (q : BitVec 4) (s : State) :
    (mirrorLanded l c q s).store = s.store := mirrorLanded_onlyPaths.store_eq
@[simp] theorem judgeProbe_store (l : Locker) (w : Option Word) (s : State) : (judgeProbe l w s).store = s.store :=
  judgeProbe_within.store_eq
@[simp] theorem pathError_store (l : Locker) (k : PathKind) (r : PathRec) (s : State) :
    (pathError l k r s).store = s.store := pathError_within.store_eq
@[simp] theorem pollResult_store (k : PollKind) (l : Locker) (w : Option Word) (s : State) :
    (pollResult k l w s).store = s.store := pollResult_within.store_eq

@[simp] theorem hscFrameStart_store (s : State) : (hscFrameStart s).store = s.store := hscFrameStart_within.store_eq
@[simp] theorem smpFrameStart_store (s : State) : (smpFrameStart s).store = s.store := smpFrameStart_within.store_eq
@[simp] theorem smpInterval_store (s : State) : (smpInterval s).store = s.store := smpInterval_within.store_eq
@[simp] theorem startSweep_store (s : State) : (startSweep s).store = s.store := startSweep_within.store_eq
@[simp] theorem setCapacity_store (n : Nat) (s : State) : (setCapacity n s).store = s.store := setCapacity_within.store_eq

@[simp] theorem lkeSeconds_store (s : State) : (lkeSeconds s).store = s.store := lkeSeconds_within.store_eq
@[simp] theorem ltcSeconds_store (s : State) : (ltcSeconds s).store = s.store := ltcSeconds_within.store_eq
@[simp] theorem countLocker_store (l : Locker) (s : State) : (countLocker l s).store = s.store :=
  countLocker_within.store_eq
@[simp] theorem judgeExpiry_store (l : Locker) (s : State) : (judgeExpiry l s).store = s.store :=
  judgeExpiry_within.store_eq
@[simp] theorem endLockout_store (l : Locker) (s : State) : (endLockout l s).store = s.store := endLockout_within.store_eq
@[simp] theorem expireOpenWait_store (l : Locker) (h : Hatch) (s : State) : (expireOpenWait l h s).store = s.store :=
  expireOpenWait_within.store_eq
@[simp] theorem expireHatchHeld_store (l : Locker) (h : Hatch) (s : State) : (expireHatchHeld l h s).store = s.store :=
  expireHatchHeld_within.store_eq

/-! ### Grants, landings and start-up leave the store -/

theorem mirrorGranted_store (l : Locker) (c : MarkCell) (s : State) : (mirrorGranted l c s).store = s.store := by
  unfold mirrorGranted promotionStep
  dsimp only
  split
  · split <;> rfl
  · rfl

@[simp] theorem grant_store (r : Requester) (x : MTxn) (s : State) : (grant r x s).store = s.store := by
  cases r with
  | fwd => simp only [grant, grantedAt, fwdGranted]; split <;> rfl
  | mrw =>
    simp only [grant, grantedAt, mrwGranted]
    split
    · exact mirrorGranted_store ..
    · rfl
  | ahu => simp only [grant, grantedAt, ahuGranted]; split <;> rfl
  | smp => simp only [grant, grantedAt, smpGranted]; split <;> rfl
  | rpw =>
    simp only [grant, grantedAt, rpwGranted]
    split
    · split <;> rfl
    · rfl

@[simp] theorem freePort_store (m : MTxn) (s : State) : (freePort m s).store = s.store := rfl

@[simp] theorem readBack_store (p : List PortWrite) (m : MTxn) (s : State) : (readBack p m s).1.store = s.store := rfl

@[simp] theorem fwdLanded_store (m : MTxn) (e : LandEffect) (s : State) : (fwdLanded m e s).store = s.store := by
  cases e <;> rfl

@[simp] theorem fwdCompleted_store (p : List PortWrite) (faults : BitVec 8) (m : MTxn) (s : State) :
    (fwdCompleted p faults m s).store = s.store := by
  unfold fwdCompleted
  dsimp only
  split
  · rfl
  · split <;> rfl

@[simp] theorem recordLanded_store (s : State) : (recordLanded s).store = s.store := by
  unfold recordLanded
  split <;> rfl

@[simp] theorem statusLanded_store (s : State) : (statusLanded s).store = s.store := by
  unfold statusLanded
  split <;> rfl

@[simp] theorem ringWordRead_store (w : Option Word) (s : State) : (ringWordRead w s).store = s.store := by
  have judged (u : State) : (judgeIndices u).store = u.store := by unfold judgeIndices; split <;> rfl
  unfold ringWordRead
  split
  · rfl
  · rfl
  · exact judged _
  all_goals rfl

theorem restoreLocker_within {l : Locker} {st heat latch : Option Word} {s : State} :
    Within lockerParts s (restoreLocker l st heat latch s) := by
  unfold restoreLocker
  have context {u} : Within lockerParts u (putCtx l (restoredContext st) u) := putCtx_within.widen
  have seqs {u} : Within lockerParts u (setSeqs l heat latch u) := putPaths_within.widen
  have latches {u} : Within lockerParts u (relatchRestore l u) := putLatch_within.widen.next putLatch_within
  have marks {u} : Within lockerParts u (restoreMarks l u) :=
    (putMark_within.widen.next putMark_within).next putMark_within
  exact ((((context.next seqs).next issueHeat_within).next issueLatch_within).next latches).next marks

@[simp] theorem restoreWordRead_store (l : Locker) (w : Option Word) (s : State) :
    (restoreWordRead l w s).store = s.store := by
  unfold restoreWordRead
  split
  · rfl
  · rfl
  · exact restoreLocker_within.store_eq

@[simp] theorem endValidation_store (s : State) : (endValidation s).store = s.store := by
  unfold endValidation
  rw [releaseStart_store]
  split <;> rfl

@[simp] theorem enterOperating_store (s : State) : (enterOperating s).store = s.store := by simp [enterOperating]

@[simp] theorem crossFeed_store (feed elapsed : Nat) (s : State) : (crossFeed feed elapsed s).store = s.store := by
  unfold crossFeed
  split <;> rfl

@[simp] theorem supplyTo_store (st : Supply) (d : Nat) (s : State) : (supplyTo st d s).store = s.store := by
  simp [supplyTo, setTimers]

/-! ### What a command can do to the store -/

/-- An outcome whose state, where it gives one, holds the store as it was. -/
def KeepsStore (s : State) (o : Out) : Prop := ∀ t, o = .next t → t.store = s.store

@[simp] theorem keepsStore_fault (s : State) (f : Fault) : KeepsStore s (.fault f) := fun _ e => nomatch e

@[simp] theorem keepsStore_next (s t : State) : KeepsStore s (.next t) ↔ t.store = s.store := by simp [KeepsStore]

@[simp] theorem keepsStore_done (s t : State) : KeepsStore s (done t) ↔ t.store = s.store := by simp [done]

theorem KeepsStore.ite {s : State} {c : Prop} [Decidable c] {a b : Out} (ha : KeepsStore s a) (hb : KeepsStore s b) :
    KeepsStore s (if c then a else b) := by split <;> assumption

theorem present_keepsStore (x : Txn) (s : State) : KeepsStore s (present x s) := by
  unfold present
  exact .ite (by simp) (.ite (by simp) (by simp))

/-- The two rows that write the store (R181). -/
def writesStore : Instr → Bool
  | .maintWrite .. | .maintErase .. => true
  | _ => false

/-- Every row but MAINT_WRITE and MAINT_ERASE keeps the store, resets among them (R181, R183). -/
theorem exec_keepsStore {c : Instr} (other : writesStore c = false) (s : State) : KeepsStore s (exec c s) := by
  cases c <;> simp only [exec]
  case assign | cancel | load | collect | clear | codeWrite | orderWrite | readIndexWrite | statusWrite
      | attentionWrite => exact present_keepsStore _ _
  case cPortRead | unknownKind | controllerWrite => exact .ite (present_keepsStore _ _) (by simp)
  case mportGrant =>
    unfold execMportGrant
    refine .ite (by simp) ?_
    split <;> simp
  case fwdWriteLand =>
    unfold execFwdWriteLand
    split
    · exact .ite (by simp) (by simp)
    · simp
  case fwdReadComplete =>
    unfold execFwdReadComplete
    split
    · exact .ite (by simp) (by simp)
    · simp
  case mrwWriteLand => unfold execMrwWriteLand; split <;> simp
  case probeComplete => unfold execProbeComplete; split <;> simp
  case framePollComplete => unfold execFramePollComplete; split <;> simp
  case fastPollComplete => unfold execFastPollComplete; split <;> simp
  case ringRecordLand => unfold execRingRecordLand; split <;> simp
  case writeIndexLand =>
    unfold execWriteIndexLand
    split
    · dsimp only
      split <;> simp [indexLanded, writeCellZeroed]
    · simp
  case statusLand => unfold execStatusLand; split <;> simp
  case readCellZeroLand => unfold execReadCellZeroLand; split <;> simp [readCellZeroed]
  case probeInterval =>
    refine .ite (by simp) ?_
    rw [keepsStore_done]
    split <;> simp [ahuInterval]
  case frameStart => exact .ite (by simp) (by simp)
  case secondsEvent =>
    refine .ite (by simp) ?_
    rw [keepsStore_done]
    split <;> simp
  case probeTimeout | expiry | lockoutEnd | openWaitExpiry | hatchHeld => exact .ite (by simp) (by simp)
  case feedCrossing => simp [execFeedCrossing]
  case shedTrip => unfold execShedTrip; split <;> simp
  case cutTrip =>
    unfold execCutTrip
    split
    · exact .ite (by simp) (by simp)
    · simp
    · simp
  case shedRelease => unfold execShedRelease; split <;> simp
  case cutRelease => unfold execCutRelease; split <;> simp
  case powerOnReset | logicBrownout | resetPin => exact (keepsStore_next ..).mpr rfl
  case resetRelease | validationDone | restoreEnd => exact .ite (by simp) (by simp)
  case restoreReadComplete => unfold execRestoreReadComplete; split <;> simp
  case ringRestoreRead => unfold execRingRestoreRead; split <;> simp
  case maintRead =>
    unfold execMaintRead maintReadFrame
    rw [keepsStore_next]
    split
    · split <;> rfl
    · rfl
  case maintInvalid =>
    refine .ite ((keepsStore_next ..).mpr ?_) (by simp)
    split <;> rfl
  case maintWrite | maintErase => simp [writesStore] at other

theorem maintWriteFrame_store (prog : Bool) (index : BitVec 8) (data : Word) (s : State) :
    (maintWriteFrame prog index data s).store = s.store
      ∨ ∃ h : index.toNat < 64, s.store[index.toNat] = Config.erasedWord
          ∧ (maintWriteFrame prog index data s).store = s.store.set index.toNat data := by
  unfold maintWriteFrame
  split
  · next inside =>
    split
    · next taken =>
      obtain ⟨-, erased⟩ : (prog = true ∧ s.mode ≠ .validating) ∧ s.store[index.toNat] = Config.erasedWord := by
        simpa using taken
      exact .inr ⟨inside, erased, rfl⟩
    · exact .inl rfl
  · exact .inl rfl

theorem maintEraseFrame_store (prog : Bool) (s : State) :
    (maintEraseFrame prog s).store = s.store
      ∨ (maintEraseFrame prog s).store = Vector.replicate 64 Config.erasedWord := by
  unfold maintEraseFrame
  split
  · exact .inr rfl
  · exact .inl rfl

/-- A command keeps the store, or is a WRITE that programs one erased word, or an ERASE that erases every word (R181). -/
theorem exec_store {c : Instr} {s t : State} (e : exec c s = .next t) :
    t.store = s.store
      ∨ (∃ prog index data, c = .maintWrite prog index data ∧ ∃ h : index.toNat < 64,
          s.store[index.toNat] = Config.erasedWord ∧ t.store = s.store.set index.toNat data)
      ∨ ∃ prog index, c = .maintErase prog index ∧ t.store = Vector.replicate 64 Config.erasedWord := by
  cases other : writesStore c with
  | false => exact .inl (exec_keepsStore other s t e)
  | true =>
    cases c <;> simp only [writesStore, Bool.false_eq_true] at other
    case maintWrite prog index data =>
      cases e
      split
      · obtain kept | programmed := maintWriteFrame_store prog index data s
        · exact .inl kept
        · exact .inr (.inl ⟨prog, index, data, rfl, programmed⟩)
      · exact .inl rfl
    case maintErase prog index =>
      cases e
      split
      · obtain kept | erased := maintEraseFrame_store prog s
        · exact .inl kept
        · exact .inr (.inr ⟨prog, index, rfl, erased⟩)
      · exact .inl rfl

/-! ### The lock (R182) -/

theorem State.storeLocked_iff (s : State) : s.storeLocked = true ↔ s.store[62] = 0 := by simp [State.storeLocked]

theorem exec_maintWrite_of_erased {s : State} {index : BitVec 8} (inside : index.toNat < 64) (served : s.mode ≠ .inReset)
    (validated : s.mode ≠ .validating) (erased : s.store[index.toNat] = Config.erasedWord) (data : Word) :
    exec (.maintWrite true index data) s
      = .next (maintAnswer (.ok none) { s with store := s.store.set index.toNat data }) := by
  simp [exec, execMaintWrite, State.served, maintWriteFrame, inside, served, validated, erased]

theorem exec_maintRead_of_hidden {s : State} {index : BitVec 8} (served : s.mode ≠ .inReset)
    (locked : s.storeLocked = true) (hidden : hiddenWord index.toNat = true) (inside : index.toNat < 64) :
    exec (.maintRead index) s = .next (maintAnswer (.ok (some 0)) s) := by
  simp [exec, execMaintRead, State.served, maintReadFrame, served, locked, hidden, inside]

/-- A locked store is unlocked by nothing but an ERASE: the lock word is not erased, so no WRITE reaches it. -/
theorem unlocked_by_erase {c : Instr} {s t : State} (locked : s.storeLocked = true) (e : exec c s = .next t)
    (unlocked : t.storeLocked = false) :
    ∃ prog index, c = .maintErase prog index ∧ t.store = Vector.replicate 64 Config.erasedWord := by
  rw [State.storeLocked_iff] at locked
  have lockWord_after : t.store[62] ≠ 0 := by
    rw [ne_eq, ← State.storeLocked_iff]
    simp [unlocked]
  obtain kept | ⟨prog, index, data, -, inside, erased, programmed⟩ | byErase := exec_store e
  · rw [kept] at lockWord_after
    exact absurd locked lockWord_after
  · have other : index.toNat ≠ 62 := by
      intro same
      simp only [same, locked] at erased
      exact absurd erased (by decide)
    simp only [programmed, Vector.getElem_set_ne _ _ other] at lockWord_after
    exact absurd locked lockWord_after
  · exact byErase

/-! ### Validation and the copies do not see the lock word (R37, R71, R184) -/

theorem storeCopies_set_lockWord (st : Vector Word 64) (w : Word) : storeCopies (st.set 62 w) = storeCopies st := by
  have below {i : Nat} (h : i < 62) : (st.set 62 w)[i] = st[i] := Vector.getElem_set_ne _ _ (by omega)
  have entries (c : Fin 8) : 10 + 2 * c.val < 62 ∧ 11 + 2 * c.val < 62 := by omega
  have staff (e : Fin 4) : 26 + 2 * e.val < 62 ∧ 27 + 2 * e.val < 62 := by omega
  simp [storeCopies, below, entries, staff]

theorem integritySum_set_lockWord (st : Vector Word 64) (w : Word) : integritySum (st.set 62 w) = integritySum st := by
  simp [integritySum, Vector.toList_set, List.take_set_of_le]

theorem storeValid_set_lockWord (st : Vector Word 64) (w : Word) : storeValid (st.set 62 w) = storeValid st := by
  simp [storeValid, storeCopies_set_lockWord, integritySum_set_lockWord]

/-- Settles O59: the lock is the zero of word 62, which only an erased word takes; no command but an ERASE changes a word
that is not erased; and no test of validation and no copy reads word 62. -/
theorem storeLockHidesStaffCodes : Obligations.StoreLockHidesStaffCodes := by
  refine ⟨State.storeLocked_iff, fun s served validated erased => ?_, fun s index served locked low high => ?_,
    fun c s t locked e unlocked => unlocked_by_erase locked e unlocked,
    fun st w => ⟨storeValid_set_lockWord st w, storeCopies_set_lockWord st w⟩⟩
  · refine ⟨_, exec_maintWrite_of_erased (by decide) served validated erased 0, rfl, ?_⟩
    rw [State.storeLocked_iff]
    exact Vector.getElem_set_self _
  · exact exec_maintRead_of_hidden served locked (by simp [hiddenWord, low, high]) (by omega)

end Sys2Proof.Machine
end

section
/-! PROOFS. What every edit keeps, every step keeps: memory, the fast-poll set, the quarantine count, the lost channels,
the append queue and the queue entries (R97, R106, R173, R179). With it, the reset state, and steps at the queue. -/

-- One theorem after the other: a thread for each would ask for more stack space than a build may have.
set_option Elab.async false

namespace Sys2Proof.Machine

/-! ### From edits to steps -/

/-- The three rows that assert reset leave the state of a reset by their source (R170, R183). -/
theorem exec_of_assertsReset {c : Instr} {s t : State} (asserts : assertsReset c = true) (e : exec c s = .next t) :
    ∃ cause, t = resetBy cause s := by
  cases c <;> simp only [assertsReset, Bool.false_eq_true] at asserts
  case powerOnReset => cases e; exact ⟨.powerOn, rfl⟩
  case logicBrownout => cases e; exact ⟨.brownout, rfl⟩
  case resetPin => cases e; exact ⟨.pin, rfl⟩

/-- A step runs a command on the state with one command fewer, or idles. -/
theorem step_cases {s t : State} (e : step s = .next t) :
    t = s ∨ ∃ c rest, exec c { s with pending := rest } = .next t := by
  unfold step at e
  split at e
  · cases e; exact .inl rfl
  · exact .inr ⟨_, _, e⟩

/-- A condition that every edit and every reset keep is kept by a step. -/
theorem step_keeps_of_edit {I : State → Prop} (edit : ∀ s t, Edit s t → I s → I t)
    (reset : ∀ cause s, I s → I (resetBy cause s)) {s t : State} (e : step s = .next t) (holds : I s) : I t := by
  obtain rfl | ⟨c, rest, ran⟩ := step_cases e
  · exact holds
  · have taken : I { s with pending := rest } := edit _ _ (.plain {}) holds
    cases asserts : assertsReset c with
    | false => exact (exec_trail c _ t asserts ran).keeps edit taken
    | true =>
      obtain ⟨cause, rfl⟩ := exec_of_assertsReset asserts ran
      exact reset cause _ taken

/-! ### What a reset leaves (R183) -/

section
variable (cause : ResetCause) (s : State) (l : Locker)

@[simp] theorem resetBy_ctx : (resetBy cause s).ctx l = Context.reset := Vector.getElem_replicate _
@[simp] theorem resetBy_latches : (resetBy cause s).latches l = { front := LatchRec.reset, rear := LatchRec.reset } :=
  Vector.getElem_replicate _
@[simp] theorem resetBy_fastPoll : (resetBy cause s).smp.fastPoll[l.val] = false := Vector.getElem_replicate _
@[simp] theorem resetBy_fastDue : (resetBy cause s).smp.fastDue[l.val] = false := Vector.getElem_replicate _
@[simp] theorem resetBy_due : (resetBy cause s).ahu.due[l.val] = false := Vector.getElem_replicate _
@[simp] theorem resetBy_chan (i : Chan) : (resetBy cause s).chan i = { st := .free, stamp := 0 } :=
  Vector.getElem_replicate _
@[simp] theorem resetBy_paths : (resetBy cause s).paths l
    = { heatOn := false, heat := PathRec.reset, relFront := false, relRear := false, latch := PathRec.reset } :=
  Vector.getElem_replicate _
@[simp] theorem resetBy_sampler : (resetBy cause s).sampler l = SamplerRec.reset := Vector.getElem_replicate _
@[simp] theorem resetBy_marks : (resetBy cause s).marks l = Marks.none := Vector.getElem_replicate _
end

theorem resetBy_memoryCanonical (cause : ResetCause) (s : State) (h : MemoryCanonical s) :
    MemoryCanonical (resetBy cause s) := by
  show (memoryAtReset s).wf = true
  unfold memoryAtReset
  split
  · exact Memory.complete_wf _ h
  · exact h

theorem resetBy_fastPollExact (cause : ResetCause) (s : State) : FastPollExact (resetBy cause s) := fun l => by
  simp [LatchPair.inSeq, LatchRec.reset, LatchState.inSeq]

theorem resetBy_quarantineCounted (cause : ResetCause) (s : State) : QuarantineCounted (resetBy cause s) := by
  unfold QuarantineCounted
  simp only [resetBy_ctx]
  rfl

theorem resetBy_lostChannelsCounted (cause : ResetCause) (s : State) : LostChannelsCounted (resetBy cause s) := by
  unfold LostChannelsCounted
  simp only [resetBy_chan]
  rfl

theorem resetBy_appendQueueBounded (cause : ResetCause) (s : State) : AppendQueueBounded (resetBy cause s) :=
  Nat.zero_le _

theorem resetBy_queuesDistinct (cause : ResetCause) (s : State) : QueuesDistinct (resetBy cause s) := List.nodup_nil

theorem resetBy_channelsDistinct (cause : ResetCause) (s : State) : ChannelsDistinct (resetBy cause s) :=
  channelsDistinct_of_pairs fun i _ => .inr (.inl (by rw [resetBy_chan]; rfl))

theorem resetBy_heatIdle (cause : ResetCause) (s : State) : HeatIdleOutsideOperating (resetBy cause s) :=
  fun _ => ⟨fun i => by rw [resetBy_chan]; rfl, rfl⟩

theorem resetBy_energisedCount (cause : ResetCause) (s : State) : (resetBy cause s).energisedCount = 0 := by
  unfold State.energisedCount
  simp only [resetBy_chan]
  rfl

theorem resetBy_heatWithinCapacity (cause : ResetCause) (s : State) : HeatWithinCapacity (resetBy cause s) :=
  ⟨by simp [resetBy_energisedCount], resetBy_channelsDistinct cause s, resetBy_heatIdle cause s⟩

theorem resetBy_heatBehindLatched (cause : ResetCause) (s : State) : HeatBehindLatched (resetBy cause s) :=
  ⟨fun i _ energised => by simp [ChanState.energised] at energised, fun _ listed => absurd listed List.not_mem_nil,
    fun _ listed => absurd listed List.not_mem_nil, resetBy_channelsDistinct cause s, resetBy_heatIdle cause s⟩

theorem resetBy_interlocked (cause : ResetCause) (s : State) : Interlocked (resetBy cause s) :=
  fun l => .inl (by simp [LatchRec.reset])

/-! ### The statements -/

/-- Settles O5: every edit keeps the memory canonical, and a reset completes one transaction on it. -/
theorem stepKeepsMemoryCanonical : Obligations.StepKeepsMemoryCanonical :=
  fun _ _ h e => step_keeps_of_edit edit_memoryCanonical resetBy_memoryCanonical e h

/-- Settles O6: a change of a latch judges its locker's membership anew, and no other edit touches either side. -/
theorem stepKeepsFastPollExact : Obligations.StepKeepsFastPollExact :=
  fun _ _ h e => step_keeps_of_edit edit_fastPollExact (fun cause s _ => resetBy_fastPollExact cause s) e h

/-- Settles O10: a change of a context counts its locker's entry into QUARANTINE or its exit. -/
theorem stepKeepsQuarantineCount : Obligations.StepKeepsQuarantineCount :=
  fun _ _ h e => step_keeps_of_edit edit_quarantineCounted (fun cause s _ => resetBy_quarantineCounted cause s) e h

/-- Settles O11: each loss is counted, a record is handed over to a queue with room, an entry is posted for a locker that
has none. -/
theorem stepKeepsCountsAndQueues : Obligations.StepKeepsCountsAndQueues := fun _ _ e =>
  ⟨step_keeps_of_edit edit_lostChannelsCounted (fun cause s _ => resetBy_lostChannelsCounted cause s) e,
    step_keeps_of_edit edit_appendQueueBounded (fun cause s _ => resetBy_appendQueueBounded cause s) e,
    step_keeps_of_edit edit_queuesDistinct (fun cause s _ => resetBy_queuesDistinct cause s) e⟩

/-- The reset state is that of a power-on reset of itself. -/
theorem reset_eq_resetBy : State.reset = resetBy .powerOn State.reset := rfl

/-- Settles O12: the reset state meets each condition as every state after a reset does; its memory lists nothing. -/
theorem resetStateIsSafe : Obligations.ResetStateIsSafe := by
  unfold Obligations.ResetStateIsSafe
  rw [reset_eq_resetBy]
  exact {
    memory := resetBy_memoryCanonical _ _ rfl
    fastPoll := resetBy_fastPollExact _ _
    interlock := resetBy_interlocked _ _
    capacity := resetBy_heatWithinCapacity _ _
    latched := resetBy_heatBehindLatched _ _
    quarantine := resetBy_quarantineCounted _ _
    lost := resetBy_lostChannelsCounted _ _
    queue := resetBy_appendQueueBounded _ _
    entries := resetBy_queuesDistinct _ _ }

/-- Settles O13: the row is the reset by its source, block by block. -/
theorem resetReturnsEveryBlock : Obligations.ResetReturnsEveryBlock := by
  intro s c cause listed
  have ran : exec c s = .next (resetBy cause s) := by
    simp only [List.mem_cons, Prod.mk.injEq, List.not_mem_nil, or_false] at listed
    obtain ⟨rfl, rfl⟩ | ⟨rfl, rfl⟩ | ⟨rfl, rfl⟩ := listed <;> rfl
  refine ⟨_, ran, rfl, rfl, rfl, rfl, rfl, rfl, rfl, fun l => ?_, resetBy_chan cause s, rfl, rfl, rfl, rfl, rfl,
    resetBy_due cause s, rfl, rfl, rfl, rfl, rfl, rfl, rfl, fun l => ⟨resetBy_fastPoll cause s l, resetBy_fastDue cause s l⟩,
    rfl, rfl, rfl, rfl, rfl, rfl, rfl, rfl, rfl, rfl, rfl, rfl, rfl, fun free => ?_, fun m carried => ?_⟩
  · simp [State.latch, LatchPair.get]
  · show memoryAtReset s = s.mem
    simp [memoryAtReset, free]
  · show memoryAtReset s = _
    simp [memoryAtReset, carried]

/-- Settles O1: the two cases of a step. -/
theorem stepRunsFrontCommand : Obligations.StepRunsFrontCommand :=
  ⟨fun c rest s front => by simp [step, front], fun s empty => by simp [step, empty]⟩

end Sys2Proof.Machine
end

section
/-! PROOFS. What a step can do to the latches, the channels and the queues, said more finely than by edits: a latch that
is LATCHED, FAILED or in the restore's relatch is changed by few events, and a channel is energised by a grant alone. -/

-- One theorem after the other: a thread for each would ask for more stack space than a build may have.
set_option Elab.async false

namespace Sys2Proof.Machine

/-! ### Moves -/

/-- A latch that only an acknowledgement, a failure, a release or the restore takes to another state. -/
def LatchRec.Settled (r : LatchRec) : Prop :=
  r.st = .latched ∨ r.st = .failed ∨ (r.st = .relatchPending ∧ r.kind = .restore)

/-- A change that leaves contexts, latches, channels, queues, the capacity, the mode and the copies; the frame phase is not
started, and of a locker whose front latch relatches an outstanding latch command stays outstanding. -/
structure Calm (s t : State) : Prop where
  pending : t.pending = s.pending := by rfl
  mode : t.mode = s.mode := by rfl
  copies : t.copies = s.copies := by rfl
  lke : t.lke = s.lke := by rfl
  ltc : t.ltc = s.ltc := by rfl
  chans : t.hsc.chans = s.hsc.chans := by rfl
  hq : t.hsc.hq = s.hsc.hq := by rfl
  wq : t.hsc.wq = s.hsc.wq := by rfl
  capacity : t.hsc.capacity = s.hsc.capacity := by rfl
  frame : s.tmb.frame = none → t.tmb.frame = none := by exact id
  outstanding : ∀ l, (s.latch l .front).st = .relatchPending → (s.paths l).latch.st ≠ .idle →
    (t.paths l).latch.st ≠ .idle := by exact fun _ _ => id

/-- One change, with what it takes for granted. -/
inductive Move (s : State) : State → Prop
  | calm {t : State} (h : Calm s t) : Move s t
  | ctx (l : Locker) (c : Context) : Move s (putCtx l c s)
  /-- The presented code or order. -/
  | presented (l : Locker) (c : Context) (life : c.life = (s.ctx l).life) :
      Move s { s with lke := s.lke.set l.val c }
  /-- A latch is LATCHED, or leaves a state that is not settled, or stays where it is. -/
  | latch (l : Locker) (h : Hatch) (r : LatchRec)
      (may : r.st = .latched ∨ ¬ (s.latch l h).Settled ∨ r.st = (s.latch l h).st ∧ r.kind = (s.latch l h).kind) :
      Move s (putLatch l h r s)
  /-- A channel keeps its locker or lets go of it, and is not energised anew. -/
  | chan (i : Chan) (c : Channel) (attached : c.st.attached = none ∨ c.st.attached = (s.chan i).st.attached)
      (energised : c.st.energised = none ∨ c.st.energised = (s.chan i).st.energised) : Move s (putChan i c s)
  /-- A FREE channel granted, within the capacity, to a ranked locker that has none. -/
  | allocated (i : Chan) (l : Locker) (g : BitVec 32) (free : (s.chan i).st = .free) (unserved : s.attachedChan l = none)
      (ranked : l ∈ s.ranking) (mode : s.mode = .operating) (room : s.energisedCount < s.hsc.capacity) :
      Move s (putChan i { st := .onPending l, stamp := g } s)
  | dropped {h w : List Locker} (hh : h.Sublist s.hsc.hq) (hw : w.Sublist s.hsc.wq) :
      Move s { s with hsc := { s.hsc with hq := h, wq := w } }
  | postedHq (l : Locker) (qualifies : s.qualifiesHq l = true) :
      Move s { s with hsc := { s.hsc with hq := s.hsc.hq ++ [l] } }
  | postedWq (l : Locker) (qualifies : s.qualifiesWq l = true) :
      Move s { s with hsc := { s.hsc with wq := s.hsc.wq ++ [l] } }
  /-- A release of a hatch, both latches LATCHED, with the halt or the command that goes with it. -/
  | release (l : Locker) (h : Hatch) (both : s.bothLatched l = true) : Move s (startRelease l h s)
  /-- An acknowledged latch command, with the front latch's relatch. -/
  | acked (l : Locker) (p : PathPair) (relatches : (s.latch l .front).st = .relatchPending) :
      Move s (putLatch l .front ((s.latch l .front).rest .latched) (putPaths l p s))
  /-- A failed latch command, with what it does to both latches. -/
  | failed (l : Locker) (p : PathPair) : Move s (failHatch l (failHatch l (putPaths l p s) .front) .rear)

/-- A list of moves. -/
def Course : State → State → Prop := Relation.ReflTransGen Move

theorem Course.refl {s : State} : Course s s := Relation.ReflTransGen.refl

theorem Course.one {s t : State} (m : Move s t) : Course s t := Relation.ReflTransGen.single m

theorem Course.trans {s t u : State} (h : Course s t) (k : Course t u) : Course s u := Relation.ReflTransGen.trans h k

/-- A condition that every move keeps is kept along a course. -/
theorem Course.keeps {I : State → Prop} (move : ∀ s t, Move s t → I s → I t) {s t : State} (h : Course s t)
    (holds : I s) : I t := by
  induction h with
  | refl => exact holds
  | tail _ m ih => exact move _ _ m ih

theorem Course.ite {s a b : State} {c : Prop} [Decidable c] (ha : Course s a) (hb : Course s b) :
    Course s (if c then a else b) := by split <;> assumption

theorem Course.fold {α : Type} {f : State → α → State} (h : ∀ s x, Course s (f s x)) (xs : List α) (s : State) :
    Course s (xs.foldl f s) := by
  induction xs generalizing s with
  | nil => exact .refl
  | cons x xs ih => exact (h s x).trans (ih (f s x))

theorem Calm.course {s t : State} (h : Calm s t) : Course s t := .one (.calm h)

/-! ### Calm changes -/

/-- The parts in which a change is calm. -/
def calmParts : List Part :=
  [.cpi, .due, .recs, .fast, .sweep, .sup, .marks, .turns, .counts, .queue, .ringOp, .ring, .mpi, .mem]

/-- A change within these parts and the paths is calm when it leaves outstanding latch commands. -/
theorem Within.calm {bs : List Part} {s t : State} (w : Within bs s t) (h : covers (.paths :: calmParts) bs = true)
    (outstanding : ∀ l, (s.latch l .front).st = .relatchPending → (s.paths l).latch.st ≠ .idle →
      (t.paths l).latch.st ≠ .idle) : Calm s t := by
  have n (x : Part) (hx : x ∉ Part.paths :: calmParts := by decide) : x ∉ bs := covers_mem h hx
  obtain ⟨mode, -, -, copies, -⟩ := w.ops (n .ops)
  obtain ⟨hq, wq⟩ := w.entries (n .entries)
  exact {
    pending := w.pending, mode, copies, lke := w.lke (n .lke), ltc := w.ltc (n .ltc), chans := (w.chans (n .chans)).1,
    hq, wq, capacity := (w.limit (n .limit)).1, frame := fun e => by rw [w.tmb (n .tmb)]; exact e, outstanding }

theorem Within.course {bs : List Part} {s t : State} (w : Within bs s t) (h : covers calmParts bs = true := by rfl) :
    Course s t := by
  refine (w.calm ?_ fun l _ => ?_).course
  · exact List.all_eq_true.mpr fun x hx =>
      List.contains_iff_mem.mpr (List.mem_cons_of_mem _ (List.contains_iff_mem.mp (List.all_eq_true.mp h x hx)))
  · rw [paths_of_ahu (w.paths (covers_mem h (by decide)))]
    exact id

theorem putMark_course {l c b s} : Course s (putMark l c b s) := putMark_within.course
theorem handRecord_course {r s} : Course s (handRecord r s) := handRecord_within.course
theorem putSampler_course {l r s} : Course s (putSampler l r s) := putSampler_within.course
theorem leaveSweep_course {l s} : Course s (leaveSweep l s) := leaveSweep_within.course

/-- A change of a locker's paths, its latch command still outstanding where it was. -/
theorem putPaths_course {l p s} (h : (s.latch l .front).st = .relatchPending → (s.paths l).latch.st ≠ .idle →
    p.latch.st ≠ .idle) : Course s (putPaths l p s) := by
  refine (putPaths_within.calm rfl fun k => ?_).course
  rw [putPaths_paths]
  split
  · next same => subst same; exact h
  · exact fun _ => id

theorem issueHeat_course {l b s} : Course s (issueHeat l b s) := by
  unfold issueHeat
  refine Course.trans ?_ putMark_course
  exact putPaths_course fun _ => id
theorem issueLatch_course {l a b s} : Course s (issueLatch l a b s) := by
  unfold issueLatch
  refine Course.trans ?_ putMark_course
  exact putPaths_course fun _ _ => by simp [PathRec.issue]
theorem zeroErrors_course {l s} : Course s (zeroErrors l s) := putPaths_course fun _ => id
theorem putCtx_course {l c s} : Course s (putCtx l c s) := .one (.ctx l c)
theorem dropHq_course {l s} : Course s (dropHq l s) := .one (.dropped List.filter_sublist (.refl _))
theorem dropWq_course {l s} : Course s (dropWq l s) := .one (.dropped (.refl _) List.filter_sublist)

theorem putPath_course {l k r s} (h : k = .latch → r.st ≠ .idle) : Course s (putPath l k r s) := by
  refine putPaths_course fun _ => ?_
  cases k
  · exact id
  · exact fun _ => h rfl

/-! ### Latches -/

/-- A latch leaves a state that is not settled. -/
theorem putLatch_course_of_unsettled {l h r s} (n : ¬ (s.latch l h).Settled) : Course s (putLatch l h r s) :=
  .one (.latch l h r (.inr (.inl n)))

theorem putLatch_course_of_latched {l h r s} (n : r.st = .latched) : Course s (putLatch l h r s) :=
  .one (.latch l h r (.inl n))

theorem putLatch_course_of_same {l h r s} (st : r.st = (s.latch l h).st) (kind : r.kind = (s.latch l h).kind) :
    Course s (putLatch l h r s) := .one (.latch l h r (.inr (.inr ⟨st, kind⟩)))

/-! ### The heat scheduler -/

theorem turnOff_course {i s} : Course s (turnOff i s) := by
  unfold turnOff
  split
  · next l energised =>
    refine (Course.one (.chan i _ (.inr ?_) (.inl rfl))).trans issueHeat_course
    cases st : (s.chan i).st <;> simp_all [ChanState.energised, ChanState.attached]
  · exact .refl

theorem haltLocker_course {l s} : Course s (haltLocker l s) := by
  unfold haltLocker
  split
  · exact turnOff_course
  · exact .refl

theorem allocateChan_course {i l s} (free : (s.chan i).st = .free) (unserved : s.attachedChan l = none)
    (ranked : l ∈ s.ranking) (mode : s.mode = .operating) (room : s.energisedCount < s.hsc.capacity) :
    Course s (allocateChan i l s) := by
  unfold allocateChan
  dsimp only
  have counted : Course s { s with hsc := { s.hsc with grants := s.hsc.grants + 1 } } := Calm.course {}
  exact (counted.trans (.one (.allocated i l _ free unserved ranked mode room))).trans issueHeat_course

theorem lateGrantLoop_course {n s} (mode : s.mode = .operating) : Course s (lateGrantLoop n s) := by
  induction n generalizing s with
  | zero => exact .refl
  | succ n ih =>
    unfold lateGrantLoop
    split
    · next room =>
      split
      · next i l hi hl =>
        have ranked : l ∈ s.ranking := List.mem_of_find?_eq_some hl
        refine (allocateChan_course (freeChan_free hi) (nextUnserved_none hl) ranked mode room).trans (ih ?_)
        exact (allocateChan_within.ops (by decide)).1.trans mode
      · exact .refl
    · exact .refl

theorem lateGrant_course {s} : Course s (lateGrant s) := by
  unfold lateGrant
  split
  · next mode => exact lateGrantLoop_course mode
  · exact .refl

theorem hscSample_course {l t s} : Course s (hscSample l t s) := by
  have hold {s} : Course s (sampleHq l t s) := by
    unfold sampleHq
    refine .ite ?_ dropHq_course
    split
    · next h => exact (Course.one (.postedHq l (Bool.and_eq_true_iff.mp h).1)).trans lateGrant_course
    · exact .refl
  have warm {s} : Course s (sampleWq l t s) := by
    unfold sampleWq
    refine .ite ?_ dropWq_course
    split
    · next h => exact (Course.one (.postedWq l (Bool.and_eq_true_iff.mp h).1)).trans lateGrant_course
    · exact .refl
  exact hold.trans warm

theorem decreaseLoop_course {n s} : Course s (decreaseLoop n s) := by
  induction n generalizing s with
  | zero => exact .refl
  | succ n ih =>
    unfold decreaseLoop
    split
    · split
      · exact turnOff_course.trans ih
      · exact .refl
    · exact .refl

/-! ### The locker engine -/

theorem withdrawHatch_course {l i s h} : Course s (withdrawHatch l i s h) := by
  unfold withdrawHatch reportWithdrawn
  dsimp only
  split
  · exact (putLatch_course_of_latched rfl).trans handRecord_course
  · next st =>
    exact ((putLatch_course_of_unsettled (by simp [LatchRec.Settled, st])).trans issueLatch_course).trans handRecord_course
  · next st =>
    exact ((putLatch_course_of_unsettled (by simp [LatchRec.Settled, st])).trans issueLatch_course).trans handRecord_course
  · exact .ite handRecord_course .refl
  all_goals exact .refl

theorem withdraw_course {l i s} : Course s (withdraw l i s) := withdrawHatch_course.trans withdrawHatch_course

theorem enterHalting_course {l c s} : Course s (enterHalting l c s) := putCtx_course.trans haltLocker_course

theorem enterVacant_course {l s} : Course s (enterVacant l s) :=
  ((enterHalting_course.trans zeroErrors_course).trans putSampler_course).trans leaveSweep_course

theorem quarantine_course {l r s} : Course s (quarantine l r s) :=
  (enterHalting_course.trans handRecord_course).trans withdraw_course

theorem quarantineCause_course {l r s} : Course s (quarantineCause l r s) :=
  .ite enterHalting_course (.ite .refl (.ite .refl quarantine_course))

theorem relatchOutcome_course {l h o s} : Course s (relatchOutcome l h o s) := by
  unfold relatchOutcome
  split
  · unfold relatchLoading
    dsimp only
    split <;> exact putCtx_course.trans handRecord_course
  · unfold relatchCollecting
    dsimp only
    split
    · exact enterVacant_course.trans handRecord_course
    · split
      · exact putCtx_course.trans handRecord_course
      · exact enterHalting_course.trans handRecord_course
    · exact putCtx_course.trans handRecord_course
  · unfold relatchClearing
    dsimp only
    split
    · exact enterVacant_course.trans handRecord_course
    · exact quarantine_course
    · exact (Course.ite putCtx_course enterHalting_course).trans handRecord_course
  all_goals exact .refl

theorem requestRelease_course {l h s} : Course s (requestRelease l h s) := by
  unfold requestRelease
  split
  · next both => exact .one (.release l h both)
  · exact relatchOutcome_course

theorem takeExpiry_course {l e s} : Course s (takeExpiry l e s) := by
  unfold takeExpiry
  dsimp only
  split
  · exact enterHalting_course.trans handRecord_course
  · exact .ite (putCtx_course.trans handRecord_course)
      ((enterHalting_course.trans handRecord_course).trans withdraw_course)
  all_goals exact .refl

theorem judgeExpiry_course {l s} : Course s (judgeExpiry l s) := by
  unfold judgeExpiry
  split
  · split
    · exact takeExpiry_course
    · exact .refl
  · exact .refl

theorem lateOpening_course {l h s} : Course s (lateOpening l h s) := by
  unfold lateOpening
  dsimp only
  split
  · exact putCtx_course
  all_goals exact .refl

theorem lkeSample_course {l t s} : Course s (lkeSample l t s) := .ite (putCtx_course.trans handRecord_course) .refl

/-! ### The latch controller -/

theorem freeNotice_course {l s h} : Course s (freeNotice l s h) := by
  unfold freeNotice
  dsimp only
  split
  · next st => exact (putLatch_course_of_unsettled (by simp [LatchRec.Settled, st])).trans issueLatch_course
  · exact .refl

theorem ltcFree_course {l s} : Course s (ltcFree l s) := freeNotice_course.trans freeNotice_course

theorem ackHatch_course {l s h} : Course s (ackHatch l s h) := by
  unfold ackHatch
  dsimp only
  split
  · next st => exact putLatch_course_of_unsettled (by simp [LatchRec.Settled, st])
  · split
    · exact (putLatch_course_of_latched rfl).trans relatchOutcome_course
    · exact (putLatch_course_of_latched rfl).trans relatchOutcome_course
    · exact putLatch_course_of_latched rfl
    · exact putLatch_course_of_latched rfl
  all_goals exact .refl

/-- An acknowledged latch command: the path is idle, and the front latch takes the acknowledgement. -/
theorem ackHatch_putPaths_course {l p s} : Course s (ackHatch l (putPaths l p s) .front) := by
  have same : (putPaths l p s).latch l .front = s.latch l .front := latch_of_ltc (putPaths_within.ltc (by decide)) l _
  by_cases relatches : (s.latch l .front).st = .relatchPending
  · have acked : Course s (putLatch l .front ((s.latch l .front).rest .latched) (putPaths l p s)) :=
      .one (.acked l p relatches)
    unfold ackHatch
    simp only [same, relatches]
    split
    · exact acked.trans relatchOutcome_course
    · exact acked.trans relatchOutcome_course
    · exact acked
    · exact acked
  · exact (putPaths_course fun st => absurd st relatches).trans ackHatch_course

theorem forcedHatch_course {l h w s} : Course s (forcedHatch l h w s) := handRecord_course.trans quarantineCause_course

theorem seenOpen_course {l h s} : Course s (seenOpen l h s) := by
  unfold seenOpen
  dsimp only
  split
  · refine .ite .refl (Course.trans ?_ forcedHatch_course)
    exact putLatch_course_of_same rfl rfl
  · next st => exact (putLatch_course_of_unsettled (by simp [LatchRec.Settled, st])).trans forcedHatch_course
  · next st => exact (putLatch_course_of_unsettled (by simp [LatchRec.Settled, st])).trans forcedHatch_course
  · next st => exact putLatch_course_of_unsettled (by simp [LatchRec.Settled, st])
  · next st =>
    split
    · next kind => exact putLatch_course_of_unsettled (by simp [LatchRec.Settled, st, kind])
    · next kind => exact (putLatch_course_of_unsettled (by simp [LatchRec.Settled, st, kind])).trans lateOpening_course
    · exact .refl
    · exact .refl
  all_goals exact .refl

theorem seenClosed_course {l h tray s} : Course s (seenClosed l h tray s) := by
  unfold seenClosed
  dsimp only
  split
  · exact putLatch_course_of_same rfl rfl
  · next st => exact (putLatch_course_of_unsettled (by simp [LatchRec.Settled, st])).trans issueLatch_course
  all_goals exact .refl

theorem ltcReading_course {l x s} : Course s (ltcReading l x s) :=
  (Course.ite seenClosed_course seenOpen_course).trans (Course.ite seenClosed_course seenOpen_course)

theorem expireOpenWait_course {l h s} (st : (s.latch l h).st = .openWait) : Course s (expireOpenWait l h s) :=
  (putLatch_course_of_unsettled (by simp [LatchRec.Settled, st])).trans issueLatch_course

theorem expireHatchHeld_course {l h s} : Course s (expireHatchHeld l h s) := by
  unfold expireHatchHeld
  refine Course.trans ?_ handRecord_course
  exact putLatch_course_of_same rfl rfl

theorem secondHatch_course {l s h} : Course s (secondHatch l s h) := by
  unfold secondHatch
  dsimp only
  split
  · next st => exact .ite (expireOpenWait_course st) (putLatch_course_of_same rfl rfl)
  · exact .ite .refl (.ite expireHatchHeld_course (putLatch_course_of_same rfl rfl))
  all_goals exact .refl

theorem ltcSeconds_course {s} : Course s (ltcSeconds s) :=
  Course.fold (f := secondLatches) (fun _ _ => secondHatch_course.trans secondHatch_course) _ _

/-! ### The handshake -/

theorem hscAck_course {l s} : Course s (hscAck l s) := by
  unfold hscAck
  split
  · next i found =>
    have attached := attachedChan_attached found
    split
    · next k st =>
      rw [st] at attached
      cases attached
      exact .one (.chan i _ (.inr (by rw [st]; rfl)) (.inr (by rw [st]; rfl)))
    · next k st =>
      exact ((Course.one (.chan i _ (.inl rfl) (.inl rfl))).trans ltcFree_course).trans lateGrant_course
    all_goals exact .refl
  · exact .refl

theorem heatFailed_course {l s} : Course s (heatFailed l s) := by
  have on : Course s (hscOnFailed l s) := by
    unfold hscOnFailed
    split
    · exact turnOff_course.trans quarantineCause_course
    · exact .refl
  have off : Course s (hscOffFailed l s) := by
    unfold hscOffFailed
    split
    · next i found =>
      have lost : Course s (putChan i { s.chan i with st := .lost } s) := .one (.chan i _ (.inl rfl) (.inl rfl))
      refine ((lost.trans (Calm.course ?_)).trans handRecord_course).trans quarantineCause_course
      exact {}
    · exact .refl
  exact .ite quarantineCause_course (.ite on off)

theorem commandFailed_course {l k r s} : Course s (commandFailed l k r s) := by
  cases k
  · exact (putPath_course (by simp)).trans heatFailed_course
  · exact (Course.one (.failed l _)).trans quarantineCause_course

theorem commandReissued_course {l k r s} : Course s (commandReissued l k r s) :=
  (putPath_course fun _ => by simp [PathRec.reissue]).trans putMark_course

theorem pathError_course {l k r s} : Course s (pathError l k r s) :=
  .ite (.ite commandFailed_course commandReissued_course) (.ite commandFailed_course commandReissued_course)

theorem pathAck_course {l k r s} : Course s (pathAck l k r s) := by
  cases k
  · exact (putPath_course (by simp)).trans hscAck_course
  · exact ackHatch_putPaths_course.trans ackHatch_course

theorem pathNoAnswer_course {l k r s} (h : r.st ≠ .idle) : Course s (pathNoAnswer l k r s) :=
  .ite pathError_course (putPath_course fun _ => h)

theorem judgePath_course {l w s k} : Course s (judgePath l w s k) := by
  unfold judgePath
  dsimp only
  split
  · next probing =>
    have outstanding : ((s.paths l).get k).st ≠ .idle := by simp [probing]
    split
    · exact pathNoAnswer_course outstanding
    · split
      · split
        · exact pathAck_course
        · exact .ite pathError_course (putPath_course fun _ => outstanding)
        · exact commandFailed_course
        · exact pathNoAnswer_course outstanding
      · exact pathNoAnswer_course outstanding
  · exact .refl

theorem judgeProbe_course {l w s} : Course s (judgeProbe l w s) := judgePath_course.trans judgePath_course

theorem pathLanded_course {l k q s} : Course s (pathLanded l k q s) := by
  unfold pathLanded
  dsimp only
  split
  · next now =>
    refine putPaths_course fun _ => ?_
    cases k
    · exact id
    · exact fun _ => by simp [PathPair.set]
  · exact .refl

/-! ### The sampler and the seconds -/

theorem pollResult_course {k l w s} : Course s (pollResult k l w s) := by
  have implausible {s} : Course s (implausibleResult k l s) := by
    unfold implausibleResult
    split
    · exact .refl
    · exact .ite (putSampler_course.trans quarantineCause_course) putSampler_course
  have stale {q s} : Course s (staleStep k l q s) := by
    unfold staleStep
    split
    · exact .refl
    · exact .ite (.ite (putSampler_course.trans quarantineCause_course) putSampler_course) putSampler_course
  have valid {t s} : Course s (validSteps l t s) := by
    have hot {s} : Course s (overtempStep l t s) := .ite quarantineCause_course .refl
    have upper {s} : Course s (upperStep l t s) := .ite haltLocker_course .refl
    exact ((hot.trans upper).trans hscSample_course).trans lkeSample_course
  unfold pollResult
  split
  · exact .refl
  · split
    · exact implausible
    · dsimp only
      split
      · exact ((putSampler_course.trans stale).trans valid).trans ltcReading_course
      · exact (implausible.trans stale).trans ltcReading_course

theorem countLocker_course {l s} : Course s (countLocker l s) := .ite putCtx_course .refl

theorem endLockout_course {l s} : Course s (endLockout l s) := putCtx_course.trans handRecord_course

theorem countLockout_course {l s} : Course s (countLockout l s) := .ite (.ite endLockout_course putCtx_course) .refl

theorem lkeSeconds_course {s} : Course s (lkeSeconds s) :=
  Course.fold (f := secondLocker) (fun _ _ => (countLocker_course.trans judgeExpiry_course).trans countLockout_course) _ _

/-! ### Commands and the bus passage -/

theorem applyOutcome_course {l w o s} : Course s (applyOutcome l w o s) := by
  unfold applyOutcome
  split
  · exact putCtx_course
  · exact enterVacant_course
  · exact enterHalting_course.trans requestRelease_course
  · exact putCtx_course.trans requestRelease_course
  · exact enterHalting_course.trans requestRelease_course
  · exact .ite (putCtx_course.trans handRecord_course) putCtx_course
  · exact .refl

theorem presented_course {l : Locker} {c : Context} {s : State} (life : c.life = (s.ctx l).life) :
    Course s { s with lke := s.lke.set l.val c } := .one (.presented l c life)

theorem commonEffects_course {l s} : Course s (commonEffects l s) := by
  unfold commonEffects
  refine Course.trans ?_ putMark_course
  exact presented_course rfl

theorem captureCode_course {l w s} : Course s (captureCode l w s) := by
  unfold captureCode
  refine Course.trans ?_ putMark_course
  exact presented_course rfl

theorem captureOrder_course {l w s} : Course s (captureOrder l w s) := presented_course rfl

theorem evaluation_course {l w s} : Course s (evaluation l w s) := applyOutcome_course.trans commonEffects_course

theorem decideTxn_course {x s} : Course s (decideTxn x s) := by
  have forward {e y u} : Course u (forward y e u) := forward_within.course
  unfold decideTxn
  split
  · unfold decideWrite
    split
    · exact refuse_within.course
    · refine .ite ?_ forward
      unfold takeWrite
      dsimp only
      split
      · exact evaluation_course.trans forward
      · exact captureCode_course.trans forward
      · exact captureOrder_course.trans forward
      all_goals exact forward
  · exact .ite (.ite forward ((Calm.course (s := s) {}).trans promote_within.course)) forward

theorem arrive_course {x s} : Course s (arrive x s) :=
  .ite (Calm.course {}) ((Calm.course (s := s) {}).trans decideTxn_course)

theorem releaseStart_course {s} : Course s (releaseStart s) := by
  unfold releaseStart
  split
  · exact decideTxn_course
  all_goals exact .refl

theorem settle_course {s} : Course s (settle s) := settle_within.course

end Sys2Proof.Machine
end

section
/-! PROOFS. The rules of the heat scheduler's state: what turns a channel off, what a halt and a release at the frame start
leave of each channel, how many channels are energised, and which queue entries a change of a context or a latch leaves
(R102, R103, R105, R109, R112, R116). -/

-- One theorem after the other: a thread for each would ask for more stack space than a build may have.
set_option Elab.async false

namespace Sys2Proof.Machine

/-! ### Attached and energised channels (R102) -/

theorem ChanState.attached_of_energised {c : ChanState} {l : Locker} (h : c.energised = some l) : c.attached = some l := by
  cases c <;> simp_all [ChanState.energised, ChanState.attached]

theorem ChanState.energised_eq_some {c : ChanState} {l : Locker} (h : c.energised = some l) :
    c = .onPending l ∨ c = .on l := by
  cases c <;> simp_all [ChanState.energised]

theorem attachedChan_eq_none_iff {s : State} {l : Locker} :
    s.attachedChan l = none ↔ ∀ i : Chan, (s.chan i).st.attached ≠ some l := by
  simp [State.attachedChan, allChans, List.find?_eq_none]

/-- With distinct channels the channel found is the one that is attached. -/
theorem attachedChan_eq_some {s : State} {l : Locker} {i : Chan} (d : ChannelsDistinct s)
    (h : (s.chan i).st.attached = some l) : s.attachedChan l = some i := by
  cases found : s.attachedChan l with
  | none => exact absurd h (attachedChan_eq_none_iff.mp found i)
  | some j => rw [d i j l h (attachedChan_attached found)]

/-! ### Turning a channel off (R103, R116) -/

theorem turnOff_of_energised {s : State} {i : Chan} {l : Locker} (h : (s.chan i).st.energised = some l) :
    turnOff i s = issueHeat l false (putChan i { s.chan i with st := .offPending l } s) := by simp [turnOff, h]

theorem turnOff_of_idle {s : State} {i : Chan} (h : (s.chan i).st.energised = none) : turnOff i s = s := by
  simp [turnOff, h]

@[simp] theorem issueHeat_chan (l : Locker) (b : Bool) (s : State) (i : Chan) : (issueHeat l b s).chan i = s.chan i :=
  chan_of_hsc (issueHeat_within.chans (by decide)).1 i

@[simp] theorem issueLatch_chan (l : Locker) (a b : Bool) (s : State) (i : Chan) :
    (issueLatch l a b s).chan i = s.chan i := chan_of_hsc (issueLatch_within.chans (by decide)).1 i

@[simp] theorem putLatch_chan (l : Locker) (h : Hatch) (r : LatchRec) (s : State) (i : Chan) :
    (putLatch l h r s).chan i = s.chan i := chan_of_hsc (putLatch_within.chans (by decide)).1 i

@[simp] theorem putCtx_chan (l : Locker) (c : Context) (s : State) (i : Chan) : (putCtx l c s).chan i = s.chan i :=
  chan_of_hsc (putCtx_within.chans (by decide)).1 i

theorem turnOff_chan_self {s : State} {i : Chan} {l : Locker} (h : (s.chan i).st.energised = some l) :
    (turnOff i s).chan i = { s.chan i with st := .offPending l } := by
  rw [turnOff_of_energised h, issueHeat_chan, putChan_chan, if_pos rfl]

theorem turnOff_chan_ne {s : State} {i j : Chan} (h : j ≠ i) : (turnOff i s).chan j = s.chan j := by
  unfold turnOff
  split
  · rw [issueHeat_chan, putChan_chan, if_neg h]
  · rfl

/-- The locker of a channel turned off has an off command. -/
theorem turnOff_commanded {s : State} {i : Chan} {l : Locker} (h : (s.chan i).st.energised = some l) :
    HeatCommanded l false s (turnOff i s) := by
  rw [turnOff_of_energised h]
  obtain ⟨on, st, seq, mark⟩ := issueHeat_commanded l false (putChan i { s.chan i with st := .offPending l } s)
  exact ⟨on, st, by rw [seq, paths_of_ahu (putChan_within.paths (by decide))], mark⟩

/-- The paths of every other locker stand. -/
theorem turnOff_paths_ne {s : State} {i : Chan} {k : Locker} (h : (s.chan i).st.energised ≠ some k) :
    (turnOff i s).paths k = s.paths k := by
  unfold turnOff
  split
  · next l energised =>
    have ne : k ≠ l := fun e => h (e ▸ energised)
    rw [issueHeat_paths, if_neg ne, paths_of_ahu (putChan_within.paths (by decide))]
  · rfl

/-! ### Channels that let go (R102, R116) -/

/-- Every channel keeps its locker or lets go of it, and none is energised anew. -/
def Eases (s t : State) : Prop := ∀ i : Chan,
  ((t.chan i).st.attached = none ∨ (t.chan i).st.attached = (s.chan i).st.attached)
    ∧ ((t.chan i).st.energised = none ∨ (t.chan i).st.energised = (s.chan i).st.energised)

theorem Eases.of_chans {s t : State} (h : ∀ i, t.chan i = s.chan i) : Eases s t := fun i => by simp [h i]

theorem Eases.trans {s t u : State} (h : Eases s t) (k : Eases t u) : Eases s u := fun i => by
  obtain ⟨ha, he⟩ := h i
  obtain ⟨ka, ke⟩ := k i
  refine ⟨ka.elim .inl fun e => ?_, ke.elim .inl fun e => ?_⟩
  · rw [e]; exact ha
  · rw [e]; exact he

theorem Eases.attached {s t : State} (h : Eases s t) {i : Chan} {l : Locker} (a : (t.chan i).st.attached = some l) :
    (s.chan i).st.attached = some l := by
  rcases (h i).1 with e | e
  · simp [e] at a
  · rw [← e, a]

theorem Eases.energised {s t : State} (h : Eases s t) {i : Chan} {l : Locker} (a : (t.chan i).st.energised = some l) :
    (s.chan i).st.energised = some l := by
  rcases (h i).2 with e | e
  · simp [e] at a
  · rw [← e, a]

theorem Eases.channelsDistinct {s t : State} (h : Eases s t) (d : ChannelsDistinct s) : ChannelsDistinct t :=
  fun i j l hi hj => d i j l (h.attached hi) (h.attached hj)

theorem Eases.unattached {s t : State} (h : Eases s t) (n : ∀ i : Chan, (s.chan i).st.attached = none) (i : Chan) :
    (t.chan i).st.attached = none := by
  rcases (h i).1 with e | e
  · exact e
  · rw [e, n i]

theorem Eases.energisedCount_le {s t : State} (h : Eases s t) : t.energisedCount ≤ s.energisedCount := by
  refine List.countP_mono_left fun i _ on => ?_
  obtain ⟨l, energised⟩ := Option.isSome_iff_exists.mp on
  exact Option.isSome_iff_exists.mpr ⟨l, h.energised energised⟩

theorem putChan_eases {s : State} {i : Chan} {c : Channel}
    (attached : c.st.attached = none ∨ c.st.attached = (s.chan i).st.attached)
    (energised : c.st.energised = none ∨ c.st.energised = (s.chan i).st.energised) : Eases s (putChan i c s) := fun j => by
  rw [putChan_chan]
  split
  · next same => subst same; exact ⟨attached, energised⟩
  · exact ⟨.inr rfl, .inr rfl⟩

theorem turnOff_eases {i : Chan} {s : State} : Eases s (turnOff i s) := by
  cases energised : (s.chan i).st.energised with
  | none => rw [turnOff_of_idle energised]; exact .of_chans fun _ => rfl
  | some l =>
    rw [turnOff_of_energised energised]
    refine Eases.trans (putChan_eases (.inr ?_) (.inl rfl)) (.of_chans (issueHeat_chan l false _))
    exact (ChanState.attached_of_energised energised).symm

theorem haltLocker_eases {l : Locker} {s : State} : Eases s (haltLocker l s) := by
  unfold haltLocker
  split
  · exact turnOff_eases
  · exact .of_chans fun _ => rfl

/-! ### Halts (R116) -/

theorem haltLocker_of_attached {s : State} {l : Locker} {i : Chan} (d : ChannelsDistinct s)
    (h : (s.chan i).st.attached = some l) : haltLocker l s = turnOff i s := by
  simp [haltLocker, attachedChan_eq_some d h]

theorem haltLocker_of_none {s : State} {l : Locker} (h : s.attachedChan l = none) : haltLocker l s = s := by
  simp [haltLocker, h]

/-- After a halt the locker has no energised channel. -/
theorem haltLocker_energised {s : State} {l : Locker} (d : ChannelsDistinct s) (i : Chan) :
    ((haltLocker l s).chan i).st.energised ≠ some l := by
  intro energised
  have before := haltLocker_eases.energised energised
  rw [haltLocker_of_attached d (ChanState.attached_of_energised before), turnOff_chan_self before] at energised
  simp [ChanState.energised] at energised

/-! ### The energised count (R105) -/

/-- The energised count is at most the length of any list that holds the lockers of the energised channels. -/
theorem energisedCount_le_length {s : State} {ls : List Locker} (d : ChannelsDistinct s)
    (h : ∀ i l, (s.chan i).st.energised = some l → l ∈ ls) : s.energisedCount ≤ ls.length := by
  let on : List Locker := allChans.filterMap fun i => (s.chan i).st.energised
  have nodup : on.Nodup := (List.nodup_finRange 16).filterMap fun i j l hi hj =>
    d i j l (ChanState.attached_of_energised hi) (ChanState.attached_of_energised hj)
  have listed : on ⊆ ls := fun l hl => by
    obtain ⟨i, -, energised⟩ := List.mem_filterMap.mp hl
    exact h i l energised
  have count : s.energisedCount = on.length := (List.length_filterMap_eq_countP ..).symm
  rw [count]
  exact (List.subperm_of_subset nodup listed).length_le

theorem energisedCount_le_sixteen (s : State) : s.energisedCount ≤ 16 :=
  (List.countP_le_length).trans (by simp [allChans])

/-- A channel turned off is one energised channel fewer. -/
theorem turnOff_energisedCount {s : State} {i : Chan} (h : (s.chan i).st.energised.isSome = true) :
    (turnOff i s).energisedCount + 1 = s.energisedCount := by
  obtain ⟨l, energised⟩ := Option.isSome_iff_exists.mp h
  have change := countP_change i (fun j => (s.chan j).st.energised.isSome)
    (fun j => ((turnOff i s).chan j).st.energised.isSome) fun j ne => by rw [turnOff_chan_ne ne]
  rw [turnOff_chan_self energised, h] at change
  simpa [State.energisedCount, allChans, ChanState.energised] using change

/-- A FREE channel granted is one energised channel more. -/
theorem putChan_energisedCount_of_free {s : State} {i : Chan} {l : Locker} {g : BitVec 32} (h : (s.chan i).st = .free) :
    (putChan i { st := .onPending l, stamp := g } s).energisedCount = s.energisedCount + 1 := by
  have change := countP_change i (fun j => (s.chan j).st.energised.isSome)
    (fun j => ((putChan i { st := .onPending l, stamp := g } s).chan j).st.energised.isSome)
    fun j ne => by rw [putChan_chan, if_neg ne]
  rw [putChan_chan, if_pos rfl, h] at change
  simpa [State.energisedCount, allChans, ChanState.energised] using change

/-! ### A capacity decrease (R118) -/

theorem mostRecent_mem {s : State} {is : List Chan} {i : Chan} (h : mostRecent s is = some i) : i ∈ is := by
  induction is generalizing i with
  | nil => cases h
  | cons j rest ih =>
    unfold mostRecent at h
    split at h
    · cases h; exact List.mem_cons_self
    · next k found =>
      split at h <;> cases h
      · exact List.mem_cons_of_mem _ (ih found)
      · exact List.mem_cons_self

theorem mostRecent_eq_none {s : State} {is : List Chan} (h : mostRecent s is = none) : is = [] := by
  cases is with
  | nil => rfl
  | cons i rest =>
    unfold mostRecent at h
    split at h
    · cases h
    · split at h <;> cases h

theorem warmingChan_energised {s : State} {i : Chan} (h : s.warmingChan i = true) :
    (s.chan i).st.energised.isSome = true := by
  unfold State.warmingChan at h
  split at h
  · next energised => rw [energised]; rfl
  · cases h

theorem victim_energised {s : State} {i : Chan} (h : s.victim = some i) : (s.chan i).st.energised.isSome = true := by
  rcases Option.or_eq_some_iff.mp h with warm | ⟨-, other⟩
  · exact warmingChan_energised (List.mem_filter.mp (mostRecent_mem warm)).2
  · exact (List.mem_filter.mp (mostRecent_mem other)).2

theorem victim_isSome {s : State} (h : 0 < s.energisedCount) : ∃ i, s.victim = some i := by
  cases found : s.victim with
  | some i => exact ⟨i, rfl⟩
  | none =>
    have empty := mostRecent_eq_none (Option.or_eq_none_iff.mp found).2
    rw [State.energisedCount, List.countP_eq_length_filter, empty] at h
    exact absurd h (Nat.lt_irrefl 0)

theorem turnOff_capacity (i : Chan) (s : State) : (turnOff i s).hsc.capacity = s.hsc.capacity :=
  (turnOff_within.limit (by decide)).1

theorem decreaseLoop_eases {n : Nat} {s : State} : Eases s (decreaseLoop n s) := by
  induction n generalizing s with
  | zero => exact .of_chans fun _ => rfl
  | succ n ih =>
    unfold decreaseLoop
    split
    · split
      · exact turnOff_eases.trans ih
      · exact .of_chans fun _ => rfl
    · exact .of_chans fun _ => rfl

/-- With fuel for the excess the decrease ends at the capacity, or below where the count was. -/
theorem decreaseLoop_energisedCount {n : Nat} {s : State} (fuel : s.energisedCount ≤ n + s.hsc.capacity) :
    (decreaseLoop n s).energisedCount = min s.energisedCount s.hsc.capacity := by
  induction n generalizing s with
  | zero => simp only [decreaseLoop]; omega
  | succ n ih =>
    unfold decreaseLoop
    split
    · next excess =>
      obtain ⟨i, found⟩ := victim_isSome (s := s) (by omega)
      have fewer := turnOff_energisedCount (victim_energised found)
      have cap := turnOff_capacity i s
      simp only [found]
      rw [ih (by omega), cap]
      omega
    · omega

/-! ### Releases at the frame start (R112) -/

theorem releaseUngranted_eq {g : List Locker} {s : State} {i : Chan} :
    releaseUngranted g s i = if ∃ l ∉ g, (s.chan i).st.energised = some l then turnOff i s else s := by
  unfold releaseUngranted
  split
  · next l energised =>
    by_cases granted : l ∈ g <;> simp [energised, granted]
  · next idle => simp [idle]

theorem releaseUngranted_chan_ne {g : List Locker} {s : State} {i j : Chan} (h : j ≠ i) :
    (releaseUngranted g s i).chan j = s.chan j := by
  rw [releaseUngranted_eq]
  split
  · exact turnOff_chan_ne h
  · rfl

theorem releaseUngranted_chan_congr {g : List Locker} {s t : State} {i : Chan} (h : t.chan i = s.chan i) :
    (releaseUngranted g t i).chan i = (releaseUngranted g s i).chan i := by
  simp only [releaseUngranted_eq, h]
  split
  · next out =>
    obtain ⟨l, -, energised⟩ := out
    rw [turnOff_chan_self energised, turnOff_chan_self (h ▸ energised), h]
  · exact h

/-- The releases of a frame start take each channel by itself. -/
theorem foldl_releaseUngranted_chan {g : List Locker} {is : List Chan} (d : is.Nodup) (s : State) (i : Chan) :
    (is.foldl (releaseUngranted g) s).chan i = if i ∈ is then (releaseUngranted g s i).chan i else s.chan i := by
  induction is generalizing s with
  | nil => simp
  | cons j rest ih =>
    obtain ⟨fresh, d⟩ := List.nodup_cons.mp d
    rw [List.foldl_cons, ih d]
    by_cases same : i = j
    · subst same; simp [fresh]
    · simp only [List.mem_cons, same, false_or, releaseUngranted_chan_ne same]
      split
      · exact releaseUngranted_chan_congr (releaseUngranted_chan_ne same)
      · rfl

/-- A channel after the releases of a frame start: energised for a locker not granted, it is turned off. -/
theorem frameReleases_chan (g : List Locker) (s : State) (i : Chan) :
    (allChans.foldl (releaseUngranted g) s).chan i = (releaseUngranted g s i).chan i := by
  have all : i ∈ allChans := List.mem_finRange i
  rw [foldl_releaseUngranted_chan (is := allChans) (List.nodup_finRange 16), if_pos all]

theorem releaseUngranted_eases {g : List Locker} {s : State} {i : Chan} : Eases s (releaseUngranted g s i) := by
  rw [releaseUngranted_eq]
  split
  · exact turnOff_eases
  · exact .of_chans fun _ => rfl

theorem frameReleases_eases (g : List Locker) (s : State) : Eases s (allChans.foldl (releaseUngranted g) s) := fun i => by
  rw [frameReleases_chan]
  exact releaseUngranted_eases i

/-- After the releases every energised channel belongs to a granted locker. -/
theorem frameReleases_energised {g : List Locker} {s : State} {i : Chan} {l : Locker}
    (h : ((allChans.foldl (releaseUngranted g) s).chan i).st.energised = some l) : l ∈ g := by
  rw [frameReleases_chan, releaseUngranted_eq] at h
  split at h
  · next out =>
    obtain ⟨k, -, energised⟩ := out
    rw [turnOff_chan_self energised] at h
    simp [ChanState.energised] at h
  · next inside =>
    by_contra out
    exact inside ⟨l, out, h⟩

/-! ### The walk of a frame start (R111) -/

theorem allocateChan_chan (i j : Chan) (l : Locker) (s : State) :
    (allocateChan i l s).chan j = if j = i then { st := .onPending l, stamp := s.hsc.grants + 1 } else s.chan j := by
  unfold allocateChan
  dsimp only
  rw [issueHeat_chan, putChan_chan]
  rfl

theorem allocateChan_capacity (i : Chan) (l : Locker) (s : State) :
    (allocateChan i l s).hsc.capacity = s.hsc.capacity := (allocateChan_within.limit (by decide)).1

theorem walkQueue_capacity (ls : List Locker) (s : State) (g : List Locker) :
    (walkQueue ls s g).s.hsc.capacity = s.hsc.capacity := (walkQueue_within.limit (by decide)).1

/-- A walk grants within the capacity. -/
theorem walkQueue_granted_length {ls : List Locker} {s : State} {g : List Locker} (h : g.length ≤ s.hsc.capacity) :
    (walkQueue ls s g).granted.length ≤ s.hsc.capacity := by
  induction ls generalizing s g with
  | nil => exact h
  | cons l rest ih =>
    unfold walkQueue
    split
    · next room =>
      have one : (l :: g).length ≤ s.hsc.capacity := room
      split
      · split
        · exact ih one
        · exact ih h
      · split
        · rw [← allocateChan_capacity]
          exact ih (by rw [allocateChan_capacity]; exact one)
        · exact ih h
    · exact h

/-- A channel that a walk energises belongs to an entry walked. -/
theorem walkQueue_energised {ls : List Locker} {s : State} {g : List Locker} {i : Chan} {l : Locker}
    (h : ((walkQueue ls s g).s.chan i).st.energised = some l) : (s.chan i).st.energised = some l ∨ l ∈ ls := by
  induction ls generalizing s g with
  | nil => exact .inl h
  | cons k rest ih =>
    unfold walkQueue at h
    split at h
    · split at h
      · split at h
        · exact (ih h).imp_right (List.mem_cons_of_mem _)
        · exact (ih h).imp_right (List.mem_cons_of_mem _)
      · split at h
        · next j free =>
          rcases ih h with before | later
          · rw [allocateChan_chan] at before
            split at before
            · simp only [ChanState.energised, Option.some.injEq] at before
              exact .inr (before ▸ List.mem_cons_self)
            · exact .inl before
          · exact .inr (List.mem_cons_of_mem _ later)
        · exact (ih h).imp_right (List.mem_cons_of_mem _)
    · exact .inl h

/-! ### Queue entries after a change (R109) -/

theorem qualifiesHq_congr {s t : State} {l : Locker} (life : (t.ctx l).life = (s.ctx l).life)
    (latches : t.latches l = s.latches l) : t.qualifiesHq l = s.qualifiesHq l := by
  simp [State.qualifiesHq, State.bothLatched, life, latches]

theorem qualifiesWq_congr {s t : State} {l : Locker} (life : (t.ctx l).life = (s.ctx l).life)
    (latches : t.latches l = s.latches l) : t.qualifiesWq l = s.qualifiesWq l := by
  simp [State.qualifiesWq, State.bothLatched, life, latches]

/-- The entries of a queue that a notice about a locker leaves. -/
def entriesAfter (l : Locker) (qualifies : Bool) (q : List Locker) : List Locker :=
  if qualifies then q else q.filter (· ≠ l)

theorem entriesAfter_sublist (l : Locker) (b : Bool) (q : List Locker) : (entriesAfter l b q).Sublist q := by
  unfold entriesAfter
  split
  · exact .refl q
  · exact List.filter_sublist

theorem mem_entriesAfter {l k : Locker} {b : Bool} {q : List Locker} (h : k ∈ entriesAfter l b q) :
    k ∈ q ∧ (k = l → b = true) := by
  unfold entriesAfter at h
  split at h
  · next qualifies => exact ⟨h, fun _ => qualifies⟩
  · obtain ⟨listed, ne⟩ := List.mem_filter.mp h
    exact ⟨listed, fun e => absurd e (by simpa using ne)⟩

theorem hscNotice_hq (l : Locker) (s : State) : (hscNotice l s).hsc.hq = entriesAfter l (s.qualifiesHq l) s.hsc.hq :=
  (hscNotice_queues l s).1

theorem hscNotice_wq (l : Locker) (s : State) : (hscNotice l s).hsc.wq = entriesAfter l (s.qualifiesWq l) s.hsc.wq :=
  (hscNotice_queues l s).2

/-- A change of a context leaves the entries, or notices a change of its lifecycle state. -/
theorem putCtx_queues (l : Locker) (c : Context) (s : State) :
    (putCtx l c s).hsc.hq = (if (s.ctx l).life = c.life then s.hsc.hq
      else entriesAfter l ((putCtx l c s).qualifiesHq l) s.hsc.hq)
    ∧ (putCtx l c s).hsc.wq = (if (s.ctx l).life = c.life then s.hsc.wq
      else entriesAfter l ((putCtx l c s).qualifiesWq l) s.hsc.wq) := by
  let u : State := countQuarantine (s.ctx l).life c.life
    (markIf ((s.ctx l).hold ≠ c.hold || (s.ctx l).cold ≠ c.cold) l .hold
      (markIf (stateFieldsDiffer (s.ctx l) c) l .state { s with lke := s.lke.set l.val c }))
  have eq : putCtx l c s = if (s.ctx l).life ≠ c.life then hscNotice l u else u := rfl
  have hsc : u.hsc = s.hsc := by simp only [u, countQuarantine_hsc, markIf_hsc]
  by_cases life : (s.ctx l).life = c.life
  · rw [eq, if_neg (not_not.mpr life), if_pos life, if_pos life, hsc]
    exact ⟨rfl, rfl⟩
  · rw [eq, if_pos life, if_neg life, if_neg life]
    have lke := ctx_of_lke (hscNotice_within (l := l) (s := u) |>.lke (by decide)) l
    have ltc := latches_of_ltc (hscNotice_within (l := l) (s := u) |>.ltc (by decide)) l
    rw [qualifiesHq_congr (congrArg Context.life lke) ltc, qualifiesWq_congr (congrArg Context.life lke) ltc,
      hscNotice_hq, hscNotice_wq, hsc]
    exact ⟨rfl, rfl⟩

/-- A change of a latch leaves the entries, or notices a change of its state. -/
theorem putLatch_queues (l : Locker) (h : Hatch) (r : LatchRec) (s : State) :
    (putLatch l h r s).hsc.hq = (if (s.latch l h).st = r.st then s.hsc.hq
      else entriesAfter l ((putLatch l h r s).qualifiesHq l) s.hsc.hq)
    ∧ (putLatch l h r s).hsc.wq = (if (s.latch l h).st = r.st then s.hsc.wq
      else entriesAfter l ((putLatch l h r s).qualifiesWq l) s.hsc.wq) := by
  let v : State := markIf ((s.latch l h).st ≠ r.st) l .state { s with ltc := s.ltc.set l.val ((s.latches l).set h r) }
  let u : State := setFastPoll l (v.latches l).inSeq v
  have eq : putLatch l h r s = if (s.latch l h).st ≠ r.st then hscNotice l u else u := rfl
  have hsc : u.hsc = s.hsc := markIf_hsc ..
  by_cases st : (s.latch l h).st = r.st
  · rw [eq, if_neg (not_not.mpr st), if_pos st, if_pos st, hsc]
    exact ⟨rfl, rfl⟩
  · rw [eq, if_pos st, if_neg st, if_neg st]
    have lke := ctx_of_lke (hscNotice_within (l := l) (s := u) |>.lke (by decide)) l
    have ltc := latches_of_ltc (hscNotice_within (l := l) (s := u) |>.ltc (by decide)) l
    rw [qualifiesHq_congr (congrArg Context.life lke) ltc, qualifiesWq_congr (congrArg Context.life lke) ltc,
      hscNotice_hq, hscNotice_wq, hsc]
    exact ⟨rfl, rfl⟩

/-- Every entry belongs to a locker that qualifies for it (R109). -/
def EntriesQualify (s : State) : Prop :=
  (∀ l ∈ s.hsc.hq, s.qualifiesHq l = true) ∧ ∀ l ∈ s.hsc.wq, s.qualifiesWq l = true

/-- Fewer entries, of lockers whose lifecycle state and latches stand. -/
theorem EntriesQualify.mono {s t : State} (h : EntriesQualify s) (hq : ∀ l ∈ t.hsc.hq, l ∈ s.hsc.hq)
    (wq : ∀ l ∈ t.hsc.wq, l ∈ s.hsc.wq) (life : ∀ l, (t.ctx l).life = (s.ctx l).life)
    (latches : ∀ l, t.latches l = s.latches l) : EntriesQualify t :=
  ⟨fun l listed => by rw [qualifiesHq_congr (life l) (latches l)]; exact h.1 l (hq l listed),
    fun l listed => by rw [qualifiesWq_congr (life l) (latches l)]; exact h.2 l (wq l listed)⟩

/-- A change of one locker that HSC notices keeps the entries to lockers that qualify. -/
theorem EntriesQualify.noticed {s t : State} {l : Locker} (h : EntriesQualify s)
    (hq : t.hsc.hq = entriesAfter l (t.qualifiesHq l) s.hsc.hq)
    (wq : t.hsc.wq = entriesAfter l (t.qualifiesWq l) s.hsc.wq) (others : Others l s t) : EntriesQualify t := by
  refine ⟨fun k listed => ?_, fun k listed => ?_⟩
  · obtain ⟨before, own⟩ := mem_entriesAfter (hq ▸ listed)
    by_cases same : k = l
    · exact same ▸ own same
    · rw [qualifiesHq_congr (congrArg Context.life (others k same).1) (others k same).2]
      exact h.1 k before
  · obtain ⟨before, own⟩ := mem_entriesAfter (wq ▸ listed)
    by_cases same : k = l
    · exact same ▸ own same
    · rw [qualifiesWq_congr (congrArg Context.life (others k same).1) (others k same).2]
      exact h.2 k before

theorem putCtx_entriesQualify {l : Locker} {c : Context} {s : State} (h : EntriesQualify s) :
    EntriesQualify (putCtx l c s) := by
  obtain ⟨hq, wq⟩ := putCtx_queues l c s
  by_cases life : (s.ctx l).life = c.life
  · rw [if_pos life] at hq wq
    refine h.mono (fun k => by rw [hq]; exact id) (fun k => by rw [wq]; exact id) (fun k => ?_)
      (latches_of_ltc (putCtx_within.ltc (by decide)))
    rw [putCtx_ctx]
    split
    · next same => rw [same, life]
    · rfl
  · rw [if_neg life] at hq wq
    exact h.noticed hq wq putCtx_others

theorem putLatch_entriesQualify {l : Locker} {g : Hatch} {r : LatchRec} {s : State} (h : EntriesQualify s) :
    EntriesQualify (putLatch l g r s) := by
  obtain ⟨hq, wq⟩ := putLatch_queues l g r s
  by_cases st : (s.latch l g).st = r.st
  · rw [if_pos st] at hq wq
    have both (k : Locker) : (putLatch l g r s).bothLatched k = s.bothLatched k := by
      by_cases same : k = l
      · subst same
        rw [Bool.eq_iff_iff, State.bothLatched_iff, State.bothLatched_iff]
        cases g <;> simp [← st]
      · rw [State.bothLatched, State.bothLatched, (putLatch_others k same).2]
    have life (k : Locker) : (putLatch l g r s).ctx k = s.ctx k := ctx_of_lke (putLatch_within.lke (by decide)) k
    refine ⟨fun k listed => ?_, fun k listed => ?_⟩
    · have := h.1 k (hq ▸ listed)
      simpa [State.qualifiesHq, both, life] using this
    · have := h.2 k (wq ▸ listed)
      simpa [State.qualifiesWq, both, life] using this
  · rw [if_neg st] at hq wq
    exact h.noticed hq wq putLatch_others

end Sys2Proof.Machine
end

section
/-! PROOFS. What every step keeps: the queue of commands, the interlock of the latches, heat within the capacity, and heat
behind latched hatches (R84, R105, R109, R116). A command but a reset goes by strides: moves, a whole frame start, a whole
change of capacity, and the changes of mode with the restore's relatch. -/

-- One theorem after the other: a thread for each would ask for more stack space than a build may have.
set_option Elab.async false

namespace Sys2Proof.Machine

/-! ### Strides -/

/-- A part of a command that keeps the conditions of Safety.lean as a whole. -/
inductive Stride (s : State) : State → Prop
  | move {t : State} (h : Move s t) : Stride s t
  | frameStart (runs : s.tmb.frame ≠ none) : Stride s (hscFrameStart s)
  | capacity (c : Nat) : Stride s (setCapacity c s)
  | validating (mode : s.mode = .inReset) : Stride s { s with mode := .validating }
  | unconfigured (mode : s.mode = .validating) : Stride s { s with mode := .unconfigured }
  | restoring (mode : s.mode = .validating) : Stride s (enterRestoring s)
  | relatched (l : Locker) (mode : s.mode = .restoring) (below : l.val < s.copies.lockerCount)
      (outstanding : (s.paths l).latch.st ≠ .idle) : Stride s (relatchRestore l s)
  | operating (t : Tmb) (mode : s.mode = .restoring)
      (quiet : ∀ l : Locker, l.val < s.copies.lockerCount → (s.paths l).latch.st = .idle) :
      Stride s { s with mode := .operating, tmb := t }

/-- A list of strides. -/
def Journey : State → State → Prop := Relation.ReflTransGen Stride

theorem Journey.one {s t : State} (h : Stride s t) : Journey s t := Relation.ReflTransGen.single h

theorem Journey.trans {s t u : State} (h : Journey s t) (k : Journey t u) : Journey s u := Relation.ReflTransGen.trans h k

theorem Course.journey {s t : State} (h : Course s t) : Journey s t :=
  Relation.ReflTransGen.mono (fun _ _ m => Stride.move m) _ _ h

theorem Journey.ite {s a b : State} {c : Prop} [Decidable c] (ha : Journey s a) (hb : Journey s b) :
    Journey s (if c then a else b) := by split <;> assumption

/-- A condition that every stride keeps is kept along a journey. -/
theorem Journey.keeps {I : State → Prop} (stride : ∀ s t, Stride s t → I s → I t) {s t : State} (h : Journey s t)
    (holds : I s) : I t := by
  induction h with
  | refl => exact holds
  | tail _ m ih => exact stride _ _ m ih

/-! ### Commands go by strides -/

/-- An outcome whose state, where it gives one, is reached by strides. -/
def Leads (s : State) (o : Out) : Prop := ∀ t, o = .next t → Journey s t

theorem leads_fault {s : State} (f : Fault) : Leads s (.fault f) := fun _ e => nomatch e

theorem leads_next {s t : State} (h : Journey s t) : Leads s (.next t) := fun _ e => by cases e; exact h

theorem leads_stay (s : State) : Leads s (.next s) := leads_next Course.refl.journey

theorem leads_done {s t : State} (h : Journey s t) : Leads s (done t) := leads_next (h.trans settle_course.journey)

theorem Leads.ite {s : State} {c : Prop} [Decidable c] {a b : Out} (ha : Leads s a) (hb : Leads s b) :
    Leads s (if c then a else b) := by split <;> assumption

theorem present_leads (x : Txn) (s : State) : Leads s (present x s) :=
  .ite (leads_stay s) (.ite (leads_done arrive_course.journey) (leads_fault _))

theorem freePort_course {m s} : Course s (freePort m s) := Calm.course {}

theorem grant_course {r x s} : Course s (grant r x s) := by
  have moved : Course s { s with mpi := { pointer := r.succ, port := some x } } := Calm.course {}
  refine moved.trans ?_
  cases r with
  | fwd =>
    unfold grant grantedAt fwdGranted
    dsimp only
    split
    · exact Calm.course {}
    all_goals exact .refl
  | mrw =>
    unfold grant grantedAt mrwGranted
    dsimp only
    split
    · unfold mirrorGranted promotionStep
      dsimp only
      split
      · split <;> exact Calm.course {}
      · exact Calm.course {}
    · exact .refl
  | ahu =>
    unfold grant grantedAt ahuGranted
    dsimp only
    split
    · exact Calm.course {}
    · exact .refl
  | smp =>
    unfold grant grantedAt smpGranted
    dsimp only
    split
    · exact Calm.course {}
    · exact Calm.course {}
    · exact .refl
  | rpw =>
    unfold grant grantedAt rpwGranted
    dsimp only
    split
    · split <;> exact Calm.course {}
    · exact .refl

theorem takeLanded_course {e w s} : Course s (takeLanded e w s) := by
  cases e with
  | none => exact .refl
  | readIndex | status | attention => exact Calm.course {}

theorem fwdCompleted_course {p f m s} : Course s (fwdCompleted p f m s) := by
  unfold fwdCompleted
  dsimp only
  split
  · exact Calm.course {}
  · exact .ite (Calm.course {}) ((Calm.course {}).trans handRecord_course)

theorem mirrorLanded_course {l c q s} : Course s (mirrorLanded l c q s) := by
  cases c with
  | heat | latch => exact pathLanded_course
  | state | hold | codeZero => exact .refl

theorem recordLanded_course {s} : Course s (recordLanded s) := by
  unfold recordLanded
  split
  · exact Calm.course {}
  · exact .refl

theorem ringWordRead_course {w s} : Course s (ringWordRead w s) := by
  unfold ringWordRead judgeIndices
  split
  case h_3 => dsimp only; split <;> exact Calm.course {}
  all_goals exact Calm.course {}

theorem setTimers_course {st s} : Course s (setTimers st s) := Calm.course {}

theorem crossFeed_course {feed elapsed s} : Course s (crossFeed feed elapsed s) := by
  unfold crossFeed
  split
  · exact (Calm.course (s := s) {}).trans setTimers_course
  · exact Calm.course {}

theorem supplyTo_journey {e d s} : Journey s (supplyTo e d s) :=
  ((Calm.course (s := s) {}).journey.trans (.one (.capacity _))).trans handRecord_course.journey

/-- A locker's restore issues both its commands before both latches relatch. -/
theorem restoreLocker_journey {l : Locker} {a b c : Option Word} {s : State} (mode : s.mode = .restoring)
    (below : l.val < s.copies.lockerCount) : Journey s (restoreLocker l a b c s) := by
  unfold restoreLocker
  dsimp only
  let u : State := issueHeat l false (setSeqs l b c (putCtx l (restoredContext a) s))
  have issued : Course s u := by
    have seqs {u} : Course u (setSeqs l b c u) := putPaths_course fun _ => id
    exact (putCtx_course.trans seqs).trans issueHeat_course
  have within : Within lockerParts s (issueLatch l false false u) :=
    (((putCtx_within.widen.next putPaths_within).next issueHeat_within).next issueLatch_within)
  obtain ⟨sameMode, -, -, sameCopies, -⟩ := within.ops (by decide)
  have outstanding : ((issueLatch l false false u).paths l).latch.st ≠ .idle := by
    rw [issueLatch_paths, if_pos rfl]
    simp [PathRec.issue]
  refine ((issued.trans issueLatch_course).journey.trans (.one (.relatched l ?_ ?_ outstanding))).trans ?_
  · exact sameMode.trans mode
  · rw [sameCopies]; exact below
  · exact ((putMark_course.trans putMark_course).trans putMark_course).journey

theorem restoring_spec {s : State} {l : Locker} (h : s.restoring = some l) :
    s.mode = .restoring ∧ s.restore.next = l.val ∧ l.val < s.copies.lockerCount := by
  unfold State.restoring at h
  split at h
  · split at h
    · next both => cases h; exact ⟨both.1, rfl, both.2⟩
    · cases h
  · cases h

theorem restoreWordRead_journey {l : Locker} {w : Option Word} {s : State} (mode : s.mode = .restoring)
    (below : l.val < s.copies.lockerCount) : Journey s (restoreWordRead l w s) := by
  unfold restoreWordRead
  split
  · exact (Calm.course {}).journey
  · exact (Calm.course {}).journey
  · exact (Calm.course (s := s) {}).journey.trans (restoreLocker_journey mode below)

theorem endValidation_journey {s : State} (mode : s.mode = .validating) : Journey s (endValidation s) :=
  (Journey.ite (.one (.restoring mode)) (.one (.unconfigured mode))).trans releaseStart_course.journey

theorem restoreComplete_iff {s : State} : s.restoreComplete = true ↔
    s.copies.lockerCount ≤ s.restore.next ∧ s.rpw.adopted = true ∧ ∀ l : Locker, l.val < s.copies.lockerCount →
      (s.paths l).heat.st = .idle ∧ (s.paths l).latch.st = .idle ∧ (s.marks l).any = false := by
  simp only [State.restoreComplete, PathPair.quiet, State.lockers, Bool.and_eq_true, decide_eq_true_eq,
    List.all_eq_true, mem_lockersBelow, Bool.not_eq_true']
  exact ⟨fun ⟨⟨⟨all, quiet⟩, adopted⟩, clean⟩ => ⟨all, adopted, fun l below =>
      ⟨(quiet l below).1, (quiet l below).2, clean l below⟩⟩,
    fun ⟨all, adopted, each⟩ => ⟨⟨⟨all, fun l below => ⟨(each l below).1, (each l below).2.1⟩⟩, adopted⟩,
      fun l below => (each l below).2.2⟩⟩

theorem enterOperating_journey {s : State} (mode : s.mode = .restoring) (complete : s.restoreComplete = true) :
    Journey s (enterOperating s) := by
  obtain ⟨-, -, quiet⟩ := restoreComplete_iff.mp complete
  refine (Journey.one (.operating { s.tmb with seconds := 0, frame := some 0, second := some 0 } mode
    fun l below => (quiet l below).2.1)).trans ?_
  exact (startSweep_within.course.trans handRecord_course).journey

theorem phaseOn_none (period d : Nat) : phaseOn period d none = none := rfl

theorem ahuInterval_course {s} : Course s (ahuInterval s) := by
  have within : Within [.due] s (ahuInterval s) := by constructor <;> simp [ahuInterval]
  exact within.course

theorem statusLanded_course {s} : Course s (statusLanded s) := .ite (Calm.course {}) (Calm.course {})

theorem execProbeInterval_leads (s : State) : Leads s (execProbeInterval s) := by
  have stopped : s.tmb.frame = none → (s.tmb.probeEvent s.copies.frameMs).frame = none :=
    fun none => by simp [Tmb.probeEvent, none, phaseOn_none]
  have clock : Course s { s with tmb := s.tmb.probeEvent s.copies.frameMs } := Calm.course { frame := stopped }
  unfold execProbeInterval
  split
  · exact leads_fault _
  · exact leads_done ((clock.trans ahuInterval_course).trans (.ite smpInterval_within.course .refl)).journey

theorem execFrameStart_leads (s : State) : Leads s (execFrameStart s) := by
  unfold execFrameStart
  split
  · exact leads_fault _
  · next runs =>
    have started : s.tmb.frame ≠ none := by simpa using runs
    have clock : Course s { s with tmb := s.tmb.frameEvent s.copies.frameMs } :=
      Calm.course { frame := fun none => absurd none started }
    have walked : Journey s (hscFrameStart { s with tmb := s.tmb.frameEvent s.copies.frameMs }) :=
      clock.journey.trans (.one (.frameStart (by simp [Tmb.frameEvent])))
    exact leads_done (walked.trans smpFrameStart_within.course.journey)

theorem execSecondsEvent_leads (latchesFirst : Bool) (s : State) : Leads s (execSecondsEvent latchesFirst s) := by
  have stopped : s.tmb.frame = none → (s.tmb.secondEvent s.copies.frameMs).frame = none :=
    fun none => by simp [Tmb.secondEvent, none, phaseOn_none]
  have clock : Course s { s with tmb := s.tmb.secondEvent s.copies.frameMs } := Calm.course { frame := stopped }
  unfold execSecondsEvent
  split
  · exact leads_fault _
  · exact leads_done (clock.trans (.ite (ltcSeconds_course.trans lkeSeconds_course)
      (lkeSeconds_course.trans ltcSeconds_course))).journey

/-- Every command but the three that assert reset goes by strides. -/
theorem exec_leads {c : Instr} (n : assertsReset c = false) (s : State) : Leads s (exec c s) := by
  have landed {m : MTxn} {t : State} (h : Course (freePort m s) t) : Leads s (done t) :=
    leads_done (freePort_course.trans h).journey
  cases c <;> simp only [exec]
  case assign | cancel | load | collect | clear | codeWrite | orderWrite | readIndexWrite | statusWrite
      | attentionWrite => exact present_leads _ _
  case cPortRead | unknownKind | controllerWrite => exact .ite (present_leads _ _) (leads_fault _)
  case mportGrant =>
    refine .ite (leads_fault _) ?_
    split
    · exact leads_done grant_course.journey
    · exact leads_fault _
  case fwdWriteLand =>
    unfold execFwdWriteLand
    split
    · next m _ _ _ _ =>
      refine .ite (landed (m := m) ?_) (leads_fault _)
      exact (Calm.course {}).trans takeLanded_course
    · exact leads_fault _
  case fwdReadComplete =>
    unfold execFwdReadComplete
    split
    · exact .ite (leads_done fwdCompleted_course.journey) (leads_fault _)
    · exact leads_fault _
  case mrwWriteLand =>
    unfold execMrwWriteLand
    split
    · exact landed mirrorLanded_course
    · exact leads_fault _
  case probeComplete =>
    unfold execProbeComplete
    split
    · exact leads_done ((Calm.course {}).trans judgeProbe_course).journey
    · exact leads_fault _
  case framePollComplete =>
    unfold execFramePollComplete
    split
    · exact leads_done (((Calm.course {}).trans leaveSweep_course).trans pollResult_course).journey
    · exact leads_fault _
  case fastPollComplete =>
    unfold execFastPollComplete
    split
    · exact leads_done ((Calm.course {}).trans pollResult_course).journey
    · exact leads_fault _
  case ringRecordLand =>
    unfold execRingRecordLand
    split
    · exact landed recordLanded_course
    · exact leads_fault _
  case writeIndexLand =>
    unfold execWriteIndexLand
    split
    · dsimp only
      split <;> exact leads_done (Calm.course {}).journey
    · exact leads_fault _
  case statusLand =>
    unfold execStatusLand
    split
    · exact landed statusLanded_course
    · exact leads_fault _
  case readCellZeroLand =>
    unfold execReadCellZeroLand
    split
    · exact leads_done (Calm.course {}).journey
    · exact leads_fault _
  case ringRestoreRead =>
    unfold execRingRestoreRead
    split
    · exact leads_done ((Calm.course {}).trans ringWordRead_course).journey
    · exact leads_fault _
  case restoreReadComplete =>
    unfold execRestoreReadComplete
    split
    · next l _ reads =>
      obtain ⟨mode, -, below⟩ := restoring_spec reads
      exact leads_done ((Calm.course (s := s) {}).journey.trans (restoreWordRead_journey mode below))
    · exact leads_fault _
  case probeTimeout => exact .ite (leads_done pathError_course.journey) (leads_stay s)
  case probeInterval => exact execProbeInterval_leads s
  case frameStart => exact execFrameStart_leads s
  case secondsEvent => exact execSecondsEvent_leads _ s
  case expiry => exact .ite (leads_done (countLocker_course.trans judgeExpiry_course).journey) (leads_stay s)
  case lockoutEnd => exact .ite (leads_done endLockout_course.journey) (leads_stay s)
  case openWaitExpiry =>
    unfold execOpenWaitExpiry
    split
    · next due => exact leads_done (expireOpenWait_course due.2.1).journey
    · exact leads_stay s
  case hatchHeld => exact .ite (leads_done expireHatchHeld_course.journey) (leads_stay s)
  case feedCrossing => exact leads_done crossFeed_course.journey
  case shedTrip =>
    unfold execShedTrip
    split
    · exact leads_done supplyTo_journey
    · exact leads_stay s
  case cutTrip =>
    unfold execCutTrip
    split
    · exact .ite (leads_done supplyTo_journey) (leads_stay s)
    · exact leads_done supplyTo_journey
    · exact leads_stay s
  case shedRelease =>
    unfold execShedRelease
    split
    · exact leads_done supplyTo_journey
    · exact leads_stay s
  case cutRelease =>
    unfold execCutRelease
    split
    · exact leads_done supplyTo_journey
    · exact leads_stay s
  case powerOnReset | logicBrownout | resetPin => simp [assertsReset] at n
  case resetRelease =>
    unfold execResetRelease
    split
    · next mode => exact leads_next (.one (.validating mode))
    · exact leads_fault _
  case validationDone =>
    unfold execValidationDone
    split
    · next mode => exact leads_done (endValidation_journey mode)
    · exact leads_fault _
  case restoreEnd =>
    unfold execRestoreEnd
    split
    · next ends => exact leads_done (enterOperating_journey ends.1 ends.2)
    · exact leads_fault _
  case maintRead =>
    unfold execMaintRead maintReadFrame
    refine leads_next (Course.journey ?_)
    split
    · split <;> exact Calm.course {}
    · exact .refl
  case maintWrite =>
    unfold execMaintWrite maintWriteFrame
    refine leads_next (Course.journey (.ite ?_ .refl))
    split
    · exact .ite (Calm.course {}) (Calm.course {})
    · exact Calm.course {}
  case maintErase =>
    exact leads_next (Course.ite (Course.ite (Calm.course {}) (Calm.course {})) .refl).journey
  case maintInvalid => exact .ite (leads_next (Course.ite (Calm.course {}) .refl).journey) (leads_fault _)

end Sys2Proof.Machine
end

section
/-! PROOFS. Every stride keeps the queue of commands and the interlock of the latches (R84). -/

-- One theorem after the other: a thread for each would ask for more stack space than a build may have.
set_option Elab.async false

namespace Sys2Proof.Machine

/-! ### The queue of commands -/

theorem move_pending {s t : State} (m : Move s t) : t.pending = s.pending := by
  cases m with
  | calm h => exact h.pending
  | ctx l c => exact putCtx_within.pending
  | presented | dropped | postedHq | postedWq => rfl
  | latch l h r => exact putLatch_within.pending
  | chan | allocated => exact putChan_within.pending
  | release l h => exact startRelease_within.pending
  | acked l p => exact putLatch_within.pending.trans putPaths_within.pending
  | failed l p => exact (failHatch_within.pending.trans failHatch_within.pending).trans putPaths_within.pending

theorem relatchRestore_pending (l : Locker) (s : State) : (relatchRestore l s).pending = s.pending :=
  putLatch_within.pending.trans putLatch_within.pending

theorem stride_pending {s t : State} (m : Stride s t) : t.pending = s.pending := by
  cases m with
  | move h => exact move_pending h
  | frameStart => exact hscFrameStart_within.pending
  | capacity c => exact setCapacity_within.pending
  | relatched l => exact relatchRestore_pending l s
  | validating | unconfigured | restoring | operating => rfl

theorem Journey.pending {s t : State} (h : Journey s t) : t.pending = s.pending :=
  h.keeps (I := fun u => u.pending = s.pending) (fun _ _ m e => (stride_pending m).trans e) rfl

/-- Settles O2: no stride touches the queue of commands, and no reset does. -/
theorem execKeepsWaitingCommands : Obligations.ExecKeepsWaitingCommands := by
  intro c s t e
  cases asserts : assertsReset c with
  | false => exact (exec_leads asserts s t e).pending
  | true =>
    obtain ⟨cause, rfl⟩ := exec_of_assertsReset asserts e
    rfl

/-- A condition that every stride and every reset keep, and that says nothing of the queue of commands, is kept by a
step. -/
theorem step_keeps_of_stride {I : State → Prop} (stride : ∀ s t, Stride s t → I s → I t)
    (reset : ∀ cause s, I (resetBy cause s)) (taken : ∀ s rest, I s → I { s with pending := rest }) {s t : State}
    (e : step s = .next t) (holds : I s) : I t := by
  obtain rfl | ⟨c, rest, ran⟩ := step_cases e
  · exact holds
  · cases asserts : assertsReset c with
    | false => exact (exec_leads asserts _ t ran).keeps stride (taken s rest holds)
    | true =>
      obtain ⟨cause, rfl⟩ := exec_of_assertsReset asserts ran
      exact reset cause _

/-! ### Latch commands at a frame start -/

/-- Every locker's latch path stands. -/
def LatchPathsKept (s t : State) : Prop := ∀ l : Locker, (t.paths l).latch = (s.paths l).latch

theorem LatchPathsKept.trans {s t u : State} (h : LatchPathsKept s t) (k : LatchPathsKept t u) : LatchPathsKept s u :=
  fun l => (k l).trans (h l)

theorem LatchPathsKept.of_paths {s t : State} (h : t.ahu.paths = s.ahu.paths) : LatchPathsKept s t :=
  fun l => by rw [paths_of_ahu h]

theorem issueHeat_latchPathsKept {l : Locker} {b : Bool} {s : State} : LatchPathsKept s (issueHeat l b s) := fun k => by
  rw [issueHeat_paths]
  split
  · next same => subst same; rfl
  · rfl

theorem turnOff_latchPathsKept {i : Chan} {s : State} : LatchPathsKept s (turnOff i s) := by
  unfold turnOff
  split
  · exact .trans (.of_paths (putChan_within.paths (by decide))) issueHeat_latchPathsKept
  · exact fun _ => rfl

theorem haltLocker_latchPathsKept {l : Locker} {s : State} : LatchPathsKept s (haltLocker l s) := by
  unfold haltLocker
  split
  · exact turnOff_latchPathsKept
  · exact fun _ => rfl

theorem allocateChan_latchPathsKept {i : Chan} {l : Locker} {s : State} : LatchPathsKept s (allocateChan i l s) := by
  have grants (n : BitVec 32) : LatchPathsKept s { s with hsc := { s.hsc with grants := n } } := .of_paths rfl
  unfold allocateChan
  exact ((grants _).trans (.of_paths (putChan_within.paths (by decide)))).trans issueHeat_latchPathsKept

theorem walkQueue_latchPathsKept {ls : List Locker} {s : State} {g : List Locker} :
    LatchPathsKept s (walkQueue ls s g).s := by
  induction ls generalizing s g with
  | nil => exact fun _ => rfl
  | cons l rest ih =>
    unfold walkQueue
    split
    · split
      · split <;> exact ih
      · split
        · exact allocateChan_latchPathsKept.trans ih
        · exact ih
    · exact fun _ => rfl

theorem frameReleases_latchPathsKept {g : List Locker} {is : List Chan} {s : State} :
    LatchPathsKept s (is.foldl (releaseUngranted g) s) := by
  induction is generalizing s with
  | nil => exact fun _ => rfl
  | cons i rest ih =>
    refine LatchPathsKept.trans ?_ ih
    rw [releaseUngranted_eq]
    split
    · exact turnOff_latchPathsKept
    · exact fun _ => rfl

theorem hscFrameStart_latchPathsKept (s : State) : LatchPathsKept s (hscFrameStart s) := by
  have stay (u : State) (h w : List Locker) : LatchPathsKept u { u with hsc := { u.hsc with hq := h, wq := w } } :=
    .of_paths rfl
  have walked : LatchPathsKept s (walkRanking s).1 := by
    unfold walkRanking
    exact (walkQueue_latchPathsKept.trans walkQueue_latchPathsKept).trans (stay _ _ _)
  have released : LatchPathsKept s (allChans.foldl (releaseUngranted (walkRanking s).2) (walkRanking s).1) :=
    walked.trans frameReleases_latchPathsKept
  unfold hscFrameStart
  dsimp only
  exact released.trans (.of_paths (judgeOverrun_within.paths (by decide)))

/-! ### The interlock (R84) -/

theorem lockerInterlocked_of_latched {s : State} {l : Locker} {h : Hatch} (latched : (s.latch l h).st = .latched) :
    LockerInterlocked s l := by
  cases h with
  | front => exact .inl latched
  | rear => exact .inr (.inl latched)

/-- A latch that is not settled has the other LATCHED beside it. -/
theorem other_latched {s : State} {l : Locker} {h : Hatch} (i : LockerInterlocked s l)
    (moving : ¬ (s.latch l h).Settled) : ∃ g ≠ h, (s.latch l g).st = .latched := by
  simp only [LatchRec.Settled, not_or] at moving
  obtain ⟨notLatched, notFailed, notRestored⟩ := moving
  cases h with
  | front =>
    rcases i with front | rear | ⟨front, -⟩ | ⟨-, -, -, st, kind, -, -⟩
    · exact absurd front notLatched
    · exact ⟨.rear, by decide, rear⟩
    · exact absurd front notFailed
    · exact absurd ⟨st, kind⟩ notRestored
  | rear =>
    rcases i with front | rear | ⟨-, rear⟩ | ⟨-, -, -, -, -, st, kind⟩
    · exact ⟨.front, by decide, front⟩
    · exact absurd rear notLatched
    · exact absurd rear notFailed
    · exact absurd ⟨st, kind⟩ notRestored

/-- The interlock says of latches only their states and relatch kinds. -/
theorem lockerInterlocked_congr {s t : State} {l : Locker} (i : LockerInterlocked s l)
    (latch : ∀ h, (t.latch l h).st = (s.latch l h).st ∧ (t.latch l h).kind = (s.latch l h).kind)
    (mode : t.mode = s.mode) (copies : t.copies = s.copies)
    (outstanding : (s.latch l .front).st = .relatchPending → (s.paths l).latch.st ≠ .idle → (t.paths l).latch.st ≠ .idle) :
    LockerInterlocked t l := by
  have front := latch .front
  have rear := latch .rear
  simp only [State.latch, LatchPair.get] at front rear outstanding
  simp only [LockerInterlocked, front, rear, mode, copies] at i ⊢
  exact i.imp_right (.imp_right (.imp_right fun ⟨m, below, out, st, rest⟩ => ⟨m, below, outstanding st out, st, rest⟩))

/-- What a stride that changes no latch, no mode and no copies leaves interlocked. -/
theorem interlocked_congr {s t : State} (i : Interlocked s) (ltc : t.ltc = s.ltc) (mode : t.mode = s.mode)
    (copies : t.copies = s.copies) (outstanding : ∀ l, (s.latch l .front).st = .relatchPending →
      (s.paths l).latch.st ≠ .idle → (t.paths l).latch.st ≠ .idle) : Interlocked t := fun l =>
  lockerInterlocked_congr (i l) (fun h => by rw [latch_of_ltc ltc]; exact ⟨rfl, rfl⟩) mode copies (outstanding l)

theorem interlocked_within {bs : List Part} {s t : State} (i : Interlocked s) (w : Within bs s t)
    (latchPaths : LatchPathsKept s t) (ops : Part.ops ∉ bs := by decide) (ltc : Part.ltc ∉ bs := by decide) :
    Interlocked t := by
  obtain ⟨mode, -, -, copies, -⟩ := w.ops ops
  exact interlocked_congr i (w.ltc ltc) mode copies fun l _ out => by rw [latchPaths l]; exact out

theorem startRelease_latch_ne {l k : Locker} {h g : Hatch} {s : State} (ne : ¬ (k = l ∧ g = h)) :
    (startRelease l h s).latch k g = s.latch k g := by
  unfold startRelease
  dsimp only
  split
  · rw [latch_of_ltc (haltLocker_within.ltc (by decide)), putLatch_latch, if_neg ne]
  · rw [latch_of_ltc (issueLatch_within.ltc (by decide)), putLatch_latch, if_neg ne]

theorem startRelease_latchPath_ne {l k : Locker} {h : Hatch} {s : State} (ne : k ≠ l) :
    ((startRelease l h s).paths k).latch = (s.paths k).latch := by
  have put (r : LatchRec) : (putLatch l h r s).paths k = s.paths k := paths_of_ahu (putLatch_within.paths (by decide)) k
  unfold startRelease
  dsimp only
  split
  · rw [haltLocker_latchPathsKept k, put]
  · rw [issueLatch_paths, if_neg ne, put]

/-- What a failed latch command makes of a latch. -/
def LatchRec.fail (r : LatchRec) : LatchRec :=
  match r.st with
  | .unlatchPending | .opened | .relatchPending => r.rest .failed
  | .latched | .haltWait | .openWait | .failed => r

theorem failHatch_latch (l k : Locker) (h g : Hatch) (s : State) :
    (failHatch l s h).latch k g = if k = l ∧ g = h then (s.latch l h).fail else s.latch k g := by
  by_cases same : k = l ∧ g = h
  · obtain ⟨rfl, rfl⟩ := same
    cases st : (s.latch k g).st <;> simp [failHatch, LatchRec.fail, st]
  · cases st : (s.latch l h).st <;> simp [failHatch, same, st]

theorem failHatch_paths (l k : Locker) (h : Hatch) (s : State) : (failHatch l s h).paths k = s.paths k := by
  have put (r : LatchRec) : (putLatch l h r s).paths k = s.paths k := paths_of_ahu (putLatch_within.paths (by decide)) k
  cases st : (s.latch l h).st <;> simp [failHatch, st, put]

@[simp] theorem LatchRec.fail_latched {r : LatchRec} (h : r.st = .latched) : r.fail = r := by simp [fail, h]

@[simp] theorem LatchRec.fail_failed {r : LatchRec} (h : r.st = .failed) : r.fail = r := by simp [fail, h]

theorem LatchRec.fail_relatchPending {r : LatchRec} (h : r.st = .relatchPending) : r.fail.st = .failed := by
  simp [fail, h, rest]

/-- A failed latch command leaves a LATCHED latch, and two latches in the restore's relatch both fail. -/
theorem failBoth_interlocked {l : Locker} {p : PathPair} {s : State} (i : Interlocked s) :
    Interlocked (failHatch l (failHatch l (putPaths l p s) .front) .rear) := by
  let u : State := failHatch l (failHatch l (putPaths l p s) .front) .rear
  have within : Within lockerParts s u := (putPaths_within.widen.next failHatch_within).next failHatch_within
  have latch (k : Locker) (g : Hatch) : u.latch k g = if k = l then (s.latch k g).fail else s.latch k g := by
    have paths (h : Hatch) : (putPaths l p s).latch k h = s.latch k h :=
      latch_of_ltc (putPaths_within.ltc (by decide)) k h
    by_cases same : k = l
    · subst same
      cases g <;> simp [u, failHatch_latch, paths]
    · simp [u, failHatch_latch, same, paths]
  obtain ⟨mode, -, -, copies, -⟩ := within.ops (by decide)
  intro k
  by_cases same : k = l
  · subst same
    replace latch (g : Hatch) : u.latch k g = (s.latch k g).fail := by rw [latch, if_pos rfl]
    rcases i k with front | rear | ⟨front, rear⟩ | ⟨-, -, -, front, -, rear, -⟩
    · exact lockerInterlocked_of_latched (h := .front) ((latch .front).symm ▸ (LatchRec.fail_latched front).symm ▸ front)
    · exact lockerInterlocked_of_latched (h := .rear) ((latch .rear).symm ▸ (LatchRec.fail_latched rear).symm ▸ rear)
    · have failed (h : Hatch) (e : (s.latch k h).st = .failed) : (u.latch k h).st = .failed := by
        rw [latch, LatchRec.fail_failed e, e]
      exact .inr (.inr (.inl ⟨failed .front front, failed .rear rear⟩))
    · have failed (h : Hatch) (e : (s.latch k h).st = .relatchPending) : (u.latch k h).st = .failed := by
        rw [latch, LatchRec.fail_relatchPending e]
      exact .inr (.inr (.inl ⟨failed .front front, failed .rear rear⟩))
  · have paths : u.paths k = s.paths k := by
      rw [failHatch_paths, failHatch_paths, putPaths_paths, if_neg same]
    exact lockerInterlocked_congr (i k) (fun h => by rw [latch, if_neg same]; exact ⟨rfl, rfl⟩) mode copies
      fun _ out => by rw [paths]; exact out

theorem move_interlocked {s t : State} (m : Move s t) (i : Interlocked s) : Interlocked t := by
  cases m with
  | calm h => exact interlocked_congr i h.ltc h.mode h.copies h.outstanding
  | ctx l c => exact interlocked_within i putCtx_within (.of_paths (putCtx_within.paths (by decide)))
  | presented | dropped | postedHq | postedWq => exact i
  | chan | allocated => exact interlocked_within i putChan_within (.of_paths (putChan_within.paths (by decide)))
  | latch l h r may =>
    obtain ⟨mode, -, -, copies, -⟩ := (putLatch_within (l := l) (h := h) (r := r) (s := s)).ops (by decide)
    have paths := paths_of_ahu (putLatch_within (l := l) (h := h) (r := r) (s := s) |>.paths (by decide))
    intro k
    rcases may with latched | moving | ⟨st, kind⟩
    · by_cases same : k = l
      · subst same
        exact lockerInterlocked_of_latched (h := h) (by simp [latched])
      · exact lockerInterlocked_congr (i k) (fun g => by simp [same]) mode copies fun _ out => by rw [paths]; exact out
    · by_cases same : k = l
      · subst same
        obtain ⟨g, ne, latched⟩ := other_latched (i k) moving
        exact lockerInterlocked_of_latched (h := g) (by simp [ne, latched])
      · exact lockerInterlocked_congr (i k) (fun g => by simp [same]) mode copies fun _ out => by rw [paths]; exact out
    · refine lockerInterlocked_congr (i k) (fun g => ?_) mode copies fun _ out => by rw [paths]; exact out
      rw [putLatch_latch]
      split
      · next same => rw [same.1, same.2, st, kind]; exact ⟨rfl, rfl⟩
      · exact ⟨rfl, rfl⟩
  | release l h both =>
    obtain ⟨front, rear⟩ := (State.bothLatched_iff s l).mp both
    obtain ⟨mode, -, -, copies, -⟩ := (startRelease_within (l := l) (h := h) (s := s)).ops (by decide)
    intro k
    by_cases same : k = l
    · subst same
      have stays {g : Hatch} (ne : g ≠ h) : (startRelease k h s).latch k g = s.latch k g :=
        startRelease_latch_ne fun e => ne e.2
      cases h with
      | front => exact lockerInterlocked_of_latched (h := .rear) (by rw [stays (by decide), rear])
      | rear => exact lockerInterlocked_of_latched (h := .front) (by rw [stays (by decide), front])
    · exact lockerInterlocked_congr (i k)
        (fun g => by rw [startRelease_latch_ne fun e => same e.1]; exact ⟨rfl, rfl⟩) mode copies
        fun _ out => by rw [startRelease_latchPath_ne same]; exact out
  | acked l p =>
    have within : Within [.ltc, .marks, .fast, .entries, .paths] s
        (putLatch l .front ((s.latch l .front).rest .latched) (putPaths l p s)) :=
      putPaths_within.widen.next putLatch_within
    obtain ⟨mode, -, -, copies, -⟩ := within.ops (by decide)
    have latches (k : Locker) (g : Hatch) : (putPaths l p s).latch k g = s.latch k g :=
      latch_of_ltc (putPaths_within.ltc (by decide)) k g
    intro k
    by_cases same : k = l
    · subst same
      exact lockerInterlocked_of_latched (h := .front) (by simp [LatchRec.rest])
    · have paths : (putLatch l .front ((s.latch l .front).rest .latched) (putPaths l p s)).paths k = s.paths k := by
        rw [paths_of_ahu (putLatch_within.paths (by decide)), putPaths_paths, if_neg same]
      exact lockerInterlocked_congr (i k) (fun g => by simp [same, latches]) mode copies
        fun _ out => by rw [paths]; exact out
  | failed l p => exact failBoth_interlocked i

/-- Outside RESTORING the interlock holds by the latches alone. -/
theorem lockerInterlocked_of_mode {s t : State} {l : Locker} (i : LockerInterlocked s l) (mode : s.mode ≠ .restoring)
    (latches : t.latches l = s.latches l) : LockerInterlocked t l := by
  rcases i with front | rear | failed | ⟨restoring, -⟩
  · exact .inl (by rw [latches]; exact front)
  · exact .inr (.inl (by rw [latches]; exact rear))
  · exact .inr (.inr (.inl (by rw [latches]; exact failed)))
  · exact absurd restoring mode

theorem setCapacity_interlocked {c : Nat} {s : State} (i : Interlocked s) : Interlocked (setCapacity c s) := by
  have changed : Interlocked { s with hsc := { s.hsc with capacity := c } } := i
  unfold setCapacity
  dsimp only
  split
  · exact decreaseLoop_course.keeps (fun _ _ => move_interlocked) changed
  · split
    · exact lateGrant_course.keeps (fun _ _ => move_interlocked) changed
    · exact i

/-- The restore's relatch holds both latches of its locker, with its latch command outstanding. -/
theorem relatchRestore_interlocked {l : Locker} {s : State} (mode : s.mode = .restoring)
    (below : l.val < s.copies.lockerCount) (outstanding : (s.paths l).latch.st ≠ .idle) (i : Interlocked s) :
    Interlocked (relatchRestore l s) := by
  have within : Within [.ltc, .marks, .fast, .entries] s (relatchRestore l s) := putLatch_within.next putLatch_within
  obtain ⟨sameMode, -, -, copies, -⟩ := within.ops (by decide)
  have paths (k : Locker) := paths_of_ahu (within.paths (by decide)) k
  have latch (k : Locker) (g : Hatch) : (relatchRestore l s).latch k g
      = if k = l then (s.latch k g).relatch .restore false else s.latch k g := by
    unfold relatchRestore
    by_cases same : k = l
    · subst same; cases g <;> simp
    · simp [same]
  intro k
  by_cases same : k = l
  · subst same
    have held (g : Hatch) : ((relatchRestore k s).latch k g).st = .relatchPending
        ∧ ((relatchRestore k s).latch k g).kind = .restore := by
      rw [latch, if_pos rfl]; exact ⟨rfl, rfl⟩
    refine .inr (.inr (.inr ⟨sameMode.trans mode, by rw [copies]; exact below, by rw [paths]; exact outstanding, ?_⟩))
    exact ⟨(held .front).1, (held .front).2, (held .rear).1, (held .rear).2⟩
  · exact lockerInterlocked_congr (i k) (fun g => by rw [latch, if_neg same]; exact ⟨rfl, rfl⟩) sameMode copies
      fun _ out => by rw [paths]; exact out

theorem stride_interlocked {s t : State} (m : Stride s t) (i : Interlocked s) : Interlocked t := by
  cases m with
  | move h => exact move_interlocked h i
  | frameStart => exact interlocked_within i hscFrameStart_within (hscFrameStart_latchPathsKept s)
  | capacity c => exact setCapacity_interlocked i
  | validating mode | unconfigured mode | restoring mode =>
    exact fun l => lockerInterlocked_of_mode (i l) (by simp [mode]) rfl
  | relatched l mode below outstanding => exact relatchRestore_interlocked mode below outstanding i
  | operating _ _ quiet =>
    intro l
    rcases i l with front | rear | failed | ⟨-, below, outstanding, -⟩
    · exact .inl front
    · exact .inr (.inl rear)
    · exact .inr (.inr (.inl failed))
    · exact absurd (quiet l below) outstanding

/-- Settles O7: each stride leaves a latch LATCHED beside one that moves, fails both, or relatches both in the restore. -/
theorem stepKeepsInterlock : Obligations.StepKeepsInterlock := fun _ _ holds e =>
  step_keeps_of_stride (fun _ _ => stride_interlocked) resetBy_interlocked (fun _ _ i => i) e holds

end Sys2Proof.Machine
end

section
/-! PROOFS. Every stride keeps heat within the capacity (R105) and behind latched hatches (R109, R116). -/

-- One theorem after the other: a thread for each would ask for more stack space than a build may have.
set_option Elab.async false

namespace Sys2Proof.Machine

/-! ### What moves leave of the channels -/

theorem failHatch_eq (l : Locker) (s : State) (h : Hatch) :
    failHatch l s h = s ∨ failHatch l s h = putLatch l h ((s.latch l h).rest .failed) s := by
  cases st : (s.latch l h).st <;> simp [failHatch, st]

@[simp] theorem failHatch_chan (l : Locker) (s : State) (h : Hatch) (i : Chan) : (failHatch l s h).chan i = s.chan i := by
  rcases failHatch_eq l s h with e | e <;> simp [e]

@[simp] theorem putPaths_chan (l : Locker) (p : PathPair) (s : State) (i : Chan) : (putPaths l p s).chan i = s.chan i :=
  chan_of_hsc (putPaths_within.chans (by decide)).1 i

/-- Outside a grant a move only lets channels go. -/
theorem move_eases {s t : State} (m : Move s t) : Eases s t ∨ ∃ i l g, (s.chan i).st = .free ∧ s.attachedChan l = none
    ∧ l ∈ s.ranking ∧ s.mode = .operating ∧ s.energisedCount < s.hsc.capacity
    ∧ t = putChan i { st := .onPending l, stamp := g } s := by
  cases m with
  | allocated i l g free unserved ranked mode room => exact .inr ⟨i, l, g, free, unserved, ranked, mode, room, rfl⟩
  | calm h => exact .inl (.of_chans fun i => chan_of_hsc h.chans i)
  | ctx l c => exact .inl (.of_chans (putCtx_chan l c s))
  | presented | dropped | postedHq | postedWq => exact .inl (.of_chans fun _ => rfl)
  | latch l h r => exact .inl (.of_chans (putLatch_chan l h r s))
  | chan i c attached energised => exact .inl (putChan_eases attached energised)
  | release l h =>
    refine .inl ?_
    unfold startRelease
    dsimp only
    split
    · exact (Eases.of_chans (putLatch_chan l h _ s)).trans haltLocker_eases
    · exact .of_chans fun i => by rw [issueLatch_chan, putLatch_chan]
  | acked l p =>
    exact .inl (.of_chans fun i => by rw [putLatch_chan]; exact chan_of_hsc (putPaths_within.chans (by decide)).1 i)
  | failed l p =>
    exact .inl (.of_chans fun i => by
      rw [failHatch_chan, failHatch_chan]; exact chan_of_hsc (putPaths_within.chans (by decide)).1 i)

/-- Mode and capacity stand, and the frame phase is not started. -/
structure Steady (s t : State) : Prop where
  mode : t.mode = s.mode
  capacity : t.hsc.capacity = s.hsc.capacity
  frame : s.tmb.frame = none → t.tmb.frame = none

theorem Within.steady {bs : List Part} {s t : State} (w : Within bs s t) (ops : Part.ops ∉ bs := by decide)
    (limit : Part.limit ∉ bs := by decide) (tmb : Part.tmb ∉ bs := by decide) : Steady s t :=
  ⟨(w.ops ops).1, (w.limit limit).1, fun e => by rw [w.tmb tmb]; exact e⟩

theorem move_steady {s t : State} (m : Move s t) : Steady s t := by
  cases m with
  | calm h => exact ⟨h.mode, h.capacity, h.frame⟩
  | ctx l c => exact putCtx_within.steady
  | presented | dropped | postedHq | postedWq => exact ⟨rfl, rfl, id⟩
  | latch l h r => exact putLatch_within.steady
  | chan | allocated => exact putChan_within.steady
  | release l h => exact startRelease_within.steady
  | acked l p =>
    have within : Within lockerParts s (putLatch l .front ((s.latch l .front).rest .latched) (putPaths l p s)) :=
      putPaths_within.widen.next putLatch_within
    exact within.steady
  | failed l p =>
    have within : Within lockerParts s (failHatch l (failHatch l (putPaths l p s) .front) .rear) :=
      (putPaths_within.widen.next failHatch_within).next failHatch_within
    exact within.steady

theorem move_heatIdle {s t : State} (m : Move s t) (idle : HeatIdleOutsideOperating s) : HeatIdleOutsideOperating t := by
  have steady := move_steady m
  intro outside
  rw [steady.mode] at outside
  obtain ⟨unattached, stopped⟩ := idle outside
  rcases move_eases m with eases | ⟨-, -, -, -, -, -, operating, -⟩
  · exact ⟨eases.unattached unattached, steady.frame stopped⟩
  · exact absurd operating outside

theorem move_channelsDistinct {s t : State} (m : Move s t) (d : ChannelsDistinct s) : ChannelsDistinct t := by
  rcases move_eases m with eases | ⟨i, l, g, free, unserved, -, -, -, rfl⟩
  · exact eases.channelsDistinct d
  · exact edit_channelsDistinct _ _ (.allocated i l g free unserved) d

/-! ### What a frame start leaves of the channels (R111, R112) -/

@[simp] theorem judgeOverrun_chan (n : Nat) (s : State) (i : Chan) : (judgeOverrun n s).chan i = s.chan i :=
  chan_of_hsc (judgeOverrun_within.chans (by decide)).1 i

@[simp] theorem judgeOverrun_capacity (n : Nat) (s : State) : (judgeOverrun n s).hsc.capacity = s.hsc.capacity := by
  unfold judgeOverrun
  split
  · split <;> simp [handRecord]
  · split <;> simp [handRecord]

/-- The channels after a frame start are those that its releases leave. -/
theorem hscFrameStart_chan (s : State) (i : Chan) :
    (hscFrameStart s).chan i = (allChans.foldl (releaseUngranted (walkRanking s).2) (walkRanking s).1).chan i := by
  unfold hscFrameStart
  dsimp only
  exact judgeOverrun_chan ..

theorem frameReleases_within {g : List Locker} {s : State} :
    Within [.chans, .paths, .marks] s (allChans.foldl (releaseUngranted g) s) :=
  Within.fold (fun _ _ => releaseUngranted_within) rfl _ _

theorem hscFrameStart_capacity (s : State) : (hscFrameStart s).hsc.capacity = s.hsc.capacity := by
  unfold hscFrameStart
  dsimp only
  rw [judgeOverrun_capacity, (frameReleases_within.limit (by decide)).1, (walkRanking_within.limit (by decide)).1]

theorem walkRanking_granted_length (s : State) : (walkRanking s).2.length ≤ s.hsc.capacity := by
  unfold walkRanking
  dsimp only
  have held : (walkQueue s.hsc.hq s []).granted.length ≤ (walkQueue s.hsc.hq s []).s.hsc.capacity := by
    rw [walkQueue_capacity]; exact walkQueue_granted_length (Nat.zero_le _)
  exact (walkQueue_granted_length held).trans_eq (walkQueue_capacity ..)

theorem hscFrameStart_channelsDistinct {s : State} (d : ChannelsDistinct s) : ChannelsDistinct (hscFrameStart s) :=
  hscFrameStart_trail.keeps edit_channelsDistinct d

/-- After a frame start the energised channels belong to the lockers granted. -/
theorem hscFrameStart_energisedCount {s : State} (d : ChannelsDistinct s) :
    (hscFrameStart s).energisedCount ≤ (hscFrameStart s).hsc.capacity := by
  refine (energisedCount_le_length (hscFrameStart_channelsDistinct d) fun i l energised => ?_).trans
    ((walkRanking_granted_length s).trans_eq (hscFrameStart_capacity s).symm)
  rw [hscFrameStart_chan] at energised
  exact frameReleases_energised energised

/-- A channel that a frame start energises belongs to a ranked locker. -/
theorem hscFrameStart_energised {s : State} {i : Chan} {l : Locker}
    (h : ((hscFrameStart s).chan i).st.energised = some l) : (s.chan i).st.energised = some l ∨ l ∈ s.ranking := by
  rw [hscFrameStart_chan] at h
  have walked := (frameReleases_eases _ _).energised h
  unfold walkRanking at walked
  rcases walkQueue_energised walked with held | warm
  · exact (walkQueue_energised held).imp_right (List.mem_append_left _)
  · rw [(walkQueue_within.entries (by decide)).2] at warm
    exact .inr (List.mem_append_right _ warm)

/-! ### Changes of the capacity and of the mode (R105, R118) -/

theorem energisedCount_eq_zero {s : State} (h : ∀ i : Chan, (s.chan i).st.attached = none) : s.energisedCount = 0 := by
  refine List.countP_eq_zero.mpr fun i _ on => ?_
  obtain ⟨l, energised⟩ := Option.isSome_iff_exists.mp on
  exact absurd (ChanState.attached_of_energised energised) (by simp [h i])

theorem move_heatWithinCapacity {s t : State} (m : Move s t) (h : HeatWithinCapacity s) : HeatWithinCapacity t := by
  obtain ⟨count, distinct, idle⟩ := h
  refine ⟨?_, move_channelsDistinct m distinct, move_heatIdle m idle⟩
  rw [(move_steady m).capacity]
  rcases move_eases m with eases | ⟨i, l, g, free, -, -, -, room, rfl⟩
  · exact eases.energisedCount_le.trans count
  · rw [putChan_energisedCount_of_free free]; exact room

/-- A decrease halts down to the new capacity, an increase grants up to it. -/
theorem setCapacity_heatWithinCapacity (c : Nat) {s : State} (h : HeatWithinCapacity s) :
    HeatWithinCapacity (setCapacity c s) := by
  obtain ⟨count, distinct, idle⟩ := h
  let u : State := { s with hsc := { s.hsc with capacity := c } }
  have kept : HeatIdleOutsideOperating u := idle
  unfold setCapacity
  dsimp only
  split
  · have bound := energisedCount_le_sixteen u
    have capacity : (decreaseLoop 16 u).hsc.capacity = u.hsc.capacity := (decreaseLoop_within.limit (by decide)).1
    refine ⟨?_, decreaseLoop_course.keeps (fun _ _ => move_channelsDistinct) distinct,
      decreaseLoop_course.keeps (fun _ _ => move_heatIdle) kept⟩
    rw [capacity, decreaseLoop_energisedCount (s := u) (bound.trans (Nat.le_add_right ..))]
    exact Nat.min_le_right _ _
  · split
    · next more =>
      have room : HeatWithinCapacity u := ⟨count.trans more.le, distinct, kept⟩
      exact lateGrant_course.keeps (fun _ _ => move_heatWithinCapacity) room
    · exact ⟨count, distinct, idle⟩

theorem relatchRestore_within {l : Locker} {s : State} :
    Within [.ltc, .marks, .fast, .entries] s (relatchRestore l s) := putLatch_within.next putLatch_within

@[simp] theorem relatchRestore_chan (l : Locker) (s : State) (i : Chan) : (relatchRestore l s).chan i = s.chan i :=
  chan_of_hsc (relatchRestore_within.chans (by decide)).1 i

/-- What a change that leaves the channels, and is steady, keeps. -/
theorem Steady.heatIdle {s t : State} (h : Steady s t) (chans : ∀ i, t.chan i = s.chan i)
    (idle : HeatIdleOutsideOperating s) : HeatIdleOutsideOperating t := by
  intro outside
  rw [h.mode] at outside
  obtain ⟨unattached, stopped⟩ := idle outside
  exact ⟨fun i => by rw [chans i, unattached i], h.frame stopped⟩

theorem stride_heatIdle {s t : State} (m : Stride s t) (idle : HeatIdleOutsideOperating s) :
    HeatIdleOutsideOperating t := by
  cases m with
  | move h => exact move_heatIdle h idle
  | frameStart runs =>
    have mode : (hscFrameStart s).mode = s.mode := (hscFrameStart_within.ops (by decide)).1
    intro outside
    exact absurd (idle (by rwa [mode] at outside)).2 runs
  | capacity c =>
    have changed : HeatIdleOutsideOperating { s with hsc := { s.hsc with capacity := c } } := idle
    unfold setCapacity
    dsimp only
    split
    · exact decreaseLoop_course.keeps (fun _ _ => move_heatIdle) changed
    · split
      · exact lateGrant_course.keeps (fun _ _ => move_heatIdle) changed
      · exact idle
  | validating mode | unconfigured mode | restoring mode => exact fun _ => idle (by simp [mode])
  | relatched l => exact relatchRestore_within.steady.heatIdle (relatchRestore_chan l s) idle
  | operating => exact fun outside => absurd rfl outside

theorem stride_channelsDistinct {s t : State} (m : Stride s t) (d : ChannelsDistinct s) : ChannelsDistinct t := by
  cases m with
  | move h => exact move_channelsDistinct h d
  | frameStart => exact hscFrameStart_channelsDistinct d
  | capacity c => exact setCapacity_trail.keeps edit_channelsDistinct d
  | validating | unconfigured | restoring | operating => exact d
  | relatched l => exact relatchRestore_trail.keeps edit_channelsDistinct d

theorem stride_heatWithinCapacity {s t : State} (m : Stride s t) (h : HeatWithinCapacity s) : HeatWithinCapacity t := by
  obtain ⟨count, distinct, idle⟩ := h
  refine ⟨?_, stride_channelsDistinct m distinct, stride_heatIdle m idle⟩
  cases m with
  | move m => exact (move_heatWithinCapacity m ⟨count, distinct, idle⟩).1
  | frameStart => exact hscFrameStart_energisedCount distinct
  | capacity c => exact (setCapacity_heatWithinCapacity c ⟨count, distinct, idle⟩).1
  | validating | unconfigured | operating => exact count
  | restoring mode =>
    have zero : (enterRestoring s).energisedCount = 0 := energisedCount_eq_zero (idle (by simp [mode])).1
    rw [zero]
    exact Nat.zero_le _
  | relatched l =>
    have eases : Eases s (relatchRestore l s) := .of_chans (relatchRestore_chan l s)
    rw [relatchRestore_within.steady.capacity]
    exact eases.energisedCount_le.trans count

/-- Settles O8: heat is energised by a grant within the capacity alone, and a frame start and a decrease end within it. -/
theorem stepKeepsHeatWithinCapacity : Obligations.StepKeepsHeatWithinCapacity := fun _ _ holds e =>
  step_keeps_of_stride (fun _ _ => stride_heatWithinCapacity) resetBy_heatWithinCapacity (fun _ _ h => h) e holds

end Sys2Proof.Machine
end

section
/-! PROOFS. Every stride keeps energised channels behind latched hatches, and queue entries with lockers that qualify
(R109, R116). -/

-- One theorem after the other: a thread for each would ask for more stack space than a build may have.
set_option Elab.async false

namespace Sys2Proof.Machine

/-- Every energised channel belongs to a locker with both latches LATCHED (R116). -/
def EnergisedLatched (s : State) : Prop :=
  ∀ (i : Chan) (l : Locker), (s.chan i).st.energised = some l → s.bothLatched l = true

theorem heatBehindLatched_iff {s : State} : HeatBehindLatched s ↔
    EnergisedLatched s ∧ EntriesQualify s ∧ ChannelsDistinct s ∧ HeatIdleOutsideOperating s :=
  ⟨fun ⟨on, hq, wq, distinct, idle⟩ => ⟨on, ⟨hq, wq⟩, distinct, idle⟩,
    fun ⟨on, ⟨hq, wq⟩, distinct, idle⟩ => ⟨on, hq, wq, distinct, idle⟩⟩

/-- A ranked locker has both latches LATCHED, as its entry qualifies. -/
theorem bothLatched_of_ranked {s : State} {l : Locker} (h : EntriesQualify s) (ranked : l ∈ s.ranking) :
    s.bothLatched l = true := by
  rcases List.mem_append.mp ranked with held | warm
  · exact (Bool.and_eq_true_iff.mp (h.1 l held)).2
  · exact (Bool.and_eq_true_iff.mp (h.2 l warm)).2

/-! ### Energised channels (R116) -/

/-- No channel is energised anew, and where one was the latches stand. -/
theorem EnergisedLatched.of_eases {s t : State} (h : EnergisedLatched s) (eases : Eases s t)
    (both : ∀ l, (∃ i, (t.chan i).st.energised = some l) → s.bothLatched l = true → t.bothLatched l = true) :
    EnergisedLatched t := fun i l on => both l ⟨i, on⟩ (h i l (eases.energised on))

/-- A LATCHED latch stays so under a change of state that only leaves states which are not settled. -/
theorem putLatch_bothLatched {l k : Locker} {h : Hatch} {r : LatchRec} {s : State}
    (may : r.st = .latched ∨ ¬ (s.latch l h).Settled ∨ r.st = (s.latch l h).st ∧ r.kind = (s.latch l h).kind)
    (both : s.bothLatched k = true) : (putLatch l h r s).bothLatched k = true := by
  rw [State.bothLatched_iff] at both ⊢
  have stays (g : Hatch) (latched : (s.latch k g).st = .latched) : ((putLatch l h r s).latch k g).st = .latched := by
    rw [putLatch_latch]
    split
    · next same =>
      rw [same.1, same.2] at latched
      rcases may with now | moving | ⟨st, -⟩
      · exact now
      · exact absurd (.inl latched) moving
      · exact st.trans latched
    · exact latched
  exact ⟨stays .front both.1, stays .rear both.2⟩

theorem failHatch_bothLatched {l k : Locker} {h : Hatch} {s : State} (both : s.bothLatched k = true) :
    (failHatch l s h).bothLatched k = true := by
  rw [State.bothLatched_iff] at both ⊢
  have stays (g : Hatch) (latched : (s.latch k g).st = .latched) : ((failHatch l s h).latch k g).st = .latched := by
    rw [failHatch_latch]
    split
    · next same =>
      rw [same.1, same.2] at latched
      rw [LatchRec.fail_latched latched, latched]
    · exact latched
  exact ⟨stays .front both.1, stays .rear both.2⟩

/-- A release leaves its locker no energised channel. -/
theorem startRelease_energised {l : Locker} {h : Hatch} {s : State} (d : ChannelsDistinct s) (i : Chan) :
    ((startRelease l h s).chan i).st.energised ≠ some l := by
  unfold startRelease
  dsimp only
  split
  · have kept : ChannelsDistinct (putLatch l h ((s.latch l h).release .haltWait) s) :=
      (Eases.of_chans (putLatch_chan l h _ s)).channelsDistinct d
    exact haltLocker_energised kept i
  · next none =>
    rw [issueLatch_chan, putLatch_chan]
    intro on
    exact attachedChan_eq_none_iff.mp (by simpa using none) i (ChanState.attached_of_energised on)

theorem move_energisedLatched {s t : State} (m : Move s t) (d : ChannelsDistinct s) (entries : EntriesQualify s)
    (h : EnergisedLatched s) : EnergisedLatched t := by
  rcases move_eases m with eases | ⟨i, l, g, -, -, ranked, -, -, rfl⟩
  · refine h.of_eases eases fun k on both => ?_
    cases m with
    | calm c => rw [bothLatched_of_ltc c.ltc]; exact both
    | ctx => rw [bothLatched_of_ltc (putCtx_within.ltc (by decide))]; exact both
    | presented | dropped | postedHq | postedWq => exact both
    | chan | allocated => rw [bothLatched_of_ltc (putChan_within.ltc (by decide))]; exact both
    | latch l h r may => exact putLatch_bothLatched may both
    | release l h =>
      obtain ⟨i, on⟩ := on
      have ne : k ≠ l := fun same => startRelease_energised d i (same ▸ on)
      rw [State.bothLatched_iff] at both ⊢
      rw [startRelease_latch_ne fun e => ne e.1, startRelease_latch_ne fun e => ne e.1]
      exact both
    | acked l p =>
      exact putLatch_bothLatched (.inl rfl) ((bothLatched_of_ltc (putPaths_within.ltc (by decide)) k).trans both)
    | failed l p =>
      exact failHatch_bothLatched (failHatch_bothLatched
        ((bothLatched_of_ltc (putPaths_within.ltc (by decide)) k).trans both))
  · intro j k on
    rw [bothLatched_of_ltc (putChan_within.ltc (by decide))]
    rw [putChan_chan] at on
    split at on
    · simp only [ChanState.energised, Option.some.injEq] at on
      exact on ▸ bothLatched_of_ranked entries ranked
    · exact h j k on

/-! ### Queue entries (R109) -/

/-- Entries qualify as before where queues, contexts and latches stand. -/
theorem EntriesQualify.within {bs : List Part} {s t : State} (h : EntriesQualify s) (w : Within bs s t)
    (entries : Part.entries ∉ bs := by decide) (lke : Part.lke ∉ bs := by decide) (ltc : Part.ltc ∉ bs := by decide) :
    EntriesQualify t := by
  obtain ⟨hq, wq⟩ := w.entries entries
  exact h.mono (fun k => by rw [hq]; exact id) (fun k => by rw [wq]; exact id)
    (fun k => congrArg Context.life (ctx_of_lke (w.lke lke) k)) (latches_of_ltc (w.ltc ltc))

theorem failHatch_entriesQualify {l : Locker} {h : Hatch} {s : State} (e : EntriesQualify s) :
    EntriesQualify (failHatch l s h) := by
  rcases failHatch_eq l s h with same | put
  · rw [same]; exact e
  · rw [put]; exact putLatch_entriesQualify e

/-- An entry posted for a locker that qualifies. -/
theorem EntriesQualify.posted {s t : State} (h : EntriesQualify s)
    (hq : ∀ l ∈ t.hsc.hq, l ∈ s.hsc.hq ∨ s.qualifiesHq l = true) (wq : ∀ l ∈ t.hsc.wq, l ∈ s.hsc.wq ∨ s.qualifiesWq l = true)
    (lke : t.lke = s.lke) (ltc : t.ltc = s.ltc) : EntriesQualify t := by
  refine ⟨fun l listed => ?_, fun l listed => ?_⟩
  · rw [qualifiesHq_congr (congrArg Context.life (ctx_of_lke lke l)) (latches_of_ltc ltc l)]
    exact (hq l listed).elim (h.1 l) id
  · rw [qualifiesWq_congr (congrArg Context.life (ctx_of_lke lke l)) (latches_of_ltc ltc l)]
    exact (wq l listed).elim (h.2 l) id

theorem move_entriesQualify {s t : State} (m : Move s t) (e : EntriesQualify s) : EntriesQualify t := by
  cases m with
  | calm c =>
    exact e.mono (fun k => by rw [c.hq]; exact id) (fun k => by rw [c.wq]; exact id)
      (fun k => congrArg Context.life (ctx_of_lke c.lke k)) (latches_of_ltc c.ltc)
  | ctx => exact putCtx_entriesQualify e
  | presented l c life =>
    refine e.mono (fun _ => id) (fun _ => id) (fun k => ?_) fun _ => rfl
    rw [State.ctx, getElem_setL]
    split
    · next same => rw [same, life]
    · rfl
  | latch => exact putLatch_entriesQualify e
  | chan | allocated => exact e.within putChan_within
  | dropped hh hw => exact e.mono (fun _ listed => hh.subset listed) (fun _ listed => hw.subset listed) (fun _ => rfl) fun _ => rfl
  | postedHq l qualifies =>
    refine e.posted (fun k listed => ?_) (fun _ => .inl) rfl rfl
    exact (List.mem_append.mp listed).imp_right fun last => by rw [List.mem_singleton.mp last]; exact qualifies
  | postedWq l qualifies =>
    refine e.posted (fun _ => .inl) (fun k listed => ?_) rfl rfl
    exact (List.mem_append.mp listed).imp_right fun last => by rw [List.mem_singleton.mp last]; exact qualifies
  | release l h =>
    unfold startRelease
    dsimp only
    split
    · exact (putLatch_entriesQualify e).within haltLocker_within
    · exact (putLatch_entriesQualify e).within issueLatch_within
  | acked l p => exact putLatch_entriesQualify (e.within putPaths_within)
  | failed l p => exact failHatch_entriesQualify (failHatch_entriesQualify (e.within putPaths_within))

/-! ### Strides -/

theorem move_heatBehindLatched {s t : State} (m : Move s t) (h : HeatBehindLatched s) : HeatBehindLatched t := by
  obtain ⟨on, entries, distinct, idle⟩ := heatBehindLatched_iff.mp h
  exact heatBehindLatched_iff.mpr ⟨move_energisedLatched m distinct entries on, move_entriesQualify m entries,
    move_channelsDistinct m distinct, move_heatIdle m idle⟩

theorem EnergisedLatched.of_unattached {t : State} (h : ∀ i : Chan, (t.chan i).st.attached = none) :
    EnergisedLatched t := fun i l on => absurd (ChanState.attached_of_energised on) (by simp [h i])

/-- The entries that a walk of the ranking leaves are entries walked. -/
theorem walkRanking_entries (s : State) :
    (walkRanking s).1.hsc.hq.Sublist s.hsc.hq ∧ (walkRanking s).1.hsc.wq.Sublist s.hsc.wq := by
  unfold walkRanking
  dsimp only
  refine ⟨walkQueue_stay, walkQueue_stay.trans ?_⟩
  rw [(walkQueue_within.entries (by decide)).2]

theorem hscFrameStart_entriesQualify {s : State} (e : EntriesQualify s) : EntriesQualify (hscFrameStart s) := by
  obtain ⟨hq, wq⟩ := walkRanking_entries s
  have life (k : Locker) : ((walkRanking s).1.ctx k).life = (s.ctx k).life :=
    congrArg Context.life (ctx_of_lke (walkRanking_within.lke (by decide)) k)
  have walked : EntriesQualify (walkRanking s).1 := e.mono (fun _ listed => hq.subset listed)
    (fun _ listed => wq.subset listed) life (latches_of_ltc (walkRanking_within.ltc (by decide)))
  unfold hscFrameStart
  exact (walked.within frameReleases_within).within judgeOverrun_within

theorem setCapacity_heatBehindLatched (c : Nat) {s : State} (h : HeatBehindLatched s) :
    HeatBehindLatched (setCapacity c s) := by
  have changed : HeatBehindLatched { s with hsc := { s.hsc with capacity := c } } := h
  unfold setCapacity
  dsimp only
  split
  · exact decreaseLoop_course.keeps (fun _ _ => move_heatBehindLatched) changed
  · split
    · exact lateGrant_course.keeps (fun _ _ => move_heatBehindLatched) changed
    · exact h

theorem stride_heatBehindLatched {s t : State} (m : Stride s t) (h : HeatBehindLatched s) : HeatBehindLatched t := by
  obtain ⟨on, entries, distinct, idle⟩ := heatBehindLatched_iff.mp h
  suffices EnergisedLatched t ∧ EntriesQualify t from
    heatBehindLatched_iff.mpr ⟨this.1, this.2, stride_channelsDistinct m distinct, stride_heatIdle m idle⟩
  cases m with
  | move m => exact ⟨move_energisedLatched m distinct entries on, move_entriesQualify m entries⟩
  | frameStart =>
    refine ⟨fun i l lit => ?_, hscFrameStart_entriesQualify entries⟩
    rw [bothLatched_of_ltc (hscFrameStart_within.ltc (by decide))]
    exact (hscFrameStart_energised lit).elim (on i l) (bothLatched_of_ranked entries)
  | capacity c =>
    obtain ⟨lit, listed, -, -⟩ := heatBehindLatched_iff.mp (setCapacity_heatBehindLatched c h)
    exact ⟨lit, listed⟩
  | validating | unconfigured | restoring | operating => exact ⟨on, entries⟩
  | relatched l mode =>
    have unattached := (idle (by simp [mode])).1
    exact ⟨.of_unattached fun i => by rw [relatchRestore_chan, unattached i],
      putLatch_entriesQualify (putLatch_entriesQualify entries)⟩

/-- Settles O9: a grant serves an entry, an entry stands while its locker qualifies, and a latch is released from LATCHED
only with its locker's channel halted. -/
theorem stepKeepsHeatBehindLatched : Obligations.StepKeepsHeatBehindLatched := fun _ _ holds e =>
  step_keeps_of_stride (fun _ _ => stride_heatBehindLatched) resetBy_heatBehindLatched (fun _ _ h => h) e holds

end Sys2Proof.Machine
end

section
/-! PROOFS. Frames of the maintenance line, commands that stop by name, the maintenance operations and the output lines
(R2, R3, R36, R178, R179, R181, R182). -/

-- One theorem after the other: a thread for each would ask for more stack space than a build may have.
set_option Elab.async false

namespace Sys2Proof.Machine

/-! ### Frames (R36) -/

theorem bytes_append (w : Word) :
    w.extractLsb' 24 8 ++ w.extractLsb' 16 8 ++ w.extractLsb' 8 8 ++ w.extractLsb' 0 8 = w := by
  refine BitVec.eq_of_getLsbD_eq fun i below => ?_
  simp only [BitVec.getLsbD_append, BitVec.getLsbD_extractLsb']
  grind

/-- An invalid operation byte is none of the three valid ones (R181). -/
theorem opInvalid_iff (op : BitVec 8) : opInvalid op = true ↔ op ≠ 1 ∧ op ≠ 2 ∧ op ≠ 3 := by decide +revert

/-- Settles O3: the operation byte tells the row, and the four data bytes make up the word. -/
theorem maintFrameReadsBack : Obligations.MaintFrameReadsBack := by
  intro prog op index data
  refine ⟨rfl, ?_, rfl, fun invalid => ?_⟩
  · simp [frameBytes, decodeFrame, bytes_append]
  · obtain ⟨read, write, erase⟩ := (opInvalid_iff op).mp invalid
    show (if op = 1 then _ else if op = 3 then _ else if op = 2 then _ else _) = _
    rw [if_neg read, if_neg erase, if_neg write]

/-! ### Commands that stop by name (R2, R3) -/

theorem present_inReset {s : State} (x : Txn) (mode : s.mode = .inReset) : present x s = .next s := by
  simp [present, mode]

theorem present_busy {s : State} (x : Txn) (mode : s.mode ≠ .inReset) (busy : s.cpi ≠ .idle) :
    present x s = .fault .busBusy := by simp [present, mode, busy]

theorem present_idle {s : State} (x : Txn) (mode : s.mode ≠ .inReset) (idle : s.cpi = .idle) :
    present x s = .next (settle (arrive x s)) := by simp [present, done, mode, idle]

/-- A C-port row presents one transaction when its operands are well formed. -/
theorem exec_onCPort {c : Instr} (form : c.wellFormed = true) (port : onCPort c = true) :
    ∃ x, ∀ s, exec c s = present x s := by
  cases c <;> simp only [onCPort, Bool.false_eq_true] at port
  case cPortRead | controllerWrite | unknownKind =>
    exact ⟨_, fun _ => if_pos form⟩
  all_goals exact ⟨_, fun _ => rfl⟩

/-- A row that ends a transaction on the M-port finds none there. -/
theorem exec_endsMPort {c : Instr} {s : State} (free : s.mpi.port = none) (ends : endsMPort c = true) :
    exec c s = .fault .noSuchEvent := by
  cases c <;> simp only [endsMPort, Bool.false_eq_true] at ends <;> simp only [exec]
  case fwdWriteLand => simp [execFwdWriteLand, free]
  case fwdReadComplete => simp [execFwdReadComplete, free]
  case mrwWriteLand => simp [execMrwWriteLand, free]
  case probeComplete => simp [execProbeComplete, free]
  case framePollComplete => simp [execFramePollComplete, free]
  case fastPollComplete => simp [execFastPollComplete, free]
  case ringRecordLand => simp [execRingRecordLand, free]
  case writeIndexLand => simp [execWriteIndexLand, free]
  case statusLand => simp [execStatusLand, free]
  case restoreReadComplete => simp [execRestoreReadComplete, free]
  case ringRestoreRead => simp [execRingRestoreRead, free]
  case readCellZeroLand => simp [execReadCellZeroLand, free]

/-- Four rows carry operands that can be malformed. -/
theorem exec_malformed {c : Instr} (s : State) (form : c.wellFormed = false) : exec c s = .fault .malformed := by
  have not_form {b : Bool} (h : b = false) : ¬ b = true := by simp [h]
  cases c <;> simp only [Instr.wellFormed, Bool.true_eq_false] at form
  case cPortRead | controllerWrite | unknownKind | maintInvalid => exact if_neg (not_form form)

/-- Settles O4: the C-port takes a transaction only out of reset and while CPI is IDLE; a grant wants the M-port free, a
landing or completion wants it carrying. -/
theorem impossibleEventsStopByName : Obligations.ImpossibleEventsStopByName := by
  refine ⟨fun c s form port => ?_, fun s carries => ?_, fun c s => exec_endsMPort, fun c s => exec_malformed s⟩
  · obtain ⟨x, presents⟩ := exec_onCPort form port
    rw [presents]
    exact ⟨present_inReset x, present_busy x⟩
  · have carrying : s.mpi.port.isSome = true := Option.isSome_iff_ne_none.mpr carries
    simp [exec, execMportGrant, carrying]

/-! ### The maintenance line (R181, R182) -/

theorem served_of_mode {s : State} (h : s.mode ≠ .inReset) : s.served = true := by simp [State.served, h]

theorem hiddenWord_iff (i : Nat) : hiddenWord i = true ↔ 26 ≤ i ∧ i ≤ 33 := by simp [hiddenWord]

theorem exec_maintRead {s : State} (index : BitVec 8) (mode : s.mode ≠ .inReset) :
    exec (.maintRead index) s = .next (maintReadFrame index s) := by
  simp [exec, execMaintRead, served_of_mode mode]

theorem exec_maintWrite {s : State} (prog : Bool) (index : BitVec 8) (data : Word) (mode : s.mode ≠ .inReset) :
    exec (.maintWrite prog index data) s = .next (maintWriteFrame prog index data s) := by
  simp [exec, execMaintWrite, served_of_mode mode]

theorem exec_maintErase {s : State} (prog : Bool) (index : BitVec 8) (mode : s.mode ≠ .inReset) :
    exec (.maintErase prog index) s = .next (maintEraseFrame prog s) := by
  simp [exec, execMaintErase, served_of_mode mode]

/-- A WRITE frame is refused unless PROG is high outside validation and the word named is erased. -/
theorem maintWriteFrame_refused {s : State} {prog : Bool} {index : BitVec 8} {data : Word}
    (why : prog = false ∨ s.mode = .validating ∨ 64 ≤ index.toNat
      ∨ ∃ h : index.toNat < 64, s.store[index.toNat] ≠ 0xFFFFFFFF) :
    maintWriteFrame prog index data s = maintAnswer .refused s := by
  unfold maintWriteFrame
  split
  · next below =>
    have closed : (prog && decide (s.mode ≠ .validating) && decide (s.store[index.toNat] = Config.erasedWord)) = false := by
      rcases why with low | validating | out | ⟨_, programmed⟩
      · simp [low]
      · simp [validating]
      · omega
      · rw [Bool.and_eq_false_iff]
        exact .inr (decide_eq_false programmed)
    rw [closed]
    rfl
  · rfl

/-- Settles O58: each frame out of reset, by the word index, PROG, the mode and the word that stands. -/
theorem maintenanceOperations : Obligations.MaintenanceOperations := by
  intro s prog op index data mode
  rw [exec_maintRead index mode, exec_maintWrite prog index data mode, exec_maintErase prog index mode]
  refine ⟨fun below => ?_, fun out => ?_, fun below high notValidating erased => ?_, fun why => ?_,
    fun high notValidating => ?_, fun why => ?_, fun invalid => ?_⟩
  · have hidden : (s.storeLocked && hiddenWord index.toNat) = true
        ↔ s.store[62] = 0 ∧ 26 ≤ index.toNat ∧ index.toNat ≤ 33 := by
      rw [Bool.and_eq_true, hiddenWord_iff, State.storeLocked, decide_eq_true_eq]
    simp only [maintReadFrame, dif_pos below, maintAnswer, hidden]
  · simp only [maintReadFrame, dif_neg (Nat.not_lt.mpr out), maintAnswer]
  · simp [maintWriteFrame, below, high, notValidating, erased, Config.erasedWord, maintAnswer]
  · rw [maintWriteFrame_refused why]
    rfl
  · simp [maintEraseFrame, high, notValidating, maintAnswer, Config.erasedWord]
  · have closed : (prog && decide (s.mode ≠ .validating)) = false := by
      rcases why with low | validating
      · simp [low]
      · simp [validating]
    rw [maintEraseFrame, closed]
    rfl
  · simp [exec, execMaintInvalid, invalid, served_of_mode mode, maintAnswer]

/-! ### The lines (R178, R179) -/

/-- With the two counts exact, one is positive exactly while a locker is in QUARANTINE or a channel LOST. -/
theorem counts_pos_iff {s : State} (quarantined : QuarantineCounted s) (lost : LostChannelsCounted s) :
    (0 < s.rpw.quarantined ↔ ∃ l : Locker, (s.ctx l).life = .quarantine)
      ∧ (0 < s.rpw.lostChannels ↔ ∃ i : Chan, (s.chan i).st = .lost) := by
  rw [quarantined, lost]
  simp [List.countP_pos_iff, allChans]

/-- Settles O60: the mode decides the lines, and in RESTORING and OPERATING the two counts decide FAULT. -/
theorem linesFollowTheState : Obligations.LinesFollowTheState := by
  intro s
  refine ⟨fun mode => ?_, fun mode => ?_, fun mode quarantined lost => ?_⟩
  · simp [State.faultLine, State.attnLine, State.ringKnown, mode]
  · rcases mode with mode | mode <;> simp [State.faultLine, State.attnLine, State.ringKnown, mode]
  · obtain ⟨locker, channel⟩ := counts_pos_iff quarantined lost
    have fault : s.faultLine = (decide (0 < s.rpw.quarantined) || decide (0 < s.rpw.lostChannels)) := by
      rcases mode with mode | mode <;> simp [State.faultLine, mode]
    have attn : s.attnLine = (s.rpw.adopted && s.rpw.attention) := by
      rcases mode with mode | mode <;> simp [State.attnLine, State.ringKnown, mode]
    rw [fault, attn]
    simp [locker, channel]

end Sys2Proof.Machine
end

section
/-! PROOFS. What follows every event, read field by field: it reaches CPI, turns, requests and RPW's queue and operation,
and the queue only where the ring is full (R11, R17, R175). With it, the records that an event hands over (R174). -/

-- One theorem after the other: a thread for each would ask for more stack space than a build may have.
set_option Elab.async false

namespace Sys2Proof.Machine

/-! ### What `settle` leaves -/

section
variable (s : State)

@[simp] theorem settle_pending : (settle s).pending = s.pending := settle_within.pending
@[simp] theorem settle_mode : (settle s).mode = s.mode := (settle_within.ops (by decide)).1
@[simp] theorem settle_cause : (settle s).cause = s.cause := (settle_within.ops (by decide)).2.1
@[simp] theorem settle_copies : (settle s).copies = s.copies := (settle_within.ops (by decide)).2.2.2.1
@[simp] theorem settle_restore : (settle s).restore = s.restore := (settle_within.ops (by decide)).2.2.2.2.1
@[simp] theorem settle_feed : (settle s).feed = s.feed := (settle_within.ops (by decide)).2.2.2.2.2.1
@[simp] theorem settle_maint : (settle s).maint = s.maint := (settle_within.ops (by decide)).2.2.2.2.2.2
@[simp] theorem settle_lke : (settle s).lke = s.lke := settle_within.lke (by decide)
@[simp] theorem settle_ltc : (settle s).ltc = s.ltc := settle_within.ltc (by decide)
@[simp] theorem settle_hsc : (settle s).hsc = s.hsc := settle_within.hsc_eq (by decide) (by decide) (by decide)
@[simp] theorem settle_ahu_paths : (settle s).ahu.paths = s.ahu.paths := settle_within.paths (by decide)
@[simp] theorem settle_smp_recs : (settle s).smp.recs = s.smp.recs := settle_within.recs (by decide)
@[simp] theorem settle_fastPoll : (settle s).smp.fastPoll = s.smp.fastPoll := (settle_within.fast (by decide)).1
@[simp] theorem settle_fastDue : (settle s).smp.fastDue = s.smp.fastDue := (settle_within.fast (by decide)).2
@[simp] theorem settle_tmb : (settle s).tmb = s.tmb := settle_within.tmb (by decide)
@[simp] theorem settle_sup : (settle s).sup = s.sup := settle_within.sup (by decide)
@[simp] theorem settle_mrw_marks : (settle s).mrw.marks = s.mrw.marks := settle_within.marks (by decide)
@[simp] theorem settle_adopted : (settle s).rpw.adopted = s.rpw.adopted := (settle_within.ring (by decide)).1
@[simp] theorem settle_write : (settle s).rpw.write = s.rpw.write := (settle_within.ring (by decide)).2.1
@[simp] theorem settle_read : (settle s).rpw.read = s.rpw.read := (settle_within.ring (by decide)).2.2.1
@[simp] theorem settle_attention : (settle s).rpw.attention = s.rpw.attention :=
  (settle_within.ring (by decide)).2.2.2.1
@[simp] theorem settle_mask : (settle s).rpw.mask = s.rpw.mask := (settle_within.ring (by decide)).2.2.2.2.1
@[simp] theorem settle_stage : (settle s).rpw.stage = s.rpw.stage := (settle_within.ring (by decide)).2.2.2.2.2.1
@[simp] theorem settle_quarantined : (settle s).rpw.quarantined = s.rpw.quarantined :=
  (settle_within.counts (by decide)).1
@[simp] theorem settle_lostChannels : (settle s).rpw.lostChannels = s.rpw.lostChannels :=
  (settle_within.counts (by decide)).2
@[simp] theorem settle_mpi : (settle s).mpi = s.mpi := settle_within.mpi (by decide)
@[simp] theorem settle_mem : (settle s).mem = s.mem := settle_within.mem (by decide)

@[simp] theorem settle_ctx (l : Locker) : (settle s).ctx l = s.ctx l := ctx_of_lke (settle_lke s) l
@[simp] theorem settle_latches (l : Locker) : (settle s).latches l = s.latches l := latches_of_ltc (settle_ltc s) l
@[simp] theorem settle_latch (l : Locker) (h : Hatch) : (settle s).latch l h = s.latch l h :=
  latch_of_ltc (settle_ltc s) l h
@[simp] theorem settle_bothLatched (l : Locker) : (settle s).bothLatched l = s.bothLatched l :=
  bothLatched_of_ltc (settle_ltc s) l
@[simp] theorem settle_paths (l : Locker) : (settle s).paths l = s.paths l := paths_of_ahu (settle_ahu_paths s) l
@[simp] theorem settle_marks (l : Locker) : (settle s).marks l = s.marks l := marks_of_mrw (settle_mrw_marks s) l
@[simp] theorem settle_sampler (l : Locker) : (settle s).sampler l = s.sampler l := sampler_of_smp (settle_smp_recs s) l
@[simp] theorem settle_chan (i : Chan) : (settle s).chan i = s.chan i := by simp [State.chan]

end

/-- In reset, in validation and in UNCONFIGURED nothing follows an event (R14, R183). -/
theorem settle_of_still {s : State} (h : s.mode = .inReset ∨ s.mode = .validating ∨ s.mode = .unconfigured) :
    settle s = s := by
  rcases h with h | h | h <;> simp [settle, h]

/-- Before RPW's step, what follows an event leaves RPW. -/
theorem settle_eq_rpwSettle {s : State} (h : s.mode = .restoring ∨ s.mode = .operating) :
    ∃ u, Within [.cpi, .turns, .due, .sweep] s u ∧ settle s = rpwSettle u := by
  rcases h with h | h
  · refine ⟨ahuSettle (mrwSettle s), ?_, by simp [settle, h]⟩
    exact mrwSettle_within.widen.next ahuSettle_within
  · refine ⟨smpSettle (ahuSettle (mrwSettle (releaseHolds s))), ?_, by simp [settle, h]⟩
    exact ((releaseHolds_within.widen.next mrwSettle_within).next ahuSettle_within).next smpSettle_within

theorem Within.rpw_eq {bs : List Part} {s t : State} (h : Within bs s t) (counts : Part.counts ∉ bs := by decide)
    (queue : Part.queue ∉ bs := by decide) (ringOp : Part.ringOp ∉ bs := by decide)
    (ring : Part.ring ∉ bs := by decide) : t.rpw = s.rpw := by
  obtain ⟨quarantined, lostChannels⟩ := h.counts counts
  obtain ⟨records, lost, overrun, statusMark⟩ := h.queue queue
  obtain ⟨adopted, write, read, attention, mask, stage, keptWrite, keptRead⟩ := h.ring ring
  have op := h.ringOp ringOp
  cases ht : t.rpw
  cases hs : s.rpw
  simp_all

theorem ringFull_congr {s t : State} (write : t.rpw.write = s.rpw.write) (read : t.rpw.read = s.rpw.read)
    (copies : t.copies = s.copies) : t.ringFull = s.ringFull := by simp [State.ringFull, write, read, copies]

/-- With room in the ring RPW at most starts an operation (R175). -/
theorem rpwSettle_of_room {s : State} (room : s.ringFull = false) :
    ∃ o, (rpwSettle s).rpw = { s.rpw with op := o } := by
  unfold rpwSettle rpwStart
  simp only [room]
  split
  · split
    · exact ⟨_, rfl⟩
    · split
      · exact ⟨s.rpw.op, rfl⟩
      · exact ⟨_, rfl⟩
  · exact ⟨s.rpw.op, rfl⟩

/-- With room in the ring what follows an event at most starts one of RPW's operations. -/
theorem settle_rpw_of_room {s : State} (room : s.ringFull = false) : ∃ o, (settle s).rpw = { s.rpw with op := o } := by
  by_cases runs : s.mode = .restoring ∨ s.mode = .operating
  · obtain ⟨u, kept, same⟩ := settle_eq_rpwSettle runs
    have rpw : u.rpw = s.rpw := kept.rpw_eq
    obtain ⟨-, -, -, copies, -⟩ := kept.ops (by decide)
    rw [same, ← rpw]
    exact rpwSettle_of_room ((ringFull_congr (by rw [rpw]) (by rw [rpw]) copies).trans room)
  · have still : settle s = s := settle_of_still (by cases mode : s.mode <;> simp_all)
    exact ⟨s.rpw.op, by rw [still]⟩

/-! ### CPI after an event (R10, R11) -/

theorem releaseHolds_answer (s : State) : (releaseHolds s).answer = s.answer := by
  unfold releaseHolds
  split
  · dsimp only; split <;> rfl
  all_goals rfl

/-- What follows an event reaches CPI by the release of holds alone. -/
theorem settle_cpi_eq (s : State) : (settle s).cpi = (if s.mode = .operating then (releaseHolds s).cpi else s.cpi)
    ∧ (settle s).answer = s.answer := by
  have rest {u t : State} (h : Within [.turns, .due, .sweep, .queue, .ringOp] u t) : t.cpi = u.cpi ∧ t.answer = u.answer :=
    h.cpi (by decide)
  cases mode : s.mode with
  | inReset | validating | unconfigured => simp [settle, mode]
  | restoring =>
    simp only [settle, mode]
    exact rest ((mrwSettle_within.widen.next ahuSettle_within).next rpwSettle_within)
  | operating =>
    simp only [settle, mode, if_true]
    obtain ⟨cpi, answer⟩ := rest (((mrwSettle_within (s := releaseHolds s) |>.widen.next ahuSettle_within).next
      smpSettle_within).next rpwSettle_within)
    exact ⟨cpi, answer.trans (releaseHolds_answer s)⟩

@[simp] theorem settle_answer (s : State) : (settle s).answer = s.answer := (settle_cpi_eq s).2

/-- CPI stands unless it holds a read in OPERATING. -/
theorem settle_cpi {s : State} (h : ∀ x mirror ring, s.cpi ≠ .held x false mirror ring) : (settle s).cpi = s.cpi := by
  rw [(settle_cpi_eq s).1]
  split
  · unfold releaseHolds
    split
    · next held => exact absurd held (h _ _ _)
    all_goals rfl
  · rfl

theorem settle_cpi_idle {s : State} (h : s.cpi = .idle) : (settle s).cpi = .idle := by
  rw [settle_cpi (by simp [h]), h]

theorem settle_cpi_waiting {s : State} {x : Txn} {e : LandEffect} (h : s.cpi = .waiting x e) :
    (settle s).cpi = .waiting x e := by
  rw [settle_cpi (by simp [h]), h]

/-! ### Records handed over (R174, R176) -/

/-- The queue, the lost count and the overrun after a record depend on nothing else of RPW. -/
theorem hand_congr {p q : Rpw} (queue : q.queue = p.queue) (lost : q.lost = p.lost) (overrun : q.overrun = p.overrun)
    (r : Record) : (q.hand r).queue = (p.hand r).queue ∧ (q.hand r).lost = (p.hand r).lost
      ∧ (q.hand r).overrun = (p.hand r).overrun := by
  unfold Rpw.hand Rpw.countLoss
  rw [queue]
  split <;> simp [lost, overrun]

theorem foldl_hand_congr {p q : Rpw} (queue : q.queue = p.queue) (lost : q.lost = p.lost)
    (overrun : q.overrun = p.overrun) (rs : List Record) :
    (rs.foldl Rpw.hand q).queue = (rs.foldl Rpw.hand p).queue ∧ (rs.foldl Rpw.hand q).lost = (rs.foldl Rpw.hand p).lost
      ∧ (rs.foldl Rpw.hand q).overrun = (rs.foldl Rpw.hand p).overrun := by
  induction rs generalizing p q with
  | nil => exact ⟨queue, lost, overrun⟩
  | cons r rs ih =>
    obtain ⟨queue, lost, overrun⟩ := hand_congr queue lost overrun r
    exact ih queue lost overrun

/-- Records handed over one event after another. -/
theorem handedAll_trans {a b : List Record} {s t u : State} (h : HandedAll a s t) (k : HandedAll b t u) :
    HandedAll (a ++ b) s u := by
  obtain ⟨queue, lost, overrun⟩ := h
  obtain ⟨queue', lost', overrun'⟩ := foldl_hand_congr queue lost overrun b
  obtain ⟨kq, kl, ko⟩ := k
  rw [← List.foldl_append] at queue' lost' overrun'
  exact ⟨kq.trans queue', kl.trans lost', ko.trans overrun'⟩

theorem handedAll_single {r : Record} {s t : State} : HandedAll [r] s t ↔ Handed r s t := Iff.rfl

theorem handRecord_handed (r : Record) (s : State) : HandedAll [r] s (handRecord r s) := ⟨rfl, rfl, rfl⟩

/-- A change outside the queue hands over nothing. -/
theorem Within.unhanded {bs : List Part} {s t : State} (w : Within bs s t) (h : Part.queue ∉ bs := by decide) :
    HandedAll [] s t := by
  obtain ⟨queue, lost, overrun, -⟩ := w.queue h
  exact ⟨queue, lost, overrun⟩

/-- With room in the ring what follows an event hands over nothing. -/
theorem settle_unhanded {s : State} (room : s.ringFull = false) : HandedAll [] s (settle s) := by
  obtain ⟨o, rpw⟩ := settle_rpw_of_room room
  rw [HandedAll, rpw]
  exact ⟨rfl, rfl, rfl⟩

/-- Records handed over by an event stay so after what follows it. -/
theorem handedAll_settle {rs : List Record} {s t : State} (h : HandedAll rs s t) (room : t.ringFull = false) :
    HandedAll rs s (settle t) := by
  simpa using handedAll_trans h (settle_unhanded room)

/-- A change that leaves the ring's indices and the copies leaves it full or not. -/
theorem Within.ringFull {bs : List Part} {s t : State} (w : Within bs s t) (ring : Part.ring ∉ bs := by decide)
    (ops : Part.ops ∉ bs := by decide) : t.ringFull = s.ringFull := by
  obtain ⟨-, write, read, -⟩ := w.ring ring
  obtain ⟨-, -, -, copies, -⟩ := w.ops ops
  exact ringFull_congr write read copies

/-- Nothing handed over leaves the queue. -/
theorem queue_of_unhanded {s t : State} (h : HandedAll [] s t) : t.rpw.queue = s.rpw.queue := h.1

/-! ### The words of the statements on the state before `settle` -/

theorem outsideKept_settle {s t : State} (h : OutsideKept s t) : OutsideKept s (settle t) := by
  obtain ⟨pending, mode, cause, store, copies, restore, feed, maint, memory⟩ := h
  constructor <;> simp [*]

theorem clockKept_settle {s t : State} (h : ClockKept s t) : ClockKept s (settle t) := by simpa [ClockKept] using h

theorem lockersKept_settle {s t : State} (h : LockersKept s t) : LockersKept s (settle t) := by
  simpa [LockersKept] using h

theorem heatKept_settle {s t : State} (h : HeatKept s t) : HeatKept s (settle t) := by simpa [HeatKept] using h

theorem samplesKept_settle {s t : State} (h : SamplesKept s t) : SamplesKept s (settle t) := by
  simpa [SamplesKept] using h

theorem ringKept_settle {s t : State} (h : RingKept s t) : RingKept s (settle t) := by
  obtain ⟨adopted, write, read, attention, mask, quarantined, lostChannels⟩ := h
  constructor <;> simp [*]

theorem otherLockersKept_settle {l : Locker} {s t : State} (h : OtherLockersKept l s t) :
    OtherLockersKept l s (settle t) := by simpa [OtherLockersKept] using h

end Sys2Proof.Machine
end

section
/-! PROOFS. A transaction at its arrival: which cause governs a write, what a refusal leaves and reports, what is captured
of a single full write, and what is forwarded (R2, R5 to R9, R14, R15, R20, R21). -/

-- One theorem after the other: a thread for each would ask for more stack space than a build may have.
set_option Elab.async false

namespace Sys2Proof.Machine

/-! ### The governing cause (R5) -/

/-- The governing cause is the first in the order that a beat shows, and its beat the earliest that shows it. -/
theorem governing_of_first {s : State} {x : Txn} {k : Nat} {c : Cause} (inside : k < x.len)
    (shows : causeOf s x (x.beatAddr k) = some c) (first : ∀ j < k, causeOf s x (x.beatAddr j) ≠ some c)
    (ahead : ∀ before after, causeOrder = before ++ c :: after →
      ∀ d ∈ before, ∀ j < x.len, causeOf s x (x.beatAddr j) ≠ some d) :
    governing s x = some (c, x.beatAddr k) := by
  have listed : c ∈ causeOrder := by cases c <;> decide
  obtain ⟨before, after, order⟩ := List.append_of_mem listed
  have passed : before.findSome? (fun d => (x.beats.find? fun a => causeOf s x a = some d).map fun a => (d, a)) = none := by
    refine List.findSome?_eq_none_iff.mpr fun d inBefore => ?_
    rw [Option.map_eq_none_iff, List.find?_eq_none]
    intro a beat
    obtain ⟨j, below, rfl⟩ := List.mem_map.mp beat
    simpa using ahead before after order d inBefore j (List.mem_range.mp below)
  have found : x.beats.find? (fun a => causeOf s x a = some c) = some (x.beatAddr k) := by
    have index : (List.range x.len).find? ((fun a => decide (causeOf s x a = some c)) ∘ x.beatAddr) = some k := by
      rw [List.find?_range_eq_some]
      exact ⟨by simpa using shows, List.mem_range.mpr inside, fun j below => by simpa using first j below⟩
    rw [Txn.beats, List.find?_map, index]
    rfl
  unfold governing
  rw [order, List.findSome?_append, passed, Option.none_or, List.findSome?_cons, found]
  rfl

/-- NOT_READY governs as soon as a beat shows it. -/
theorem governing_of_notReady {s : State} {x : Txn} (h : ∃ a ∈ x.beats, causeOf s x a = some .notReady) :
    ∃ a, governing s x = some (.notReady, a) := by
  obtain ⟨b, beat, shows⟩ := h
  have isSome : (x.beats.find? fun a => causeOf s x a = some .notReady).isSome = true :=
    List.find?_isSome.mpr ⟨b, beat, by simpa using shows⟩
  obtain ⟨a, found⟩ := Option.isSome_iff_exists.mp isSome
  exact ⟨a, by simp [governing, causeOrder, found]⟩

theorem mem_beats {x : Txn} {a : Addr} : a ∈ x.beats ↔ ∃ k < x.len, x.beatAddr k = a := by
  simp [Txn.beats]

/-! ### Refusals and their records (R5, R9) -/

theorem beatRecord_of_locker {s : State} {l : Locker} {cell : Fin 16} {a : Addr} (k : ReportKind) (code : Nat)
    (table : classify s.copies a = .ltw l cell) (below : l.val < s.copies.lockerCount) :
    beatRecord s k code a = recordOf s l k (BitVec.ofNat 16 code) (a.zeroExtend 32) := by
  simp [beatRecord, beatLocker, table, below, lockerRecord]

theorem beatRecord_of_none {s : State} {a : Addr} (k : ReportKind) (code : Nat)
    (outside : ∀ l cell, classify s.copies a = .ltw l cell → s.copies.lockerCount ≤ l.val) :
    beatRecord s k code a = recordOfNone s k (BitVec.ofNat 16 code) (a.zeroExtend 32) := by
  unfold beatRecord beatLocker
  cases table : classify s.copies a with
  | ltw l cell => simp [Nat.not_lt.mpr (outside l cell table), plainRecord]
  | ringCtl | ringArea | guard | pass => rfl

theorem refuse_cpi (c : Cause) (a : Addr) (s : State) : (refuse c a s).cpi = .idle := by
  unfold refuse; dsimp only; split <;> rfl

theorem refuse_answer (c : Cause) (a : Addr) (s : State) : (refuse c a s).answer = some .refused := by
  unfold refuse; dsimp only; split <;> rfl

/-- A refusal for any cause but NOT_READY hands over its record. -/
theorem refuse_handed {c : Cause} (ready : c ≠ .notReady) (a : Addr) (s : State) :
    HandedAll [beatRecord s .writeRefused c.code a] s (refuse c a s) := by
  simp only [refuse, if_neg ready]
  exact ⟨rfl, rfl, rfl⟩

theorem refuse_notReady (a : Addr) (s : State) :
    refuse .notReady a s = { s with cpi := .idle, answer := some .refused } := rfl

/-! ### Arrivals (R2, R5) -/

/-- A write out of validation is decided at its arrival; the answer before it no longer stands. -/
theorem arrive_of_write {s : State} {x : Txn} (mode : s.mode ≠ .validating) (write : x.write = true) :
    arrive x s = decideWrite x { s with answer := none } := by simp [arrive, decideTxn, mode, write]

theorem arrive_of_read {s : State} {x : Txn} (mode : s.mode ≠ .validating) (read : x.write = false) :
    arrive x s = decideRead x { s with answer := none } := by simp [arrive, decideTxn, mode, read]

theorem arrive_refused {s : State} {x : Txn} {c : Cause} {a : Addr} (mode : s.mode ≠ .validating)
    (write : x.write = true) (governs : governing s x = some (c, a)) :
    arrive x s = refuse c a { s with answer := none } := by
  have same : governing { s with answer := none } x = some (c, a) := governs
  rw [arrive_of_write mode write, decideWrite, same]

theorem answer_within {a : Option Answer} {s : State} : Within [.cpi] s { s with answer := a } := by constructor <;> simp

/-- What a refusal at the arrival touches, with what follows it. -/
theorem settle_refuse_within (c : Cause) (a : Addr) (s : State) :
    Within settleParts s (settle (refuse c a { s with answer := none })) :=
  (answer_within.widen.next refuse_within).next settle_within

theorem settle_refuse_cpi (c : Cause) (a : Addr) (s : State) : (settle (refuse c a s)).cpi = .idle :=
  settle_cpi_idle (refuse_cpi c a s)

theorem settle_refuse_answer (c : Cause) (a : Addr) (s : State) :
    (settle (refuse c a s)).answer = some .refused := by
  rw [settle_answer, refuse_answer]

/-- The record of a refusal stands in the queue after the event, in a ring with room. -/
theorem settle_refuse_handed {c : Cause} (ready : c ≠ .notReady) (a : Addr) {s : State} (room : s.ringFull = false) :
    HandedAll [beatRecord s .writeRefused c.code a] s (settle (refuse c a { s with answer := none })) := by
  have handed := handedAll_trans (answer_within (a := none) (s := s)).unhanded
    (refuse_handed ready a { s with answer := none })
  have full : (refuse c a { s with answer := none }).ringFull = s.ringFull :=
    (answer_within.widen.next refuse_within : Within [.cpi, .queue] s _).ringFull
  exact handedAll_settle handed (full.trans room)

/-! ### Single full writes (R6, R7) -/

theorem writeTxn_singleFull (addr : Addr) (w : Word) : (writeTxn addr [w]).singleFull = true := rfl

theorem writeTxn_beats (addr : Addr) (w : Word) : (writeTxn addr [w]).beats = [wordAddr addr] :=
  Txn.beats_of_singleFull (writeTxn_singleFull addr w)

theorem writeTxn_beatAddr (addr : Addr) (w : Word) : (writeTxn addr [w]).beatAddr 0 = wordAddr addr := by
  simp [Txn.beatAddr, writeTxn]

/-- A single full write whose word shows no cause is taken at its arrival. -/
theorem arrive_taken {s : State} {addr : Addr} {w : Word} (mode : s.mode = .operating)
    (clean : causeOf s (writeTxn addr [w]) (wordAddr addr) = none) :
    arrive (writeTxn addr [w]) s = takeWrite (writeTxn addr [w]) { s with answer := none } := by
  rw [arrive_of_write (by simp [mode]) rfl]
  refine decideWrite_of_clean (s := { s with answer := none }) mode fun a beat => ?_
  rw [writeTxn_beats, List.mem_singleton] at beat
  subst beat
  exact clean

theorem causeOf_cell {s : State} {addr : Addr} {w : Word} {l : Locker} {cell : Fin 16} (mode : s.mode = .operating)
    (at_cell : CellAt s addr l cell) (low : cell.val ≤ 2) :
    causeOf s (writeTxn addr [w]) (wordAddr addr) = none := by
  obtain ⟨table, below⟩ := at_cell
  rw [causeOf_operating mode, causeOperating, classify_wordAddr, table]
  simp [causeLtw, Nat.not_le.mpr below, low, writeTxn_singleFull]

/-- What a transaction captured and forwarded at its arrival touches, with what follows it. -/
theorem settle_forwarded_within {bs : List Part} {s u : State} (x : Txn) (e : LandEffect)
    (w : Within bs { s with answer := none } u) (sub : covers (settleParts ++ bs) bs = true := by rfl) :
    Within (settleParts ++ bs) s (settle (forward x e u)) :=
  ((answer_within.widen.next w sub).next forward_within).next settle_within

end Sys2Proof.Machine
end

section
/-! PROOFS. The controller's transactions by the mode: what UNCONFIGURED, RESTORING and OPERATING refuse, capture and
forward (R6, R7, R9, R14, R15, R20, R21, R177). -/

-- One theorem after the other: a thread for each would ask for more stack space than a build may have.
set_option Elab.async false

namespace Sys2Proof.Machine

/-! ### Outside OPERATING (R14, R15) -/

theorem arrive_read_forwarded {s : State} {x : Txn} (mode : s.mode ≠ .validating) (calm : s.mode ≠ .operating)
    (read : x.write = false) : arrive x s = forward x .none { s with answer := none } := by
  rw [arrive_of_read mode read]
  exact if_neg calm

/-- A write that shows no cause is forwarded outside OPERATING. -/
theorem arrive_write_forwarded {s : State} {x : Txn} (mode : s.mode ≠ .validating) (calm : s.mode ≠ .operating)
    (write : x.write = true) (clean : governing s x = none) :
    arrive x s = forward x .none { s with answer := none } := by
  have same : governing { s with answer := none } x = none := clean
  rw [arrive_of_write mode write, decideWrite, same]
  exact if_neg calm

theorem beat_of_len {x : Txn} (some : 1 ≤ x.len) : x.beatAddr 0 ∈ x.beats := mem_beats.mpr ⟨0, some, rfl⟩

/-- In UNCONFIGURED every beat of a write shows NOT_READY. -/
theorem governing_unconfigured {s : State} {x : Txn} (mode : s.mode = .unconfigured) (some : 1 ≤ x.len) :
    ∃ a, governing s x = .some (.notReady, a) :=
  governing_of_notReady ⟨_, beat_of_len some, by simp [causeOf, mode]⟩

theorem beatsOk_iff (n : Nat) : beatsOk n = true ↔ 1 ≤ n ∧ n ≤ 8 := by simp [beatsOk]

theorem exec_controllerWrite_idle {s : State} {addr : Addr} {lanes : BitVec 4} {data : List Word}
    (form : beatsOk data.length = true) (mode : s.mode ≠ .inReset) (idle : s.cpi = .idle) :
    exec (.controllerWrite addr lanes data) s
      = .next (settle (arrive { write := true, addr := addr, lanes := lanes, len := data.length, data := data } s)) := by
  rw [← present_idle _ mode idle]
  exact if_pos form

theorem exec_cPortRead_idle {s : State} {addr : Addr} {lanes : BitVec 4} {len : Nat} (form : beatsOk len = true)
    (mode : s.mode ≠ .inReset) (idle : s.cpi = .idle) :
    exec (.cPortRead addr lanes len) s
      = .next (settle (arrive { write := false, addr := addr, lanes := lanes, len := len, data := [] } s)) := by
  rw [← present_idle _ mode idle]
  exact if_pos form

/-- Settles O16: in UNCONFIGURED NOT_READY governs every write, and a read is forwarded; nothing follows. -/
theorem unconfiguredPassage : Obligations.UnconfiguredPassage := by
  intro s addr lanes mode idle
  have notReset : s.mode ≠ .inReset := by simp [mode]
  have notValidating : s.mode ≠ .validating := by simp [mode]
  refine ⟨fun data form => ?_, fun len form => ?_⟩
  · obtain ⟨a, governs⟩ := governing_unconfigured
      (x := { write := true, addr := addr, lanes := lanes, len := data.length, data := data }) mode
      ((beatsOk_iff _).mp form).1
    rw [exec_controllerWrite_idle form notReset idle, arrive_refused notValidating rfl governs]
    exact congrArg Host.Outcome.next (settle_of_still (s := refuse .notReady a _) (.inr (.inr mode)))
  · rw [exec_cPortRead_idle form notReset idle, arrive_read_forwarded notValidating (by simp [mode]) rfl]
    exact congrArg Host.Outcome.next (settle_of_still (s := forward _ .none _) (.inr (.inr mode)))

theorem causeOf_restoring {s : State} (mode : s.mode = .restoring) (x : Txn) (a : Addr) :
    causeOf s x a = causeRestoring s a := by simp [causeOf, mode]

/-- The cause that a beat shows in RESTORING, by its class (R15). -/
theorem causeRestoring_eq (s : State) (a : Addr) :
    causeRestoring s a = if classify s.copies a = .guard then some .guard
      else if classify s.copies a = .pass then none else some .notReady := by
  unfold causeRestoring
  cases classify s.copies a <;> simp

section
variable {s : State} {x : Txn} (mode : s.mode = .restoring)
include mode

/-- In RESTORING NOT_READY governs a write that touches the locker table window or the ring window (R15). -/
theorem governing_restoring_of_window (touches : ∃ a ∈ x.beats, classify s.copies a ≠ .guard ∧ classify s.copies a ≠ .pass) :
    ∃ a, governing s x = some (.notReady, a) := by
  obtain ⟨b, beat, notGuard, notPass⟩ := touches
  exact governing_of_notReady
    ⟨b, beat, by rw [causeOf_restoring mode, causeRestoring_eq, if_neg notGuard, if_neg notPass]⟩

/-- In RESTORING GUARD governs a write that touches a guard window alone, at the first such beat (R15). -/
theorem governing_restoring_of_guard {k : Nat} (inside : k < x.len)
    (allowed : ∀ a ∈ x.beats, classify s.copies a = .guard ∨ classify s.copies a = .pass)
    (guard : classify s.copies (x.beatAddr k) = .guard) (first : ∀ j < k, classify s.copies (x.beatAddr j) ≠ .guard) :
    governing s x = some (.guard, x.beatAddr k) := by
  have cause (a : Addr) : causeOf s x a = if classify s.copies a = .guard then some .guard
      else if classify s.copies a = .pass then none else some .notReady := by
    rw [causeOf_restoring mode, causeRestoring_eq]
  refine governing_of_first inside (by rw [cause, if_pos guard]) (fun j before => ?_)
    fun before after order d ahead j below => ?_
  · rw [cause, if_neg (first j before)]
    split <;> simp
  · rw [cause]
    have notGuard : d ≠ .guard := by
      rintro rfl
      have nodup : causeOrder.Nodup := by decide
      rw [order, List.nodup_append] at nodup
      exact nodup.2.2 _ ahead _ List.mem_cons_self rfl
    rcases allowed _ (mem_beats.mpr ⟨j, below, rfl⟩) with guard | pass
    · simp [guard, notGuard.symm]
    · simp [pass]

theorem governing_restoring_of_pass (pass : ∀ a ∈ x.beats, classify s.copies a = .pass) : governing s x = none :=
  governing_eq_none_iff.mpr fun a beat => by
    rw [causeOf_restoring mode, causeRestoring_eq, if_neg (by simp [pass a beat]), if_pos (pass a beat)]

end

/-- Settles O17: NOT_READY governs a write that touches a window of the part, GUARD one that touches a guard window
alone. -/
theorem restoringPassage : Obligations.RestoringPassage := by
  intro s addr lanes mode idle
  have notReset : s.mode ≠ .inReset := by simp [mode]
  have notValidating : s.mode ≠ .validating := by simp [mode]
  have calm : s.mode ≠ .operating := by simp [mode]
  refine ⟨fun data form => ?_, fun len form => ?_⟩
  · intro x
    have ran := exec_controllerWrite_idle (addr := addr) (lanes := lanes) form notReset idle
    refine ⟨fun touches => ?_, fun k inside allowed guard first room => ?_, fun pass => ?_⟩
    · obtain ⟨a, governs⟩ := governing_restoring_of_window (x := x) mode touches
      rw [arrive_refused notValidating rfl governs] at ran
      have kept := settle_refuse_within .notReady a s
      refine ⟨_, ran, settle_refuse_cpi .., settle_refuse_answer .., kept.outsideKept (by decide) (by decide),
        kept.clockKept (by decide) (by decide), kept.lockersKept (by decide) (by decide),
        kept.heatKept (by decide) (by decide) (by decide) (by decide), kept.marks (by decide),
        kept.ringKept (by decide) (by decide), fun room => ?_⟩
      exact queue_of_unhanded (settle_unhanded (s := refuse .notReady a { s with answer := none }) room)
    · have governs := governing_restoring_of_guard (x := x) mode inside allowed guard first
      rw [arrive_refused notValidating rfl governs] at ran
      have kept := settle_refuse_within .guard (x.beatAddr k) s
      have handed := settle_refuse_handed (c := .guard) (by decide) (x.beatAddr k) room
      rw [beatRecord_of_none _ _ fun l cell table => by simp [table] at guard] at handed
      exact ⟨_, ran, settle_refuse_cpi .., settle_refuse_answer .., kept.outsideKept (by decide) (by decide),
        kept.clockKept (by decide) (by decide), kept.lockersKept (by decide) (by decide),
        kept.heatKept (by decide) (by decide) (by decide) (by decide), kept.marks (by decide),
        kept.ringKept (by decide) (by decide), handed⟩
    · have clean : governing s x = none := governing_restoring_of_pass mode pass
      rw [arrive_write_forwarded notValidating calm rfl clean] at ran
      have kept := settle_forward_within x .none s
      exact ⟨_, ran, settle_forward_cpi .., kept.outsideKept (by decide) (by decide),
        kept.clockKept (by decide) (by decide), kept.lockersKept (by decide) (by decide),
        kept.heatKept (by decide) (by decide) (by decide) (by decide), kept.marks (by decide),
        kept.ringKept (by decide) (by decide)⟩
  · have ran := exec_cPortRead_idle (addr := addr) (lanes := lanes) form notReset idle
    rw [arrive_read_forwarded notValidating calm rfl] at ran
    have kept := settle_forward_within { write := false, addr := addr, lanes := lanes, len := len, data := [] } .none s
    exact ⟨_, ran, settle_forward_cpi .., kept.outsideKept (by decide) (by decide),
      kept.clockKept (by decide) (by decide), kept.lockersKept (by decide) (by decide),
      kept.heatKept (by decide) (by decide) (by decide) (by decide), kept.marks (by decide)⟩

/-! ### Words taken in OPERATING (R6, R7) -/

theorem present_ready {s : State} (ready : Ready s) (x : Txn) : present x s = .next (settle (arrive x s)) :=
  present_idle x (by simp [ready.1]) ready.2

theorem takeWrite_code {s : State} {addr : Addr} {w : Word} {l : Locker} (table : classify s.copies addr = .ltw l 1) :
    takeWrite (writeTxn addr [w]) s = forward (writeTxn addr [w]) .none (captureCode l w s) := by
  unfold takeWrite
  rw [writeTxn_singleFull, show classify s.copies (writeTxn addr [w]).addr = _ from table]
  rfl

theorem takeWrite_order {s : State} {addr : Addr} {w : Word} {l : Locker} (table : classify s.copies addr = .ltw l 2) :
    takeWrite (writeTxn addr [w]) s = forward (writeTxn addr [w]) .none (captureOrder l w s) := by
  unfold takeWrite
  rw [writeTxn_singleFull, show classify s.copies (writeTxn addr [w]).addr = _ from table]
  rfl

theorem takeWrite_readIndex {s : State} {addr : Addr} {w : Word} (ctl : classify s.copies addr = .ringCtl 1) :
    takeWrite (writeTxn addr [w]) s = forward (writeTxn addr [w]) .readIndex s := by
  unfold takeWrite
  rw [writeTxn_singleFull, show classify s.copies (writeTxn addr [w]).addr = _ from ctl]
  rfl

theorem takeWrite_status {s : State} {addr : Addr} {w : Word} (ctl : classify s.copies addr = .ringCtl 2) :
    takeWrite (writeTxn addr [w]) s = forward (writeTxn addr [0]) .status s := by
  unfold takeWrite
  rw [writeTxn_singleFull, show classify s.copies (writeTxn addr [w]).addr = _ from ctl]
  rfl

theorem takeWrite_attention {s : State} {addr : Addr} {w : Word} (ctl : classify s.copies addr = .ringCtl 3) :
    takeWrite (writeTxn addr [w]) s = forward (writeTxn addr [w]) .attention s := by
  unfold takeWrite
  rw [writeTxn_singleFull, show classify s.copies (writeTxn addr [w]).addr = _ from ctl]
  rfl

/-- A presented field of a context is read back, and no other context changes. -/
theorem ctx_of_presented (l k : Locker) (c : Context) (s : State) :
    ({ s with lke := s.lke.set l.val c } : State).ctx k = if k = l then c else s.ctx k := getElem_setL ..

/-- Settles O23: a CODE write shows no cause, is captured, and is forwarded as it came. -/
theorem codeWriteIsCaptured : Obligations.CodeWriteIsCaptured := by
  intro s addr data l ready cell
  have taken := arrive_taken (w := data) ready.1 (causeOf_cell ready.1 cell (by decide))
  rw [takeWrite_code (s := { s with answer := none }) cell.1] at taken
  have kept := settle_forwarded_within (writeTxn addr [data]) .none
    (captureCode_within (l := l) (w := data) (s := { s with answer := none }))
  refine ⟨_, (present_ready ready _).trans (by rw [taken]), settle_forward_cpi .., ?_, fun k c => ?_, fun k other => ?_,
    kept.ltc (by decide), kept.outsideKept (by decide) (by decide), kept.clockKept (by decide) (by decide),
    kept.heatKept (by decide) (by decide) (by decide) (by decide), kept.samplesKept (by decide) (by decide),
    kept.ringKept (by decide) (by decide)⟩
  · rw [settle_ctx]
    exact (ctx_of_presented l l _ s).trans (if_pos rfl)
  · rw [settle_marks]
    exact putMark_has l k .codeZero c false _
  · rw [settle_ctx, settle_latches]
    exact ⟨(ctx_of_presented l k _ s).trans (if_neg other), rfl⟩

/-- Settles O24: an ORDER write shows no cause, is captured, and is forwarded whole. -/
theorem orderWriteIsCaptured : Obligations.OrderWriteIsCaptured := by
  intro s addr data l ready cell
  have taken := arrive_taken (w := data) ready.1 (causeOf_cell ready.1 cell (by decide))
  rw [takeWrite_order (s := { s with answer := none }) cell.1] at taken
  have kept := settle_forwarded_within (writeTxn addr [data]) .none
    (captureOrder_within (l := l) (w := data) (s := { s with answer := none }))
  refine ⟨_, (present_ready ready _).trans (by rw [taken]), settle_forward_cpi .., ?_, kept.marks (by decide),
    fun k other => ?_, kept.ltc (by decide), kept.outsideKept (by decide) (by decide),
    kept.clockKept (by decide) (by decide), kept.heatKept (by decide) (by decide) (by decide) (by decide),
    kept.samplesKept (by decide) (by decide), kept.ringKept (by decide) (by decide)⟩
  · rw [settle_ctx]
    exact (ctx_of_presented l l _ s).trans (if_pos rfl)
  · rw [settle_ctx, settle_latches]
    exact ⟨(ctx_of_presented l k _ s).trans (if_neg other), rfl⟩

theorem causeOf_ringCtl {s : State} {addr : Addr} {w : Word} {word : Fin 4} (mode : s.mode = .operating)
    (ctl : classify s.copies addr = .ringCtl word) :
    causeOf s (writeTxn addr [w]) (wordAddr addr) = causeRingCtl s (writeTxn addr [w]) word := by
  rw [causeOf_operating mode, causeOperating, classify_wordAddr, ctl]

/-- Settles O26: STATUS and ATTENTION show no cause when written singly and in full. -/
theorem statusAndAttentionWritesAreForwarded : Obligations.StatusAndAttentionWritesAreForwarded := by
  intro s addr data ready
  refine ⟨fun ctl => ?_, fun ctl => ?_⟩
  · have taken := arrive_taken (w := data) ready.1 ((causeOf_ringCtl ready.1 ctl).trans rfl)
    rw [takeWrite_status (s := { s with answer := none }) ctl] at taken
    have kept := settle_forward_within (writeTxn addr [0]) .status s
    exact ⟨_, (present_ready ready _).trans (by rw [taken]), settle_forward_cpi ..,
      kept.ringKept (by decide) (by decide), kept.outsideKept (by decide) (by decide),
      kept.lockersKept (by decide) (by decide), kept.heatKept (by decide) (by decide) (by decide) (by decide)⟩
  · have taken := arrive_taken (w := data) ready.1 ((causeOf_ringCtl ready.1 ctl).trans rfl)
    rw [takeWrite_attention (s := { s with answer := none }) ctl] at taken
    have kept := settle_forward_within (writeTxn addr [data]) .attention s
    exact ⟨_, (present_ready ready _).trans (by rw [taken]), settle_forward_cpi ..,
      kept.ringKept (by decide) (by decide), kept.outsideKept (by decide) (by decide),
      kept.lockersKept (by decide) (by decide), kept.heatKept (by decide) (by decide) (by decide) (by decide)⟩

theorem inSpan_iff (size read write n : Nat) :
    inSpan size read write n = true ↔ n < size ∧ (n + size - read) % size ≤ (write + size - read) % size := by
  simp [inSpan]

/-- The only beat of a write governs it. -/
theorem governing_of_single {s : State} {x : Txn} {c : Cause} (one : x.len = 1)
    (shows : causeOf s x (x.beatAddr 0) = some c) : governing s x = some (c, x.beatAddr 0) := by
  refine governing_of_first (by omega) shows (fun j below => by omega) fun before after order d ahead j below => ?_
  obtain rfl : j = 0 := by omega
  rw [shows]
  rintro ⟨rfl⟩
  have nodup : causeOrder.Nodup := by decide
  rw [order, List.nodup_append] at nodup
  exact nodup.2.2 _ ahead _ List.mem_cons_self rfl

/-- Settles O25: a value in the unread span shows no cause, any other RANGE. -/
theorem readIndexWriteIsJudgedBySpan : Obligations.ReadIndexWriteIsJudgedBySpan := by
  intro s addr data ready ctl _ _ taken
  have cause : causeOf s (writeTxn addr [data]) (wordAddr addr) = if taken then none else some .range := by
    rw [causeOf_ringCtl ready.1 ctl]
    simp only [causeRingCtl, writeTxn_singleFull, Bool.not_true, Bool.false_eq_true, if_false, inSpan_iff]
    rfl
  refine ⟨fun inside => ?_, fun outside => ?_⟩
  · rw [if_pos inside] at cause
    have arrives := arrive_taken ready.1 cause
    rw [takeWrite_readIndex (s := { s with answer := none }) ctl] at arrives
    have kept := settle_forward_within (writeTxn addr [data]) .readIndex s
    exact ⟨_, (present_ready ready _).trans (by rw [arrives]), settle_forward_cpi ..,
      kept.ringKept (by decide) (by decide), kept.outsideKept (by decide) (by decide),
      kept.lockersKept (by decide) (by decide)⟩
  · rw [if_neg outside] at cause
    have governs := governing_of_single (x := writeTxn addr [data]) rfl ((writeTxn_beatAddr addr data).symm ▸ cause)
    rw [writeTxn_beatAddr] at governs
    have arrives := arrive_refused (by simp [ready.1]) rfl governs
    have kept := settle_refuse_within .range (wordAddr addr) s
    refine ⟨_, (present_ready ready _).trans (by rw [arrives]), settle_refuse_cpi .., settle_refuse_answer ..,
      kept.ringKept (by decide) (by decide), kept.outsideKept (by decide) (by decide),
      kept.lockersKept (by decide) (by decide), fun room => ?_⟩
    have handed := settle_refuse_handed (c := .range) (by decide) (wordAddr addr) room
    rw [beatRecord_of_none _ _ fun l cell table => by simp [classify_wordAddr, ctl] at table] at handed
    exact handed

end Sys2Proof.Machine
end

section
/-! PROOFS. The cause of a beat by its word address, and the refusal of a write with its report (R4 to R9). -/

-- One theorem after the other: a thread for each would ask for more stack space than a build may have.
set_option Elab.async false

namespace Sys2Proof.Machine

/-! ### Guard windows (R4) -/

theorem wordAddr_getLsbD (a : Addr) {i : Nat} (below : i < 24) :
    (wordAddr a).getLsbD i = (a.getLsbD i && decide (2 ≤ i)) := by
  have mask : ∀ j < 24, (0xFFFFFC : Addr).getLsbD j = decide (2 ≤ j) := by decide
  rw [wordAddr, BitVec.getLsbD_and, mask i below]

theorem GuardWindow.contains_iff (g : GuardWindow) (a : Addr) : g.contains a = true ↔ InGuard g a := by
  rw [GuardWindow.contains, Bool.and_eq_true, decide_eq_true_eq]
  refine and_congr_right fun _ => ⟨fun zero i high below masked => ?_, fun agree => ?_⟩
  · have bit := congrArg (BitVec.getLsbD · i) zero
    simp only [BitVec.getLsbD_and, BitVec.getLsbD_xor, wordAddr_getLsbD _ below, masked, high] at bit
    simpa using bit
  · refine BitVec.eq_of_getLsbD_eq fun i below => ?_
    simp only [BitVec.getLsbD_and, BitVec.getLsbD_xor, wordAddr_getLsbD _ below]
    by_cases covered : 2 ≤ i ∧ g.mask.getLsbD i = true
    · simp [agree i covered.1 below covered.2, covered.1]
    · have clear : (g.mask.getLsbD i && decide (2 ≤ i)) = false := by
        rw [Bool.eq_false_iff, ne_eq, Bool.and_eq_true, decide_eq_true_eq]
        exact fun ⟨masked, high⟩ => covered ⟨high, masked⟩
      rw [clear]
      simp

/-! ### The class of an address (R4) -/

section
variable {c : Copies} {a : Addr}

theorem classify_of_table (inside : c.ltBase.toNat ≤ (wordAddr a).toNat ∧ (wordAddr a).toNat < c.ltBase.toNat + 4096) :
    classify c a = .ltw (Fin.ofNat 64 (((wordAddr a).toNat - c.ltBase.toNat) / 64))
      (Fin.ofNat 16 (((wordAddr a).toNat - c.ltBase.toNat) % 64 / 4)) := if_pos inside

theorem classify_of_ring
    (outside : ¬ (c.ltBase.toNat ≤ (wordAddr a).toNat ∧ (wordAddr a).toNat < c.ltBase.toNat + 4096))
    (inside : c.rgBase.toNat ≤ (wordAddr a).toNat ∧ (wordAddr a).toNat < c.rgBase.toNat + (16 + 16 * c.ringSize)) :
    classify c a = if (wordAddr a).toNat - c.rgBase.toNat < 16
      then .ringCtl (Fin.ofNat 4 (((wordAddr a).toNat - c.rgBase.toNat) / 4)) else .ringArea :=
  (if_neg outside).trans (if_pos inside)

theorem classify_of_outside
    (outside : ¬ (c.ltBase.toNat ≤ (wordAddr a).toNat ∧ (wordAddr a).toNat < c.ltBase.toNat + 4096))
    (past : ¬ (c.rgBase.toNat ≤ (wordAddr a).toNat ∧ (wordAddr a).toNat < c.rgBase.toNat + (16 + 16 * c.ringSize))) :
    classify c a = if c.g0.contains a || c.g1.contains a then .guard else .pass :=
  (if_neg outside).trans (if_neg past)

end

theorem Txn.singleFull_iff (x : Txn) : x.singleFull = true ↔ x.len = 1 ∧ x.lanes = 0xF := by simp [Txn.singleFull]

/-! ### The cause of a beat (R6 to R8) -/

/-- In the locker table window the record and the word decide, and for the words of a command the form of the write. -/
theorem causeOf_of_table {s : State} {x : Txn} {a : Addr} (mode : s.mode = .operating)
    (inside : s.copies.ltBase.toNat ≤ (wordAddr a).toNat ∧ (wordAddr a).toNat < s.copies.ltBase.toNat + 4096) :
    let record := ((wordAddr a).toNat - s.copies.ltBase.toNat) / 64
    let cell := ((wordAddr a).toNat - s.copies.ltBase.toNat) % 64 / 4
    causeOf s x a = if s.copies.lockerCount ≤ record then some .range
      else if cell ≤ 2 then if x.singleFull then none else some .torn
      else if cell ≤ 8 then some .owner else none := by
  intro record cell
  have record_val : (Fin.ofNat 64 record).val = record := Nat.mod_eq_of_lt (by omega)
  have cell_val : (Fin.ofNat 16 cell).val = cell := Nat.mod_eq_of_lt (by omega)
  have table : classify s.copies a = .ltw (Fin.ofNat 64 record) (Fin.ofNat 16 cell) := classify_of_table inside
  rw [causeOf_operating mode, causeOperating, table]
  simp only [causeLtw, record_val, cell_val]

/-- On the control words of the ring the word decides, and for the controller's words the form and the value. -/
theorem causeRingCtl_eq (s : State) (x : Txn) (word : Fin 4) :
    causeRingCtl s x word = if word = 0 then some .owner else if x.singleFull = false then some .torn
      else if word = 1 ∧ inSpan s.copies.ringSize s.rpw.read s.rpw.write (x.data.headD 0).toNat = false then some .range
      else none := by
  match word with
  | 0 => rfl
  | 1 =>
    unfold causeRingCtl
    cases x.singleFull <;> cases inSpan s.copies.ringSize s.rpw.read s.rpw.write (x.data.headD 0).toNat <;> rfl
  | 2 | 3 => cases full : x.singleFull <;> simp [causeRingCtl, full]

theorem causeOf_of_ringCtl {s : State} {x : Txn} {a : Addr} {word : Nat} (mode : s.mode = .operating)
    (outside : ¬ (s.copies.ltBase.toNat ≤ (wordAddr a).toNat ∧ (wordAddr a).toNat < s.copies.ltBase.toNat + 4096))
    (inside : s.copies.rgBase.toNat ≤ (wordAddr a).toNat
      ∧ (wordAddr a).toNat < s.copies.rgBase.toNat + (16 + 16 * s.copies.ringSize))
    (at_word : ((wordAddr a).toNat - s.copies.rgBase.toNat) / 4 = word) (low : word < 4) :
    causeOf s x a = causeRingCtl s x ⟨word, low⟩ := by
  have ctl : classify s.copies a = .ringCtl ⟨word, low⟩ := by
    rw [classify_of_ring outside inside, if_pos (by omega), at_word]
    congr 1
    exact Fin.ext (Nat.mod_eq_of_lt low)
  rw [causeOf_operating mode, causeOperating, ctl]

theorem causeOf_of_ringArea {s : State} {x : Txn} {a : Addr} (mode : s.mode = .operating)
    (outside : ¬ (s.copies.ltBase.toNat ≤ (wordAddr a).toNat ∧ (wordAddr a).toNat < s.copies.ltBase.toNat + 4096))
    (inside : s.copies.rgBase.toNat ≤ (wordAddr a).toNat
      ∧ (wordAddr a).toNat < s.copies.rgBase.toNat + (16 + 16 * s.copies.ringSize))
    (high : 4 ≤ ((wordAddr a).toNat - s.copies.rgBase.toNat) / 4) : causeOf s x a = some .owner := by
  have area : classify s.copies a = .ringArea := by
    rw [classify_of_ring outside inside, if_neg (by omega)]
  rw [causeOf_operating mode, causeOperating, area]

theorem beatCauses : BeatCauses := by
  intro s x a mode full w lt rg r inTable inRing record cell word
  have form : x.singleFull = true ↔ full := x.singleFull_iff
  refine ⟨fun inside => ?_, fun ⟨outside, inside⟩ => ?_, fun outside past => ?_⟩
  · have cause := causeOf_of_table (x := x) mode inside
    refine ⟨fun high => cause.trans (if_pos high), fun below => ?_⟩
    have cause := cause.trans (if_neg (Nat.not_le.mpr below))
    refine ⟨fun low single => ?_, fun low torn => ?_, fun past low => ?_, fun past => ?_⟩
    · exact cause.trans ((if_pos low).trans (if_pos (form.mpr single)))
    · exact cause.trans ((if_pos low).trans (if_neg (mt form.mp torn)))
    · exact cause.trans ((if_neg (by omega)).trans (if_pos low))
    · exact cause.trans ((if_neg (by omega)).trans (if_neg (by omega)))
  · have ctl {n : Nat} (low : n < 4) (at_word : word = n) : causeOf s x a = causeRingCtl s x ⟨n, low⟩ :=
      causeOf_of_ringCtl mode outside inside at_word low
    refine ⟨fun high => ?_, fun pos low torn => ?_, fun pos low single => ?_, ?_⟩
    · rcases high with zero | high
      · exact ctl (n := 0) (by decide) zero
      · exact causeOf_of_ringArea mode outside inside high
    · have notFull : x.singleFull = false := by rw [Bool.eq_false_iff]; exact mt form.mp torn
      rw [ctl (n := word) (by omega) rfl, causeRingCtl_eq, if_neg (Fin.ne_of_val_ne (by simp; omega)), if_pos notFull]
    · have whole : ¬ x.singleFull = false := by simp [form.mpr single]
      rw [ctl (n := word) (by omega) rfl, causeRingCtl_eq, if_neg (Fin.ne_of_val_ne (by simp; omega)), if_neg whole,
        if_neg fun one => absurd (congrArg Fin.val one.1) (by simp; omega)]
    · intro d first single value taken
      have whole : ¬ x.singleFull = false := by simp [form.mpr single]
      have span : inSpan s.copies.ringSize s.rpw.read s.rpw.write (x.data.headD 0).toNat = true ↔ taken := by
        rw [inSpan_iff, value]; exact Iff.rfl
      have cause : causeOf s x a = if inSpan s.copies.ringSize s.rpw.read s.rpw.write (x.data.headD 0).toNat = false
          then some .range else none := by
        rw [ctl (n := 1) (by decide) first, causeRingCtl_eq, if_neg (by decide), if_neg whole]
        simp
      rw [cause]
      exact ⟨fun inside => if_neg (by rw [span.mpr inside]; decide),
        fun outSpan => if_pos (by rw [Bool.eq_false_iff]; exact mt span.mp outSpan)⟩
  · have kind : classify s.copies a = if s.copies.g0.contains a || s.copies.g1.contains a then .guard else .pass :=
      classify_of_outside outside fun inside => past ⟨outside, inside⟩
    have guarded : (s.copies.g0.contains a || s.copies.g1.contains a) = true
        ↔ InGuard s.copies.g0 a ∨ InGuard s.copies.g1 a := by
      rw [Bool.or_eq_true, GuardWindow.contains_iff, GuardWindow.contains_iff]
    rw [causeOf_operating mode]
    exact ⟨fun within => causeOperating_of_guard (kind.trans (if_pos (guarded.mpr within))) x,
      fun out0 out1 => causeOperating_of_pass (kind.trans (if_neg fun g => (guarded.mp g).elim out0 out1)) x⟩

/-- In OPERATING no beat shows NOT_READY. -/
theorem causeOf_ne_notReady {s : State} (mode : s.mode = .operating) (x : Txn) (a : Addr) :
    causeOf s x a ≠ some .notReady := by
  rw [causeOf_operating mode, causeOperating]
  cases classify s.copies a with
  | ltw l cell => simp only [causeLtw]; split <;> [simp; split <;> split <;> simp]
  | ringCtl word => simp only [causeRingCtl_eq]; split <;> [simp; (split <;> [simp; (split <;> simp)])]
  | ringArea | guard | pass => simp

/-- Settles O21: the beat's address and the form of the write decide its cause; the governing cause and beat make the
record. -/
theorem refusedWriteIsReported : Obligations.RefusedWriteIsReported := by
  refine ⟨beatCauses, ?_⟩
  intro s addr lanes data k c ready form room inside x shows first ahead
  have governs : governing s x = some (c, x.beatAddr k) := governing_of_first inside shows first ahead
  have arrives := arrive_refused (by simp [ready.1]) rfl governs
  have kept := settle_refuse_within c (x.beatAddr k) s
  have notReady : c ≠ .notReady := by
    rintro rfl
    exact causeOf_ne_notReady ready.1 x _ shows
  have handed := settle_refuse_handed notReady (x.beatAddr k) room
  refine ⟨_, (exec_controllerWrite ready form).trans (by rw [arrives]), settle_refuse_cpi .., settle_refuse_answer ..,
    kept.outsideKept (by decide) (by decide), kept.clockKept (by decide) (by decide),
    kept.lockersKept (by decide) (by decide), kept.heatKept (by decide) (by decide) (by decide) (by decide),
    kept.samplesKept (by decide) (by decide), kept.marks (by decide), kept.ringKept (by decide) (by decide),
    fun l table below => ?_, fun outside => ?_⟩
  · obtain ⟨cell, table⟩ := table
    rw [beatRecord_of_locker _ _ table below] at handed
    exact handed
  · rw [beatRecord_of_none _ _ outside] at handed
    exact handed

end Sys2Proof.Machine
end

section
/-! PROOFS. A read at its arrival in OPERATING: held for MIRROR behind marked records, for RING behind a ring operation in
flight, otherwise forwarded; and MRW's request for the records that it names (R10, R11, R26, R28). -/

-- One theorem after the other: a thread for each would ask for more stack space than a build may have.
set_option Elab.async false

namespace Sys2Proof.Machine

/-! ### What a transaction touches (R10, R11) -/

theorem Txn.touchesRecord_iff {c : Copies} {x : Txn} {l : Locker} :
    x.touchesRecord c l = true ↔ ∃ a ∈ x.beats, ∃ cell, classify c a = .ltw l cell := by
  rw [Txn.touchesRecord, List.any_eq_true]
  refine exists_congr fun a => and_congr_right fun _ => ?_
  cases classify c a <;> simp

theorem Txn.touchesRing_iff {c : Copies} {x : Txn} :
    x.touchesRing c = true ↔ ∃ a ∈ x.beats, (∃ w, classify c a = .ringCtl w) ∨ classify c a = .ringArea := by
  rw [Txn.touchesRing, List.any_eq_true]
  refine exists_congr fun a => and_congr_right fun _ => ?_
  cases classify c a <;> simp

/-- The records that a read names are those it touches below the locker count that bear a mark (R10, R28). -/
theorem mem_namedRecords {s : State} {x : Txn} {l : Locker} : l ∈ namedRecords s x ↔
    l.val < s.copies.lockerCount ∧ (s.marks l).any = true ∧ ∃ a ∈ x.beats, ∃ cell, classify s.copies a = .ltw l cell := by
  rw [namedRecords, List.mem_filter, State.lockers, mem_lockersBelow, Bool.and_eq_true, Txn.touchesRecord_iff]
  exact and_congr_right fun _ => and_comm

theorem namedRecords_pairwise (s : State) (x : Txn) : (namedRecords s x).Pairwise fun k l => k.val < l.val := by
  have sorted : (List.finRange 64).Pairwise fun k l => k.val < l.val := List.pairwise_lt_finRange 64
  unfold namedRecords State.lockers lockersBelow
  exact (sorted.filter _).filter _

theorem namedRecords_eq_nil_iff {s : State} {x : Txn} : namedRecords s x = [] ↔ ¬ ∃ l, l ∈ namedRecords s x := by
  rw [not_exists, List.eq_nil_iff_forall_not_mem]

/-! ### The decision (R10, R11) -/

/-- The read waits behind a ring operation in flight that it touches (R11). -/
def ringHeld (s : State) (x : Txn) : Bool := x.touchesRing s.copies && s.rpw.op.inFlight

theorem ringHeld_iff {s : State} {x : Txn} : ringHeld s x = true ↔ s.rpw.op.inFlight = true
    ∧ ∃ a ∈ x.beats, (∃ w, classify s.copies a = .ringCtl w) ∨ classify s.copies a = .ringArea := by
  rw [ringHeld, Bool.and_eq_true, Txn.touchesRing_iff, and_comm]

theorem decideRead_within {x : Txn} {s : State} : Within [.cpi, .turns] s (decideRead x s) := by
  have hold {c} : Within [.cpi, .turns] s { s with cpi := c } := by constructor <;> simp
  unfold decideRead
  dsimp only
  exact .ite (.ite forward_within.widen (hold.next promote_within)) forward_within.widen

theorem decideRead_forwarded {x : Txn} {s : State} (named : namedRecords s x = []) (ring : ringHeld s x = false) :
    decideRead x s = forward x .none s := by
  have still : (x.touchesRing s.copies && s.rpw.op.inFlight) = false := ring
  simp [decideRead, named, still]

theorem decideRead_held {x : Txn} {s : State} (mode : s.mode = .operating)
    (held : namedRecords s x ≠ [] ∨ ringHeld s x = true) : decideRead x s
      = promote (namedRecords s x) { s with cpi := .held x false (!(namedRecords s x).isEmpty) (ringHeld s x) } := by
  have kept : ¬ ((namedRecords s x).isEmpty && !ringHeld s x) = true := by
    rcases held with named | ring
    · simp [named]
    · simp [ring]
  rw [decideRead, if_pos mode]
  exact if_neg kept

@[simp] theorem promote_cpi (named : List Locker) (s : State) : (promote named s).cpi = s.cpi := by cases named <;> rfl
@[simp] theorem promote_rpw (named : List Locker) (s : State) : (promote named s).rpw = s.rpw := by cases named <;> rfl
@[simp] theorem promote_mode (named : List Locker) (s : State) : (promote named s).mode = s.mode := by cases named <;> rfl

theorem promote_mrw_of_ne_nil {named : List Locker} (s : State) (h : named ≠ []) : (promote named s).mrw
    = { s.mrw with promo := named, promoLast := none, req := s.mrw.req.filter fun r => named.head? = some r.1 } := by
  cases named with
  | nil => exact absurd rfl h
  | cons l rest => simp [promote, eq_comm]

/-- A hold that still has its reason is not released by the event that begins it. -/
theorem settle_cpi_of_held {s : State} {x : Txn} {mirror ring : Bool} (cpi : s.cpi = .held x false mirror ring)
    (mirrored : mirror = true → s.mrw.promo ≠ []) (flying : ring = true → s.rpw.op.inFlight = true)
    (held : mirror = true ∨ ring = true) : (settle s).cpi = .held x false mirror ring := by
  have stays : (releaseHolds s).cpi = .held x false mirror ring := by
    have m : (mirror && !s.mrw.promo.isEmpty) = mirror := by
      cases mirror <;> simp_all
    have r : (ring && s.rpw.op.inFlight) = ring := by
      cases ring <;> simp_all
    simp only [releaseHolds, cpi, m, r]
    rw [if_pos (by simpa using held)]
  rw [(settle_cpi_eq s).1]
  split <;> assumption

/-! ### MRW's request under a promotion list (R28) -/

/-- MRW's request after its step: one that stands and still has its mark, or, with none standing and none in flight, the
next. -/
theorem mrwSettle_req (s : State) : (mrwSettle s).mrw.req
    = if (s.mrw.req.filter fun r => (s.marks r.1).has r.2).isNone && !s.mirrorFlying then (mrwNext (mrwWithdraw s)).mrw.req
      else s.mrw.req.filter fun r => (s.marks r.1).has r.2 := by
  have flying : (mrwWithdraw s).mirrorFlying = s.mirrorFlying := rfl
  unfold mrwSettle
  dsimp only
  rw [flying]
  split
  next h => exact (if_pos h).symm
  next h => exact (if_neg h).symm

section
variable {s : State} {l : Locker} (head : s.mrw.promo.head? = some l)
include head

/-- A request under a promotion list is one for its head, if the standing one was. -/
theorem mrwSettle_req_head (standing : ∀ k c, s.mrw.req = some (k, c) → k = l) {k : Locker} {c : MarkCell}
    (req : (mrwSettle s).mrw.req = some (k, c)) : k = l := by
  rw [mrwSettle_req] at req
  split at req
  · rw [mrwNext_of_promoted (s := mrwWithdraw s) head] at req
    obtain ⟨d, -, same⟩ := Option.map_eq_some_iff.mp req
    exact (congrArg Prod.fst same).symm
  · exact standing k c (Option.filter_eq_some_iff.mp req).1

omit head in
theorem mrwSettle_req_of_standing {c : MarkCell} (req : s.mrw.req = some (l, c)) (marked : (s.marks l).has c = true) :
    (mrwSettle s).mrw.req = some (l, c) := by
  rw [mrwSettle_req, req]
  simp [marked]

theorem mrwSettle_req_of_none (req : s.mrw.req = none) (flying : s.mirrorFlying = false)
    (first : s.mrw.promoLast = none) {c : MarkCell} (marked : FirstMarked (s.marks l) (cellsAfter none) c) :
    (mrwSettle s).mrw.req = some (l, c) := by
  have last : (mrwWithdraw s).mrw.promoLast = none := first
  have next : ((mrwWithdraw s).marks l).next none = some c := Marks.next_of_firstMarked marked
  rw [mrwSettle_req, req, flying]
  simp [mrwNext_of_promoted (s := mrwWithdraw s) head, last, next]

end

/-- What follows an arrival reaches MRW by its own step, on the marks and the port as they stand. -/
theorem settle_mrw_operating {s : State} (mode : s.mode = .operating) :
    ∃ u, u.mrw = s.mrw ∧ u.mpi = s.mpi ∧ (settle s).mrw = (mrwSettle u).mrw := by
  obtain ⟨u, kept, after⟩ := settle_mrw (.inr mode)
  exact ⟨u, kept.mrw_eq (by decide) (by decide), kept.mpi (by decide), after⟩

theorem mirrorFlying_of_mpi {s t : State} (h : t.mpi = s.mpi) : t.mirrorFlying = s.mirrorFlying := by
  simp [State.mirrorFlying, h]

/-- Settles O27: the two holds are decided apart; for MIRROR the records named become the promotion list, and MRW's request
is for its head. -/
theorem readIsHeldBehindMarksAndRing : Obligations.ReadIsHeldBehindMarksAndRing := by
  intro s addr lanes len ready form x touched named ring
  have notValidating : s.mode ≠ .validating := by simp [ready.1]
  have arrives : arrive x s = decideRead x { s with answer := none } := arrive_of_read notValidating rfl
  let s' : State := { s with answer := none }
  let u : State := decideRead x s'
  have names : namedRecords s' x ≠ [] ↔ named := by
    rw [ne_eq, namedRecords_eq_nil_iff, not_not]
    exact exists_congr fun l => mem_namedRecords
  have rings : ringHeld s' x = true ↔ ring := ringHeld_iff
  have within : Within [.cpi, .turns] s u := answer_within.widen.next decideRead_within
  have kept : Within settleParts s (settle u) := within.widen.next settle_within
  have mode : u.mode = .operating := (within.ops (by decide)).1.trans ready.1
  have held (h : named ∨ ring) : (settle u).cpi
      = .held x false (!(namedRecords s' x).isEmpty) (ringHeld s' x) := by
    have either : namedRecords s' x ≠ [] ∨ ringHeld s' x = true := h.imp names.mpr rings.mpr
    have decided : u = promote (namedRecords s' x)
        { s' with cpi := .held x false (!(namedRecords s' x).isEmpty) (ringHeld s' x) } :=
      decideRead_held ready.1 either
    rw [decided]
    refine settle_cpi_of_held (promote_cpi ..) (fun mirror => ?_) (fun flies => ?_) (by simpa using either)
    · have some : namedRecords s' x ≠ [] := by simpa using mirror
      rw [promote_mrw_of_ne_nil _ some]
      exact some
    · rw [promote_rpw]
      exact (Bool.and_eq_true_iff.mp flies).2
  refine ⟨settle u, (exec_cPortRead_idle form (by simp [ready.1]) ready.2).trans (by rw [arrives]), fun h => ?_,
    fun h => ?_, fun h => ?_, fun h => ?_, fun h => ?_, fun h => ?_, ?_⟩
  · have none : namedRecords s' x = [] := by simpa using mt names.mp h.1
    have still : ringHeld s' x = false := by simpa using mt rings.mp h.2
    have forwarded : u = forward x .none s' := decideRead_forwarded none still
    rw [forwarded]
    exact settle_forward_cpi ..
  · have still : ringHeld s' x = false := by simpa using mt rings.mp h.2
    rw [held (.inl h.1), still]
    simp [names.mpr h.1]
  · have none : namedRecords s' x = [] := by simpa using mt names.mp h.1
    rw [held (.inr h.2), none, rings.mpr h.2]
    rfl
  · rw [held (.inl h.1), rings.mpr h.2]
    simp [names.mpr h.1]
  · have some := names.mpr h
    have decided : u = promote (namedRecords s' x)
        { s' with cpi := .held x false (!(namedRecords s' x).isEmpty) (ringHeld s' x) } :=
      decideRead_held ready.1 (.inl some)
    have mrw : u.mrw = { s.mrw with
        promo := namedRecords s' x, promoLast := none,
        req := s.mrw.req.filter fun r => (namedRecords s' x).head? = .some r.1 } := by
      rw [decided, promote_mrw_of_ne_nil _ some]
    obtain ⟨promo, promoLast⟩ := settle_promo u
    obtain ⟨v, same, port, after⟩ := settle_mrw_operating mode
    have head : v.mrw.promo = namedRecords s' x := by rw [same, mrw]
    rw [mrw] at promo promoLast
    rw [promo, promoLast, after]
    refine ⟨fun l => mem_namedRecords, namedRecords_pairwise s' x, rfl, fun l c req => ?_, fun l c first => ⟨?_, ?_⟩⟩
    · obtain ⟨k, first⟩ : ∃ k, (namedRecords s' x).head? = .some k := by
        cases list : namedRecords s' x with
        | nil => exact absurd list some
        | cons k rest => exact ⟨k, rfl⟩
      have own := mrwSettle_req_head (head.symm ▸ first) (fun j d standing => ?_) req
      · rw [own, first]
      · rw [same, mrw] at standing
        have := (Option.filter_eq_some_iff.mp standing).2
        simpa [first, eq_comm] using this
    · intro standing marked
      refine mrwSettle_req_of_standing ?_ ?_
      · rw [same, mrw]; simp [standing, first]
      · rw [State.marks, same, mrw]; exact marked
    · intro flying other marked
      refine mrwSettle_req_of_none (head.symm ▸ first) ?_ ?_ (by rw [same, mrw]) ?_
      · rw [same, mrw]
        refine Option.filter_eq_none_iff.mpr fun r standing => ?_
        rw [first]
        simp only [Option.some.injEq, decide_eq_true_eq]
        rintro rfl
        exact other r.2 standing
      · rw [mirrorFlying_of_mpi port, mirrorFlying_of_mpi (within.mpi (by decide)), flying]
      · rw [State.marks, same, mrw]; exact marked
  · have none : namedRecords s' x = [] := by simpa using mt names.mp h
    have turns : u.mrw = s.mrw := by
      show (decideRead x s').mrw = s.mrw
      simp only [decideRead, none]
      split
      · split <;> rfl
      · rfl
    obtain ⟨promo, promoLast⟩ := settle_promo u
    rw [promo, promoLast, turns]
    exact ⟨rfl, rfl⟩
  · have answer : u.answer = none := by
      show (decideRead x s').answer = none
      unfold decideRead promote
      dsimp only
      split
      · split
        · rfl
        · split <;> rfl
      · rfl
    exact ⟨(settle_answer u).trans answer, kept.outsideKept (by decide) (by decide), kept.clockKept (by decide) (by decide),
      kept.lockersKept (by decide) (by decide), kept.heatKept (by decide) (by decide) (by decide) (by decide),
      kept.samplesKept (by decide) (by decide), kept.marks (by decide), kept.ringKept (by decide) (by decide)⟩

end Sys2Proof.Machine
end

section
/-! PROOFS. The forwarded transaction at its landing or completion: the memory, CPI, what RPW takes of a ring word, and
the PARITY record of a faulty read (R2, R7, R12, R176, R178). -/

-- One theorem after the other: a thread for each would ask for more stack space than a build may have.
set_option Elab.async false

namespace Sys2Proof.Machine

/-! ### The M-port freed (R2, R17) -/

theorem freePort_within {m : MTxn} {s : State} : Within [.mpi, .mem] s (freePort m s) := by
  constructor <;> simp [freePort]

theorem readBack_within {p : List PortWrite} {s : State} :
    Within [.mpi, .mem] s { s with mpi := { s.mpi with port := none }, mem := s.mem.port2 p } := by constructor <;> simp

/-- What a landed single full write leaves in memory (R1, R2). -/
theorem complete_of_word {m : Memory} {x : Txn} {w : Word} (write : x.write = true) (data : x.data = [w])
    (lanes : x.lanes = 0xF) : m.complete x = m.writeWord (wordAddr x.addr) 0xF w := by
  simp [Memory.complete, write, data, lanes, Memory.writeBeats]

/-! ### RPW without records to write (R175) -/

/-- With no record in the queue RPW at most starts a STATUS write. -/
theorem rpwSettle_of_empty {s : State} (empty : s.rpw.queue = []) : ∃ o, (rpwSettle s).rpw = { s.rpw with op := o } := by
  unfold rpwSettle rpwStart
  simp only [List.isEmpty_iff.mpr empty, if_true]
  split
  · split
    · exact ⟨_, rfl⟩
    · exact ⟨s.rpw.op, rfl⟩
  · exact ⟨s.rpw.op, rfl⟩

theorem settle_rpw_of_empty {s : State} (empty : s.rpw.queue = []) : ∃ o, (settle s).rpw = { s.rpw with op := o } := by
  by_cases runs : s.mode = .restoring ∨ s.mode = .operating
  · obtain ⟨u, kept, same⟩ := settle_eq_rpwSettle runs
    have rpw : u.rpw = s.rpw := kept.rpw_eq
    rw [same, ← rpw]
    exact rpwSettle_of_empty (by rw [rpw, empty])
  · have still : settle s = s := settle_of_still (by cases mode : s.mode <;> simp_all)
    exact ⟨s.rpw.op, by rw [still]⟩

/-! ### The landing of a forwarded write (R2, R7) -/

theorem takeLanded_within {land : LandEffect} {w : Word} {s : State} : Within [.queue, .ring] s (takeLanded land w s) := by
  cases land <;> constructor <;> simp [takeLanded]

theorem fwdLanded_within {m : MTxn} {land : LandEffect} {s : State} :
    Within [.mpi, .mem, .cpi, .queue, .ring] s (fwdLanded m land s) :=
  (freePort_within.widen.next cpi_within).next takeLanded_within

theorem fwdLanded_cpi (m : MTxn) (land : LandEffect) (s : State) :
    (fwdLanded m land s).cpi = .idle ∧ (fwdLanded m land s).answer = some (.done []) := by
  cases land <;> exact ⟨rfl, rfl⟩

theorem fwdLanded_mem (m : MTxn) (land : LandEffect) (s : State) : (fwdLanded m land s).mem = s.mem.complete m.txn := by
  cases land <;> rfl

theorem fwdLanded_port (m : MTxn) (land : LandEffect) (s : State) : (fwdLanded m land s).mpi.port = none := by
  cases land <;> rfl

theorem exec_fwdWriteLand {s : State} {m : MTxn} {x : Txn} {land : LandEffect} (port : s.mpi.port = some m)
    (tag : m.tag = .fwd) (write : m.txn.write = true) (cpi : s.cpi = .carrying x land) :
    exec .fwdWriteLand s = .next (settle (fwdLanded m land s)) := by
  simp [exec, execFwdWriteLand, port, cpi, tag, write, done]

/-- Settles O39: the landing frees CPI and the M-port, and memory takes the words. -/
theorem forwardedWriteLands : Obligations.ForwardedWriteLands := by
  intro s m x land port tag write cpi
  have kept : Within (settleParts ++ [.mpi, .mem, .ring]) s (settle (fwdLanded m land s)) :=
    fwdLanded_within.widen.next settle_within
  have mem : (settle (fwdLanded m land s)).mem = s.mem.complete m.txn := by rw [settle_mem, fwdLanded_mem]
  refine ⟨_, exec_fwdWriteLand port tag write cpi, ?_, ?_, ?_, mem, kept.lockersKept (by decide) (by decide),
    kept.heatKept (by decide) (by decide) (by decide) (by decide), kept.marks (by decide),
    kept.clockKept (by decide) (by decide), fun canonical w data lanes => ?_⟩
  · rw [settle_answer, (fwdLanded_cpi m land s).2]
  · exact settle_cpi_idle (fwdLanded_cpi m land s).1
  · rw [settle_mpi, fwdLanded_port]
  · rw [mem, complete_of_word write data lanes]
    refine ⟨Memory.readWord_writeWord _ _ canonical, fun a outside => ?_⟩
    exact Memory.readByte_writeWord_outside _ _ _ canonical outside

/-- Settles O40: RPW takes the word by what the write was captured as, and with its queue empty nothing follows but a
STATUS operation. -/
theorem landedRingWordsAreTaken : Obligations.LandedRingWordsAreTaken := by
  intro s m x w land port tag write data cpi queue
  have empty : (fwdLanded m land s).rpw.queue = [] := by cases land <;> exact queue
  obtain ⟨o, rpw⟩ := settle_rpw_of_empty empty
  refine ⟨_, exec_fwdWriteLand port tag write cpi, ?_⟩
  dsimp only
  rw [rpw]
  refine ⟨?_, ?_, ?_, ?_, ?_, ?_⟩
  · rintro rfl
    simp [fwdLanded, takeLanded, freePort, data]
  · rintro rfl
    exact ⟨rfl, rfl, rfl, rfl⟩
  · rintro rfl
    simp [fwdLanded, takeLanded, freePort, data, maskOf]
  all_goals cases land <;> rfl

/-! ### The completion of a forwarded read (R2, R12) -/

theorem firstFault_of_clean {x : Txn} {faults : BitVec 8} (clean : ∀ k < x.len, faults.getLsbD k = false) :
    firstFault x faults = none := by
  simpa [firstFault] using clean

theorem firstFault_of_first {x : Txn} {faults : BitVec 8} {k : Nat} (inside : k < x.len) (faulty : faults.getLsbD k = true)
    (first : ∀ j < k, faults.getLsbD j = false) : firstFault x faults = some (x.beatAddr k) := by
  have found : (List.range x.len).find? (fun j => faults.getLsbD j) = some k :=
    List.find?_range_eq_some.mpr ⟨faulty, List.mem_range.mpr inside, fun j before => by simp [first j before]⟩
  simp [firstFault, found]

theorem exec_fwdReadComplete {s : State} {m : MTxn} {x : Txn} {land : LandEffect} (p : List PortWrite)
    (faults : BitVec 8) (port : s.mpi.port = some m) (tag : m.tag = .fwd) (read : m.txn.write = false)
    (cpi : s.cpi = .carrying x land) :
    exec (.fwdReadComplete p faults) s = .next (settle (fwdCompleted p faults m s)) := by
  simp [exec, execFwdReadComplete, port, cpi, tag, read, done]

/-- The state that a completed read leaves, but for its record. -/
def readAnswered (p : List PortWrite) (a : Answer) (s : State) : State :=
  { s with mpi := { s.mpi with port := none }, mem := s.mem.port2 p, cpi := .idle, answer := some a }

theorem readAnswered_within {p : List PortWrite} {a : Answer} {s : State} :
    Within [.mpi, .mem, .cpi] s (readAnswered p a s) := by constructor <;> simp [readAnswered]

theorem fwdCompleted_of_clean {p : List PortWrite} {faults : BitVec 8} {m : MTxn} {s : State}
    (clean : firstFault m.txn faults = none) :
    fwdCompleted p faults m s = readAnswered p (.done ((s.mem.port2 p).readBeats m.txn)) s := by
  simp only [fwdCompleted, clean]
  rfl

theorem fwdCompleted_of_unconfigured {p : List PortWrite} {faults : BitVec 8} {m : MTxn} {s : State} {a : Addr}
    (faulty : firstFault m.txn faults = some a) (mode : s.mode = .unconfigured) :
    fwdCompleted p faults m s = readAnswered p .refused s := by
  simp only [fwdCompleted, faulty]
  exact if_pos mode

theorem fwdCompleted_of_faulty {p : List PortWrite} {faults : BitVec 8} {m : MTxn} {s : State} {a : Addr}
    (faulty : firstFault m.txn faults = some a) (mode : s.mode ≠ .unconfigured) :
    fwdCompleted p faults m s = handRecord (beatRecord s .parity 6 a) (readAnswered p .refused s) := by
  simp only [fwdCompleted, faulty]
  exact if_neg mode

/-- Settles O41: by whether a beat is faulty, and for a faulty one by the mode. -/
theorem forwardedReadCompletes : Obligations.ForwardedReadCompletes := by
  intro s m x land p faults mode port tag read cpi
  have ran := exec_fwdReadComplete p faults port tag read cpi
  refine ⟨fun clean => ?_, fun k inside faulty first room => ?_⟩
  · rw [fwdCompleted_of_clean (firstFault_of_clean clean)] at ran
    have kept : Within (settleParts ++ [.mpi, .mem]) s (settle (readAnswered p (.done ((s.mem.port2 p).readBeats m.txn)) s)) :=
      readAnswered_within.widen.next settle_within
    exact ⟨_, ran, settle_answer _, settle_cpi_idle rfl, by rw [settle_mpi]; rfl,
      kept.lockersKept (by decide) (by decide), kept.heatKept (by decide) (by decide) (by decide) (by decide),
      kept.marks (by decide), kept.ringKept (by decide) (by decide)⟩
  · have first := firstFault_of_first inside faulty first
    by_cases unconfigured : s.mode = .unconfigured
    · rw [fwdCompleted_of_unconfigured first unconfigured, settle_of_still (s := readAnswered p .refused s) (.inr (.inr unconfigured))] at ran
      have kept : Within [.mpi, .mem, .cpi] s (readAnswered p .refused s) := readAnswered_within
      exact ⟨_, ran, rfl, rfl, rfl, kept.lockersKept (by decide) (by decide),
        kept.heatKept (by decide) (by decide) (by decide) (by decide), kept.marks (by decide),
        kept.ringKept (by decide) (by decide), rfl, fun _ => rfl, fun other => absurd unconfigured other⟩
    · rw [fwdCompleted_of_faulty first unconfigured] at ran
      have answered : Within [.mpi, .mem, .cpi] s (readAnswered p .refused s) := readAnswered_within
      have recorded : Within [.mpi, .mem, .cpi, .queue] s
          (handRecord (beatRecord s .parity 6 (m.txn.beatAddr k)) (readAnswered p .refused s)) :=
        answered.widen.next handRecord_within
      have handed : HandedAll [beatRecord s .parity 6 (m.txn.beatAddr k)] s
          (settle (handRecord (beatRecord s .parity 6 (m.txn.beatAddr k)) (readAnswered p .refused s))) :=
        handedAll_settle (handedAll_trans answered.unhanded (handRecord_handed _ _)) (recorded.ringFull.trans room)
      have kept : Within (settleParts ++ [.mpi, .mem]) s
          (settle (handRecord (beatRecord s .parity 6 (m.txn.beatAddr k)) (readAnswered p .refused s))) :=
        recorded.widen.next settle_within
      refine ⟨_, ran, settle_answer _, settle_cpi_idle rfl, by rw [settle_mpi]; rfl,
        kept.lockersKept (by decide) (by decide), kept.heatKept (by decide) (by decide) (by decide) (by decide),
        kept.marks (by decide), kept.ringKept (by decide) (by decide), settle_mem _,
        fun mode => absurd mode unconfigured, fun _ => ⟨fun l cell table below => ?_, fun outside => ?_⟩⟩
      · exact (congrArg (HandedAll [·] s _) (beatRecord_of_locker .parity 6 table below)).mp handed
      · exact (congrArg (HandedAll [·] s _) (beatRecord_of_none .parity 6 outside)).mp handed

end Sys2Proof.Machine
end

section
/-! PROOFS. What each operation on the state leaves of the parts it does not touch, read part by part. -/

-- One theorem after the other: a thread for each would ask for more stack space than a build may have.
set_option Elab.async false

namespace Sys2Proof.Machine

section
variable {bs : List Part} {s t : State} (w : Within bs s t)
include w

theorem Within.mode (ops : Part.ops ∉ bs := by decide) : t.mode = s.mode := (w.ops ops).1

theorem Within.copies (ops : Part.ops ∉ bs := by decide) : t.copies = s.copies := (w.ops ops).2.2.2.1

theorem Within.ctx (l : Locker) (lke : Part.lke ∉ bs := by decide) : t.ctx l = s.ctx l := ctx_of_lke (w.lke lke) l

theorem Within.latches (l : Locker) (ltc : Part.ltc ∉ bs := by decide) : t.latches l = s.latches l :=
  latches_of_ltc (w.ltc ltc) l

theorem Within.latch (l : Locker) (h : Hatch) (ltc : Part.ltc ∉ bs := by decide) : t.latch l h = s.latch l h :=
  latch_of_ltc (w.ltc ltc) l h

theorem Within.bothLatched (l : Locker) (ltc : Part.ltc ∉ bs := by decide) : t.bothLatched l = s.bothLatched l :=
  bothLatched_of_ltc (w.ltc ltc) l

theorem Within.pathsAt (l : Locker) (paths : Part.paths ∉ bs := by decide) : t.paths l = s.paths l :=
  paths_of_ahu (w.paths paths) l

theorem Within.marksAt (l : Locker) (marks : Part.marks ∉ bs := by decide) : t.marks l = s.marks l :=
  marks_of_mrw (w.marks marks) l

theorem Within.sampler (l : Locker) (recs : Part.recs ∉ bs := by decide) : t.sampler l = s.sampler l :=
  sampler_of_smp (w.recs recs) l

theorem Within.chan (i : Chan) (chans : Part.chans ∉ bs := by decide) : t.chan i = s.chan i :=
  chan_of_hsc (w.chans chans).1 i

theorem Within.attachedChan (l : Locker) (chans : Part.chans ∉ bs := by decide) :
    t.attachedChan l = s.attachedChan l := attachedChan_of_hsc (w.chans chans).1 l

theorem Within.fastPoll (fast : Part.fast ∉ bs := by decide) : t.smp.fastPoll = s.smp.fastPoll := (w.fast fast).1

theorem Within.fastPollAt (l : Locker) (fast : Part.fast ∉ bs := by decide) :
    t.smp.fastPoll[l.val] = s.smp.fastPoll[l.val] := by rw [w.fastPoll fast]

end

section
variable (l : Locker) (c : MarkCell) (b : Bool) (s : State)

@[simp] theorem putMark_ctx (k : Locker) : (putMark l c b s).ctx k = s.ctx k := putMark_within.ctx k
@[simp] theorem putMark_latches (k : Locker) : (putMark l c b s).latches k = s.latches k := putMark_within.latches k
@[simp] theorem putMark_latch (k : Locker) (g : Hatch) : (putMark l c b s).latch k g = s.latch k g :=
  putMark_within.latch k g
@[simp] theorem putMark_paths (k : Locker) : (putMark l c b s).paths k = s.paths k := putMark_within.pathsAt k
@[simp] theorem putMark_sampler (k : Locker) : (putMark l c b s).sampler k = s.sampler k := putMark_within.sampler k
@[simp] theorem putMark_chan (j : Chan) : (putMark l c b s).chan j = s.chan j := putMark_within.chan j
@[simp] theorem putMark_attachedChan (k : Locker) : (putMark l c b s).attachedChan k = s.attachedChan k :=
  putMark_within.attachedChan k

end

section
variable (r : Record) (s : State)

@[simp] theorem handRecord_ctx (k : Locker) : (handRecord r s).ctx k = s.ctx k := handRecord_within.ctx k
@[simp] theorem handRecord_latches (k : Locker) : (handRecord r s).latches k = s.latches k :=
  handRecord_within.latches k
@[simp] theorem handRecord_latch (k : Locker) (g : Hatch) : (handRecord r s).latch k g = s.latch k g :=
  handRecord_within.latch k g
@[simp] theorem handRecord_paths (k : Locker) : (handRecord r s).paths k = s.paths k := handRecord_within.pathsAt k
@[simp] theorem handRecord_sampler (k : Locker) : (handRecord r s).sampler k = s.sampler k :=
  handRecord_within.sampler k
@[simp] theorem handRecord_chan (j : Chan) : (handRecord r s).chan j = s.chan j := handRecord_within.chan j
@[simp] theorem handRecord_attachedChan (k : Locker) : (handRecord r s).attachedChan k = s.attachedChan k :=
  handRecord_within.attachedChan k

end

section
variable (l : Locker) (c : Context) (s : State)

@[simp] theorem putCtx_copies : (putCtx l c s).copies = s.copies := putCtx_within.copies
@[simp] theorem putCtx_mode : (putCtx l c s).mode = s.mode := putCtx_within.mode
@[simp] theorem putCtx_tmb : (putCtx l c s).tmb = s.tmb := putCtx_within.tmb (by decide)
@[simp] theorem putCtx_latches (k : Locker) : (putCtx l c s).latches k = s.latches k := putCtx_within.latches k
@[simp] theorem putCtx_latch (k : Locker) (g : Hatch) : (putCtx l c s).latch k g = s.latch k g :=
  putCtx_within.latch k g
@[simp] theorem putCtx_paths (k : Locker) : (putCtx l c s).paths k = s.paths k := putCtx_within.pathsAt k
@[simp] theorem putCtx_sampler (k : Locker) : (putCtx l c s).sampler k = s.sampler k := putCtx_within.sampler k
@[simp] theorem putCtx_attachedChan (k : Locker) : (putCtx l c s).attachedChan k = s.attachedChan k :=
  putCtx_within.attachedChan k

end

section
variable (l : Locker) (h : Hatch) (r : LatchRec) (s : State)

@[simp] theorem putLatch_copies : (putLatch l h r s).copies = s.copies := putLatch_within.copies
@[simp] theorem putLatch_mode : (putLatch l h r s).mode = s.mode := putLatch_within.mode
@[simp] theorem putLatch_tmb : (putLatch l h r s).tmb = s.tmb := putLatch_within.tmb (by decide)
@[simp] theorem putLatch_ctx (k : Locker) : (putLatch l h r s).ctx k = s.ctx k := putLatch_within.ctx k
@[simp] theorem putLatch_paths (k : Locker) : (putLatch l h r s).paths k = s.paths k := putLatch_within.pathsAt k
@[simp] theorem putLatch_sampler (k : Locker) : (putLatch l h r s).sampler k = s.sampler k := putLatch_within.sampler k
@[simp] theorem putLatch_attachedChan (k : Locker) : (putLatch l h r s).attachedChan k = s.attachedChan k :=
  putLatch_within.attachedChan k

end

section
variable (l : Locker) (p : PathPair) (s : State)

@[simp] theorem putPaths_copies : (putPaths l p s).copies = s.copies := putPaths_within.copies
@[simp] theorem putPaths_mode : (putPaths l p s).mode = s.mode := putPaths_within.mode
@[simp] theorem putPaths_tmb : (putPaths l p s).tmb = s.tmb := putPaths_within.tmb (by decide)
@[simp] theorem putPaths_ctx (k : Locker) : (putPaths l p s).ctx k = s.ctx k := putPaths_within.ctx k
@[simp] theorem putPaths_latches (k : Locker) : (putPaths l p s).latches k = s.latches k := putPaths_within.latches k
@[simp] theorem putPaths_latch (k : Locker) (g : Hatch) : (putPaths l p s).latch k g = s.latch k g :=
  putPaths_within.latch k g
@[simp] theorem putPaths_sampler (k : Locker) : (putPaths l p s).sampler k = s.sampler k := putPaths_within.sampler k
@[simp] theorem putPaths_attachedChan (k : Locker) : (putPaths l p s).attachedChan k = s.attachedChan k :=
  putPaths_within.attachedChan k

end

section
variable (l : Locker) (b : Bool) (s : State)

@[simp] theorem issueHeat_copies : (issueHeat l b s).copies = s.copies := issueHeat_within.copies
@[simp] theorem issueHeat_mode : (issueHeat l b s).mode = s.mode := issueHeat_within.mode
@[simp] theorem issueHeat_tmb : (issueHeat l b s).tmb = s.tmb := issueHeat_within.tmb (by decide)
@[simp] theorem issueHeat_ctx (k : Locker) : (issueHeat l b s).ctx k = s.ctx k := issueHeat_within.ctx k
@[simp] theorem issueHeat_latches (k : Locker) : (issueHeat l b s).latches k = s.latches k := issueHeat_within.latches k
@[simp] theorem issueHeat_latch (k : Locker) (g : Hatch) : (issueHeat l b s).latch k g = s.latch k g :=
  issueHeat_within.latch k g
@[simp] theorem issueHeat_sampler (k : Locker) : (issueHeat l b s).sampler k = s.sampler k := issueHeat_within.sampler k
@[simp] theorem issueHeat_attachedChan (k : Locker) : (issueHeat l b s).attachedChan k = s.attachedChan k :=
  issueHeat_within.attachedChan k

end

section
variable (l : Locker) (a b : Bool) (s : State)

@[simp] theorem issueLatch_copies : (issueLatch l a b s).copies = s.copies := issueLatch_within.copies
@[simp] theorem issueLatch_mode : (issueLatch l a b s).mode = s.mode := issueLatch_within.mode
@[simp] theorem issueLatch_tmb : (issueLatch l a b s).tmb = s.tmb := issueLatch_within.tmb (by decide)
@[simp] theorem issueLatch_ctx (k : Locker) : (issueLatch l a b s).ctx k = s.ctx k := issueLatch_within.ctx k
@[simp] theorem issueLatch_latches (k : Locker) : (issueLatch l a b s).latches k = s.latches k :=
  issueLatch_within.latches k
@[simp] theorem issueLatch_latch (k : Locker) (g : Hatch) : (issueLatch l a b s).latch k g = s.latch k g :=
  issueLatch_within.latch k g
@[simp] theorem issueLatch_sampler (k : Locker) : (issueLatch l a b s).sampler k = s.sampler k :=
  issueLatch_within.sampler k
@[simp] theorem issueLatch_attachedChan (k : Locker) : (issueLatch l a b s).attachedChan k = s.attachedChan k :=
  issueLatch_within.attachedChan k

end

section
variable (i : Chan) (s : State)

@[simp] theorem turnOff_copies : (turnOff i s).copies = s.copies := turnOff_within.copies
@[simp] theorem turnOff_mode : (turnOff i s).mode = s.mode := turnOff_within.mode
@[simp] theorem turnOff_tmb : (turnOff i s).tmb = s.tmb := turnOff_within.tmb (by decide)
@[simp] theorem turnOff_ctx (k : Locker) : (turnOff i s).ctx k = s.ctx k := turnOff_within.ctx k
@[simp] theorem turnOff_latches (k : Locker) : (turnOff i s).latches k = s.latches k := turnOff_within.latches k
@[simp] theorem turnOff_latch (k : Locker) (g : Hatch) : (turnOff i s).latch k g = s.latch k g :=
  turnOff_within.latch k g
@[simp] theorem turnOff_sampler (k : Locker) : (turnOff i s).sampler k = s.sampler k := turnOff_within.sampler k

end

section
variable (l : Locker) (s : State)

@[simp] theorem haltLocker_copies : (haltLocker l s).copies = s.copies := haltLocker_within.copies
@[simp] theorem haltLocker_mode : (haltLocker l s).mode = s.mode := haltLocker_within.mode
@[simp] theorem haltLocker_tmb : (haltLocker l s).tmb = s.tmb := haltLocker_within.tmb (by decide)
@[simp] theorem haltLocker_ctx (k : Locker) : (haltLocker l s).ctx k = s.ctx k := haltLocker_within.ctx k
@[simp] theorem haltLocker_latches (k : Locker) : (haltLocker l s).latches k = s.latches k :=
  haltLocker_within.latches k
@[simp] theorem haltLocker_latch (k : Locker) (g : Hatch) : (haltLocker l s).latch k g = s.latch k g :=
  haltLocker_within.latch k g
@[simp] theorem haltLocker_sampler (k : Locker) : (haltLocker l s).sampler k = s.sampler k :=
  haltLocker_within.sampler k

end

section
variable (s : State)

@[simp] theorem lateGrant_copies : (lateGrant s).copies = s.copies := lateGrant_within.copies
@[simp] theorem lateGrant_mode : (lateGrant s).mode = s.mode := lateGrant_within.mode
@[simp] theorem lateGrant_tmb : (lateGrant s).tmb = s.tmb := lateGrant_within.tmb (by decide)
@[simp] theorem lateGrant_ctx (k : Locker) : (lateGrant s).ctx k = s.ctx k := lateGrant_within.ctx k
@[simp] theorem lateGrant_latches (k : Locker) : (lateGrant s).latches k = s.latches k := lateGrant_within.latches k
@[simp] theorem lateGrant_latch (k : Locker) (g : Hatch) : (lateGrant s).latch k g = s.latch k g :=
  lateGrant_within.latch k g
@[simp] theorem lateGrant_sampler (k : Locker) : (lateGrant s).sampler k = s.sampler k := lateGrant_within.sampler k

end

end Sys2Proof.Machine
end

section
/-! PROOFS. The restore: the lockers' part, the ring's part, and its end (R40, R185, R186, R187). -/

-- One theorem after the other: a thread for each would ask for more stack space than a build may have.
set_option Elab.async false

namespace Sys2Proof.Machine

/-! ### Marks and command paths of a locker (R24, R130) -/

theorem Marks.eq_of_has {m n : Marks} (h : ∀ c, m.has c = n.has c) : m = n := by
  have heat := h .heat
  have latch := h .latch
  have state := h .state
  have hold := h .hold
  have codeZero := h .codeZero
  cases m
  cases n
  simp_all [Marks.has]

theorem issueLatch_marksKept {l a b s} : MarksKept s (issueLatch l a b s) := by
  unfold issueLatch
  exact putPaths_marksKept.trans putMark_marksKept

theorem putLatch_marksKept {l h r s} : MarksKept s (putLatch l h r s) := by
  have notice (p : Prop) [Decidable p] (u : State) : MarksKept u (if p then hscNotice l u else u) := by
    split
    · exact marksKept_of_mrw (hscNotice_within.marks (by decide))
    · exact .refl
  have set : MarksKept s { s with ltc := s.ltc.set l.val ((s.latches l).set h r) } := marksKept_of_mrw rfl
  have poll (v : Bool) (u : State) : MarksKept u (setFastPoll l v u) := marksKept_of_mrw rfl
  unfold putLatch
  exact ((set.trans markIf_marksKept).trans (poll _ _)).trans (notice _ _)

theorem issueLatch_mark (l : Locker) (a b : Bool) (s : State) : ((issueLatch l a b s).marks l).latch = true := by
  have := putMark_has l l .latch .latch true
    (putPaths l { s.paths l with relFront := a, relRear := b, latch := (s.paths l).latch.issue } s)
  simpa [issueLatch, Marks.has] using this

/-- A latch command issued: the command fields as given, the next sequence, to be written, the LATCH mark (R130). -/
theorem issueLatch_commanded (l : Locker) (a b : Bool) (s : State) :
    ((issueLatch l a b s).paths l).relFront = a ∧ ((issueLatch l a b s).paths l).relRear = b
      ∧ ((issueLatch l a b s).paths l).latch.st = .writing
      ∧ ((issueLatch l a b s).paths l).latch.seq = (s.paths l).latch.seq + 1
      ∧ ((issueLatch l a b s).marks l).latch = true := by
  rw [issueLatch_paths, if_pos rfl]
  exact ⟨rfl, rfl, rfl, rfl, issueLatch_mark l a b s⟩

/-! ### A locker restored (R185) -/

theorem restoreMarks_within {l : Locker} {s : State} : Within [.marks] s (restoreMarks l s) :=
  (putMark_within.next putMark_within).next putMark_within

theorem relatchRestore_latch (l k : Locker) (h : Hatch) (s : State) : (relatchRestore l s).latch k h
    = if k = l then (s.latch l h).relatch .restore false else s.latch k h := by
  unfold relatchRestore
  dsimp only
  cases h <;> by_cases same : k = l <;> simp [same]

theorem relatchRestore_latches_ne {k l : Locker} (other : k ≠ l) (s : State) :
    (relatchRestore l s).latches k = s.latches k := by
  simp [relatchRestore, other]

theorem relatchRestore_fastPoll (l : Locker) (s : State) : (relatchRestore l s).smp.fastPoll[l.val] = true := by
  unfold relatchRestore
  dsimp only
  rw [putLatch_fastPoll, if_pos rfl]
  simp [LatchPair.inSeq, LatchPair.set, LatchRec.relatch, LatchState.inSeq]

theorem restoreMarks_full {l : Locker} {s : State} (heat : (s.marks l).heat = true) (latch : (s.marks l).latch = true) :
    (restoreMarks l s).marks l = { heat := true, latch := true, state := true, hold := true, codeZero := true } := by
  refine Marks.eq_of_has fun c => ?_
  simp only [restoreMarks, putMark_has]
  cases c <;> simp [Marks.has, heat, latch]

/-- The state of a locker's restore once its commands are issued, before its latches (R185 steps 1 and 2). -/
def restoreCommanded (l : Locker) (st heat latch : Option Word) (s : State) : State :=
  issueLatch l false false (issueHeat l false (setSeqs l heat latch (putCtx l (restoredContext st) s)))

section
variable (l : Locker) (st heat latch : Option Word) (s : State)

theorem restoreLocker_eq : restoreLocker l st heat latch s
    = restoreMarks l (relatchRestore l (restoreCommanded l st heat latch s)) := rfl

theorem restoreCommanded_latch (k : Locker) (h : Hatch) :
    (restoreCommanded l st heat latch s).latch k h = s.latch k h := by
  simp [restoreCommanded, setSeqs]

theorem restoreLocker_ctx (k : Locker) : (restoreLocker l st heat latch s).ctx k
    = if k = l then restoredContext st else s.ctx k := by
  have later : Within [.ltc, .marks, .fast, .entries] (restoreCommanded l st heat latch s)
      (restoreLocker l st heat latch s) := relatchRestore_within.next restoreMarks_within
  rw [later.ctx k]
  simp [restoreCommanded, setSeqs]

theorem restoreLocker_paths : (restoreLocker l st heat latch s).paths l
    = { heat := { (s.paths l).heat with seq := (heat.map cellSeq).getD 0 }.issue, heatOn := false,
        latch := { (s.paths l).latch with seq := (latch.map cellSeq).getD 0 }.issue, relFront := false,
        relRear := false } := by
  have later : Within [.ltc, .marks, .fast, .entries] (restoreCommanded l st heat latch s)
      (restoreLocker l st heat latch s) := relatchRestore_within.next restoreMarks_within
  rw [later.pathsAt l]
  simp [restoreCommanded, setSeqs, issueLatch_paths, issueHeat_paths]

theorem restoreLocker_latch (h : Hatch) : (restoreLocker l st heat latch s).latch l h
    = (s.latch l h).relatch .restore false := by
  rw [restoreLocker_eq, restoreMarks_within.latch l h, relatchRestore_latch, if_pos rfl, restoreCommanded_latch]

theorem restoreLocker_fastPoll : (restoreLocker l st heat latch s).smp.fastPoll[l.val] = true := by
  rw [restoreLocker_eq, restoreMarks_within.fastPollAt l, relatchRestore_fastPoll]

theorem restoreLocker_marks : (restoreLocker l st heat latch s).marks l
    = { heat := true, latch := true, state := true, hold := true, codeZero := true } := by
  have relatched (u : State) : MarksKept u (relatchRestore l u) := putLatch_marksKept.trans putLatch_marksKept
  let u := restoreCommanded l st heat latch s
  have heatMark : (u.marks l).has .heat = true := issueLatch_marksKept l .heat (issueHeat_commanded l false _).2.2.2
  have latchMark : (u.marks l).has .latch = true := issueLatch_mark l false false _
  rw [restoreLocker_eq]
  exact restoreMarks_full (relatched u l .heat heatMark) (relatched u l .latch latchMark)

theorem restoreLocker_others : OtherLockersKept l s (restoreLocker l st heat latch s) := by
  intro k other
  refine ⟨by rw [restoreLocker_ctx, if_neg other], ?_⟩
  rw [restoreLocker_eq, restoreMarks_within.latches k, relatchRestore_latches_ne other]
  simp [restoreCommanded, setSeqs]

end

theorem beatWord_single (fault : Bool) (w : Word) : beatWord fault [w] = if fault then none else some w := rfl

/-- Settles O18: the third read restores the locker, part by part. -/
theorem restoreReadRestoresLocker : Obligations.RestoreReadRestoresLocker := by
  intro s m l p fault w mode port tag at_ cell word
  obtain ⟨_, x⟩ := m
  subst tag
  let u : State := { s with
    mpi := { s.mpi with port := none }, mem := s.mem.port2 p,
    restore := { next := s.restore.next + 1, cell := .state, stateWord := none, heatWord := none } }
  let read : Option Word := if fault then none else some w
  have ran : exec (.restoreReadComplete p fault) s
      = .next (settle (restoreLocker l s.restore.stateWord s.restore.heatWord read u)) := by
    have beat : beatWord fault ((s.mem.port2 p).readBeats x) = read := by rw [word, beatWord_single]
    simp only [exec, execRestoreReadComplete, port, at_, done, readBack, beat, restoreWordRead, cell]
    rfl
  have others : OtherLockersKept l s (restoreLocker l s.restore.stateWord s.restore.heatWord read u) :=
    fun k other => restoreLocker_others l _ _ _ u k other
  have seq : (read.map cellSeq).getD 0 = if fault then 0 else cellSeq w := by cases fault <;> rfl
  refine ⟨_, ran, ?_⟩
  simp only [settle_ctx, settle_paths, settle_latch, settle_marks, settle_fastPoll, settle_restore, restoreLocker_ctx,
    if_true, restoreLocker_paths, restoreLocker_latch, restoreLocker_marks, restoreLocker_fastPoll]
  refine ⟨fun st known vacant => ?_, fun st known occupied => ?_, fun unknown => ?_, trivial, rfl, rfl, trivial, trivial,
    rfl, ?_, rfl, rfl, rfl, rfl, trivial, trivial, ?_, otherLockersKept_settle others⟩
  · rw [known]; exact if_pos vacant
  · rw [known]
    exact (if_neg (by simp [occupied])).trans rfl
  · rw [unknown]; rfl
  · show (read.map cellSeq).getD 0 + 1 = _
    rw [seq]
  · rw [(restoreLocker_within.ops (by decide)).2.2.2.2.1]

/-! ### The ring's part of the restore (R186) -/

/-- Before the ring is adopted what follows an event leaves RPW (R175). -/
theorem settle_rpw_of_unadopted {s : State} (h : s.rpw.adopted = false) : (settle s).rpw = s.rpw := by
  by_cases runs : s.mode = .restoring ∨ s.mode = .operating
  · obtain ⟨u, kept, same⟩ := settle_eq_rpwSettle runs
    have rpw : u.rpw = s.rpw := kept.rpw_eq
    rw [same, rpwSettle, rpw, h]
    exact rpw
  · rw [settle_of_still (by cases mode : s.mode <;> simp_all)]

theorem keptIndices_of_inside {s : State} {x y : Word} (write : s.rpw.keptWrite = some x) (read : s.rpw.keptRead = some y)
    (below : x.toNat < s.copies.ringSize ∧ y.toNat < s.copies.ringSize) :
    keptIndices s = some (x.toNat, y.toNat) := by simp [keptIndices, write, read, below]

theorem keptIndices_of_outside {s : State} (outside : ∀ x y, s.rpw.keptWrite = some x → s.rpw.keptRead = some y →
    ¬ (x.toNat < s.copies.ringSize ∧ y.toNat < s.copies.ringSize)) : keptIndices s = none := by
  unfold keptIndices
  split
  next x y write read => exact if_neg (outside x y write read)
  all_goals rfl

theorem judgeIndices_rpw {s : State} {w r : Nat} (kept : keptIndices s = some (w, r)) :
    judgeIndices s = { s with rpw := { s.rpw with write := w, read := r, stage := .zeroStatus } } := by
  rw [judgeIndices, kept]

theorem judgeIndices_of_lost {s : State} (lost : keptIndices s = none) :
    judgeIndices s = { s with rpw := { s.rpw with stage := .zeroWrite } } := by rw [judgeIndices, lost]

theorem judgeIndices_within {s : State} : Within [.ring] s (judgeIndices s) := by
  unfold judgeIndices
  split <;> constructor <;> simp

theorem judgeIndices_mask (s : State) : (judgeIndices s).rpw.mask = s.rpw.mask
    ∧ (judgeIndices s).rpw.adopted = s.rpw.adopted := by
  unfold judgeIndices
  split <;> exact ⟨rfl, rfl⟩

/-- Settles O19: the indices are kept or zeroed by the third word, and the READ cell's zero makes both 0. -/
theorem ringRestoreKeepsOrZeroesIndices : Obligations.RingRestoreKeepsOrZeroesIndices := by
  refine ⟨?_, ?_⟩
  · intro s m p fault w mode port tag stage adopted word
    obtain ⟨_, x⟩ := m
    subst tag
    let read : Option Word := if fault then none else some w
    let u : State := { s with
      mpi := { s.mpi with port := none }, mem := s.mem.port2 p, rpw := { s.rpw with mask := (read.map maskOf).getD 0 } }
    have ran : exec (.ringRestoreRead p fault) s = .next (settle (judgeIndices u)) := by
      have beat : beatWord fault ((s.mem.port2 p).readBeats x) = read := by rw [word, beatWord_single]
      simp only [exec, execRingRestoreRead, port, done, readBack, beat, ringWordRead, stage]
      rfl
    obtain ⟨mask, adopted'⟩ := judgeIndices_mask u
    have rpw : (settle (judgeIndices u)).rpw = (judgeIndices u).rpw := settle_rpw_of_unadopted (adopted'.trans adopted)
    have kept : Within [.mpi, .mem, .ring] s (judgeIndices u) := by
      have first : Within [.mpi, .mem, .ring] s u := by constructor <;> simp [u]
      exact first.next judgeIndices_within
    refine ⟨_, ran, ?_⟩
    dsimp only
    rw [rpw]
    refine ⟨?_, (kept.queue (by decide)).1, lockersKept_settle (kept.lockersKept (by decide) (by decide)),
      fun a b write read inWrite inRead => ?_, fun outside => ?_⟩
    · rw [mask]; cases fault <;> rfl
    · rw [judgeIndices_rpw (s := u) (keptIndices_of_inside write read ⟨inWrite, inRead⟩)]
      exact ⟨rfl, rfl, rfl⟩
    · rw [judgeIndices_of_lost (s := u) (keptIndices_of_outside outside)]
  · intro s m mode port tag adopted
    obtain ⟨_, x⟩ := m
    subst tag
    have ran : exec .readCellZeroLand s = .next (settle (readCellZeroed (freePort ⟨.ringReadCell, x⟩ s))) := by
      simp only [exec, execReadCellZeroLand, port, done]
    exact ⟨_, ran, settle_write _, settle_read _, settle_stage _, settle_mem _⟩

/-! ### The end of the restore (R187) -/

/-- The mode OPERATING entered, before the RESTORED record. -/
def operatingEntered (s : State) : State :=
  startSweep { s with mode := .operating, tmb := { s.tmb with seconds := 0, frame := some 0, second := some 0 } }

theorem operatingEntered_within {s : State} : Within [.ops, .tmb, .sweep] s (operatingEntered s) := by
  constructor <;> simp [operatingEntered, startSweep]

theorem enterOperating_eq (s : State) : enterOperating s = handRecord
    { kind := .restored, locker := 255, detail := BitVec.ofNat 16 s.cause.code, order := 0, time := 0,
      data := BitVec.ofNat 32 (s.lockers.countP fun l => (s.ctx l).life = .quarantine) } (operatingEntered s) := rfl

/-- Settles O20: the conditions are `restoreComplete`; the record is handed over behind the entered mode. -/
theorem restoreEndEntersOperating : Obligations.RestoreEndEntersOperating := by
  intro s mode all adopted room quiet
  have complete : s.restoreComplete = true := restoreComplete_iff.mpr ⟨all, adopted, quiet⟩
  have ran : exec .restoreEnd s = .next (settle (enterOperating s)) := by
    simp [exec, execRestoreEnd, mode, complete, done]
  have entered : Within [.ops, .tmb, .sweep] s (operatingEntered s) := operatingEntered_within
  have kept : Within [.ops, .tmb, .sweep, .queue] s (enterOperating s) := entered.widen.next handRecord_within
  refine ⟨_, ran, settle_mode _, by rw [settle_tmb]; rfl, by rw [settle_tmb]; rfl, by rw [settle_tmb]; rfl,
    by rw [settle_tmb]; rfl, lockersKept_settle (kept.lockersKept (by decide) (by decide)),
    heatKept_settle (kept.heatKept (by decide) (by decide) (by decide) (by decide)), ?_, ?_⟩
  · rw [settle_mem, kept.mem (by decide)]
  · obtain ⟨-, write, read, -⟩ := kept.ring (by decide)
    have full : (enterOperating s).ringFull = s.ringFull := ringFull_congr write read rfl
    rw [enterOperating_eq] at full ⊢
    exact handedAll_settle (handedAll_trans entered.unhanded (handRecord_handed _ _)) (full.trans room)

end Sys2Proof.Machine
end

section
/-! PROOFS. Validation: the tests and the copies, field by field; the mode entered; and the transaction that it held
(R3, R9, R14, R15, R37, R71, R183, R184). -/

-- One theorem after the other: a thread for each would ask for more stack space than a build may have.
set_option Elab.async false

namespace Sys2Proof.Machine

/-! ### The tests and the copies (R37, R184) -/

theorem integritySum_eq (st : Vector Word 64) : integritySum st = (st.toList.take 62).sum :=
  List.sum_eq_foldl.symm

theorem windows_disjoint_iff {lt rg n m : Nat} (table : 0 < n) (ring : 0 < m) :
    (lt + n ≤ rg ∨ rg + m ≤ lt) ↔ ∀ a, ¬ (lt ≤ a ∧ a < lt + n ∧ rg ≤ a ∧ a < rg + m) := by
  refine ⟨by omega, fun disjoint => ?_⟩
  have := disjoint (max lt rg)
  omega

theorem tempOk_iff (t : Int) : tempOk t = true ↔ plausibleTemp t := by
  rw [tempOk, Bool.and_eq_true, decide_eq_true_eq, decide_eq_true_eq]
  exact Iff.rfl

theorem classOk_iff (n : Nat) (c : ClassOpts) : classOk n c = true ↔ plausibleTemp c.lower ∧ plausibleTemp c.upper
    ∧ c.lower < c.upper ∧ plausibleTemp c.load ∧ c.load ≤ c.upper ∧ c.holdMin ≤ 240 ∧ c.coldLimit ≤ 900
    ∧ c.upper < 2 * (n : Int) := by
  simp only [classOk, Bool.and_eq_true, tempOk_iff, decide_eq_true_eq, and_assoc]

theorem classes_all_iff {n : Nat} (f : Fin n → ClassOpts) (p : ClassOpts → Bool) :
    (Vector.ofFn f).toList.all p = true ↔ ∀ c, p (f c) = true := by
  simp [Fin.forall_iff]

theorem storeValid_iff (st : Vector Word 64) : storeValid st = true ↔ StorePasses st := by
  have windows := windows_disjoint_iff (lt := (storeCopies st).ltBase.toNat) (rg := (storeCopies st).rgBase.toNat)
    (n := ltwBytes) (m := rgwBytes (storeCopies st).ringSize) (by decide) (by simp [rgwBytes])
  have classes : (storeCopies st).classes.toList.all (classOk (storeCopies st).overtempC) = true ↔ _ :=
    classes_all_iff (fun c : Fin 8 => classOpts st[10 + 2 * c.val] st[11 + 2 * c.val]) _
  unfold storeValid StorePasses
  dsimp only
  rw [integritySum_eq]
  simp only [Bool.and_eq_true, decide_eq_true_eq, Bool.or_eq_true, windows, classes, classOk_iff, and_assoc]
  exact Iff.rfl

theorem frameLength_eq (c : Fin 4) : Config.frameLength c = 125 * 2 ^ c.val := by revert c; decide

/-- Bits 23 to 2 of a word in place, by a mask (R37). -/
theorem addrField_eq (w : Word) : addrField w = (w &&& 0xFFFFFC).extractLsb' 0 24 := by
  have mask : ∀ j < 24, (0xFFFFFC : Word).getLsbD j = decide (2 ≤ j) := by decide
  refine BitVec.eq_of_getLsbD_eq fun i below => ?_
  have field : (addrField w).getLsbD i = if i < 2 then false else w.getLsbD (2 + (i - 2)) := by
    rw [addrField, BitVec.getLsbD_append, BitVec.getLsbD_extractLsb']
    simp [show i - 2 < 22 by omega]
  rw [field, BitVec.getLsbD_extractLsb', Nat.zero_add, BitVec.getLsbD_and, mask i below]
  by_cases low : i < 2
  · simp [low]
  · simp [low, below, show 2 + (i - 2) = i by omega, show 2 ≤ i by omega]

theorem storeCopies_given (st : Vector Word 64) : StoreGives st (storeCopies st) := by
  have window (w m : Word) (e : Bool) : ({ base := addrField w, mask := addrField m, enabled := e } : GuardWindow) = _ :=
    congrArg₂ (GuardWindow.mk · · e) (addrField_eq w) (addrField_eq m)
  refine ⟨rfl, frameLength_eq _, rfl, rfl, rfl, rfl, rfl, window .., window .., rfl, rfl, rfl, rfl, rfl, rfl, rfl, rfl, rfl, fun k => ?_, fun e => ?_⟩
  · exact Vector.getElem_ofFn _
  · exact Vector.getElem_ofFn _

/-! ### The end of validation (R3, R184) -/

theorem exec_validationDone {s : State} (mode : s.mode = .validating) :
    exec .validationDone s = .next (settle (endValidation s)) := if_pos mode

theorem endValidation_of_valid {s : State} (valid : storeValid s.store = true) :
    endValidation s = releaseStart (enterRestoring s) := by rw [endValidation, if_pos valid]

theorem endValidation_of_invalid {s : State} (invalid : storeValid s.store = false) :
    endValidation s = releaseStart { s with mode := .unconfigured } := by
  rw [endValidation, if_neg (by simp [invalid])]

theorem releaseStart_of_idle {s : State} (idle : s.cpi = .idle) : releaseStart s = s := by simp [releaseStart, idle]

theorem releaseStart_of_held {s : State} {x : Txn} {mirror ring : Bool} (held : s.cpi = .held x true mirror ring) :
    releaseStart s = decideTxn x s := by simp [releaseStart, held]

theorem enterRestoring_within {s : State} : Within [.ops, .limit, .turns, .tmb, .ring, .sup] s (enterRestoring s) := by
  constructor <;> simp [enterRestoring, setTimers]

/-- With no turn under way MRW's step leaves the position last served (R26). -/
theorem mrwSettle_lastServed {s : State} (turn : s.mrw.turn = none) :
    (mrwSettle s).mrw.lastServed = s.mrw.lastServed := by
  have choose (u : State) : (mrwChoose u).mrw.lastServed = u.mrw.lastServed := by
    unfold mrwChoose
    split <;> rfl
  have withdrawn : (mrwWithdraw s).mrw.turn = none := turn
  unfold mrwSettle
  dsimp only
  split
  · unfold mrwNext
    split
    · rfl
    · rw [mrwTurn, withdrawn]
      exact choose _
  · rfl

/-- Settles O14: the tests and the copies field by field; and with no transaction held the new mode's first step raises
requests alone. -/
theorem validationSetsModeAndCopies : Obligations.ValidationSetsModeAndCopies := by
  refine ⟨fun st => ⟨storeValid_iff st, storeCopies_given st⟩, fun s mode => if_pos mode,
    fun s mode idle => ⟨fun invalid => ?_, fun valid turn => ?_⟩⟩
  · rw [exec_validationDone mode, endValidation_of_invalid invalid, releaseStart_of_idle (s := { s with mode := .unconfigured }) idle]
    exact congrArg Host.Outcome.next (settle_of_still (s := { s with mode := .unconfigured }) (.inr (.inr rfl)))
  · have ran := exec_validationDone mode
    rw [endValidation_of_valid valid, releaseStart_of_idle (s := enterRestoring s) idle] at ran
    have kept : Within [.ops, .limit, .turns, .tmb, .ring, .sup] s (enterRestoring s) := enterRestoring_within
    have lastServed : (settle (enterRestoring s)).mrw.lastServed = (enterRestoring s).mrw.lastServed := by
      obtain ⟨u, within, after⟩ := settle_mrw (s := enterRestoring s) (.inl rfl)
      have mrw : u.mrw = (enterRestoring s).mrw := within.mrw_eq (by decide) (by decide)
      rw [after, mrwSettle_lastServed (by rw [mrw]; exact turn), mrw]
    refine ⟨_, ran, settle_mode _, settle_copies _, by rw [settle_hsc]; rfl, ?_, by rw [settle_tmb]; rfl, settle_stage _,
      settle_restore _, settle_store _, lockersKept_settle (kept.lockersKept (by decide) (by decide)),
      by rw [settle_hsc]; rfl, settle_ahu_paths _, settle_mem _⟩
    rw [lastServed]
    rfl

/-! ### A transaction held over validation (R3, R9, R14, R15) -/

theorem arrive_of_validating {s : State} (mode : s.mode = .validating) (x : Txn) :
    arrive x s = { s with answer := none, cpi := .held x true false false } := by simp [arrive, mode]

theorem decideTxn_of_read {s : State} {x : Txn} (calm : s.mode ≠ .operating) (read : x.write = false) :
    decideTxn x s = forward x .none s := by
  rw [decideTxn, if_neg (by simp [read]), decideRead, if_neg calm]

theorem decideTxn_refused {s : State} {x : Txn} {c : Cause} {a : Addr} (write : x.write = true)
    (governs : governing s x = some (c, a)) : decideTxn x s = refuse c a s := by
  rw [decideTxn, if_pos write, decideWrite, governs]

theorem decideTxn_forwarded {s : State} {x : Txn} (calm : s.mode ≠ .operating) (write : x.write = true)
    (clean : governing s x = none) : decideTxn x s = forward x .none s := by
  rw [decideTxn, if_pos write, decideWrite, clean]
  exact if_neg calm

/-- Outside OPERATING the decision reaches CPI and the queue alone. -/
theorem decideTxn_within_of_calm {s : State} {x : Txn} (calm : s.mode ≠ .operating) :
    Within [.cpi, .queue] s (decideTxn x s) := by
  cases write : x.write with
  | true =>
    cases governs : governing s x with
    | some g => rw [decideTxn_refused write governs]; exact refuse_within
    | none => rw [decideTxn_forwarded calm write governs]; exact forward_within.widen
  | false => rw [decideTxn_of_read calm write]; exact forward_within.widen

/-- Settles O15: the hold, and its release under the mode that validation enters. -/
theorem validationHoldsTransactions : Obligations.ValidationHoldsTransactions := by
  refine ⟨fun s addr lanes data mode idle form => ?_, fun s addr lanes len mode idle form => ?_,
    fun s x mode held some invalid => ?_, ?_⟩
  · rw [exec_controllerWrite_idle form (by simp [mode]) idle, arrive_of_validating mode]
    exact congrArg Host.Outcome.next (settle_of_still (.inr (.inl mode)))
  · rw [exec_cPortRead_idle form (by simp [mode]) idle, arrive_of_validating mode]
    exact congrArg Host.Outcome.next (settle_of_still (.inr (.inl mode)))
  · let u : State := { s with mode := .unconfigured }
    have released : endValidation s = decideTxn x u :=
      (endValidation_of_invalid invalid).trans (releaseStart_of_held (s := u) held)
    rw [exec_validationDone mode, released]
    cases write : x.write with
    | true =>
      obtain ⟨a, governs⟩ := governing_unconfigured (s := u) rfl some
      rw [decideTxn_refused write governs, refuse_notReady]
      exact congrArg Host.Outcome.next (settle_of_still (.inr (.inr rfl)))
    | false =>
      rw [decideTxn_of_read (s := u) (by simp [u]) write]
      exact congrArg Host.Outcome.next (settle_of_still (.inr (.inr rfl)))
  · intro s x mode held valid unadopted classOf
    let u : State := enterRestoring s
    have calm : u.mode ≠ .operating := by simp [u, enterRestoring, setTimers]
    have released : endValidation s = decideTxn x u :=
      (endValidation_of_valid valid).trans (releaseStart_of_held (s := u) held)
    have ran : exec .validationDone s = .next (settle (decideTxn x u)) := by rw [exec_validationDone mode, released]
    have entered : Within [.ops, .limit, .turns, .tmb, .ring, .sup] s u := enterRestoring_within
    have decided : Within [.cpi, .queue] u (decideTxn x u) := decideTxn_within_of_calm calm
    have kept : Within [.ops, .limit, .turns, .tmb, .ring, .sup, .cpi, .queue] s (decideTxn x u) :=
      entered.widen.next decided
    have rpw : (settle (decideTxn x u)).rpw = (decideTxn x u).rpw :=
      settle_rpw_of_unadopted ((decided.ring (by decide)).1.trans unadopted)
    refine ⟨_, ran, (settle_mode _).trans decided.mode, (settle_copies _).trans decided.copies,
      (settle_mem _).trans (kept.mem (by decide)), lockersKept_settle (kept.lockersKept (by decide) (by decide)),
      (settle_mrw_marks _).trans (kept.marks (by decide)), fun read => ?_, fun write touches => ?_,
      fun k inside write allowed guard first => ?_, fun write pass => ?_⟩
    · rw [rpw, decideTxn_of_read calm read]
      exact ⟨settle_forward_cpi .., rfl⟩
    · obtain ⟨a, governs⟩ := governing_restoring_of_window (s := u) rfl touches
      rw [rpw, decideTxn_refused write governs]
      exact ⟨settle_refuse_cpi .., settle_refuse_answer .., rfl⟩
    · have governs := governing_restoring_of_guard (s := u) rfl inside allowed guard first
      have outside (l : Locker) (cell : Fin 16) (table : classOf (x.beatAddr k) = .ltw l cell) :
          u.copies.lockerCount ≤ l.val := by simp [table] at guard
      have handed := handedAll_trans entered.unhanded
        (refuse_handed (c := .guard) (by decide) (x.beatAddr k) u)
      rw [beatRecord_of_none (s := u) _ _ outside] at handed
      rw [Handed, rpw, decideTxn_refused write governs]
      exact ⟨settle_refuse_cpi .., settle_refuse_answer .., handed⟩
    · rw [rpw, decideTxn_forwarded calm write (governing_restoring_of_pass (s := u) rfl pass)]
      exact ⟨settle_forward_cpi .., rfl⟩

end Sys2Proof.Machine
end

section
/-! PROOFS. The M-port's grants: who is next round the circle, and what a mirror write carries and clears (R10, R16, R17,
R25, R26, R28). -/

-- One theorem after the other: a thread for each would ask for more stack space than a build may have.
set_option Elab.async false

namespace Sys2Proof.Machine

/-! ### The circle (R16) -/

theorem circleFrom_eq_cons (p : Requester) : ∃ tail, circleFrom p = p :: tail ∧ circleFrom p.succ = tail ++ [p] := by
  cases p <;> exact ⟨_, rfl, rfl⟩

/-- The circle from the requester after one met on the way: what was left, then what came before it, then itself. -/
theorem circleFrom_succ {p r : Requester} {before after : List Requester}
    (h : circleFrom p = before ++ r :: after) : circleFrom r.succ = after ++ before ++ [r] := by
  induction before generalizing p after with
  | nil =>
    obtain ⟨tail, here, next⟩ := circleFrom_eq_cons p
    obtain ⟨rfl, rfl⟩ := List.cons.inj (here.symm.trans h)
    simpa using next
  | cons b bs ih =>
    obtain ⟨tail, here, next⟩ := circleFrom_eq_cons p
    obtain ⟨rfl, rfl⟩ := List.cons.inj (here.symm.trans h)
    simpa using ih (p := p.succ) (after := after ++ [p]) (by simp [next])

theorem nextGrant_of_first {s : State} {before after : List Requester} {r : Requester} {m : MTxn}
    (circle : circleFrom s.mpi.pointer = before ++ r :: after) (quiet : ∀ q ∈ before, request s q = none)
    (asks : request s r = some m) : nextGrant s = some (r, m) := by
  have none : before.findSome? (fun q => (request s q).map fun t => (q, t)) = none :=
    List.findSome?_eq_none_iff.mpr fun q first => by simp [quiet q first]
  simp [nextGrant, circle, List.findSome?_append, none, asks]

theorem request_of_nextGrant {s : State} {r : Requester} {m : MTxn} (h : nextGrant s = some (r, m)) :
    request s r = some m := by
  obtain ⟨q, -, found⟩ := List.exists_of_findSome?_eq_some h
  obtain ⟨x, asks, same⟩ := Option.map_eq_some_iff.mp found
  cases same
  exact asks

theorem exec_mportGrant {s : State} {r : Requester} {m : MTxn} (free : s.mpi.port = none)
    (next : nextGrant s = some (r, m)) : exec .mportGrant s = .next (settle (grant r m s)) := by
  simp [exec, execMportGrant, free, next, done]

/-! ### What a grant touches (R16, R17) -/

theorem promotionStep_within {l : Locker} {s : State} : Within [.turns] s (promotionStep l s) := by
  unfold promotionStep
  dsimp only
  refine .ite .refl ?_
  split
  · split <;> constructor <;> simp
  · constructor <;> simp

theorem mirrorGranted_within {l : Locker} {c : MarkCell} {s : State} : Within [.marks, .turns] s (mirrorGranted l c s) := by
  have cleared : Within [.marks, .turns] s (putMark l c false s) := putMark_within.widen
  have turn {u : State} {m : Mrw} (marks : m.marks = u.mrw.marks) : Within [.turns] u { u with mrw := m } := by
    constructor <;> simp [marks]
  have step {u : State} {m : Mrw} (marks : m.marks = u.mrw.marks) :
      Within [.turns] u (promotionStep l { u with mrw := m }) := (turn marks).next promotionStep_within
  unfold mirrorGranted
  dsimp only
  split
  · exact cleared.next (b := [.turns]) (step (u := putMark l c false s) rfl)
  · exact cleared.next (b := [.turns]) (turn (u := putMark l c false s) rfl)

theorem fwdGranted_within {s : State} : Within [.cpi] s (fwdGranted s) := by
  unfold fwdGranted
  split
  · constructor <;> simp
  all_goals exact .refl

theorem ahuGranted_within {s : State} : Within [.due] s (ahuGranted s) := by
  unfold ahuGranted
  split
  · constructor <;> simp [leaveDue]
  · exact .refl

theorem smpGranted_within {s : State} : Within [.sweep, .fast] s (smpGranted s) := by
  unfold smpGranted
  split
  · constructor <;> simp
  · constructor <;> simp
  · exact .refl

theorem smpGranted_fastPoll (s : State) : (smpGranted s).smp.fastPoll = s.smp.fastPoll := by
  unfold smpGranted
  split <;> rfl

theorem rpwGranted_within {s : State} : Within [.ringOp, .queue] s (rpwGranted s) := by
  unfold rpwGranted
  refine .ite ?_ .refl
  split
  all_goals constructor <;> simp

def grantParts : List Part := [.cpi, .marks, .turns, .due, .sweep, .fast, .ringOp, .queue]

theorem grantedAt_within {r : Requester} {s : State} : Within grantParts s (grantedAt r s) := by
  cases r with
  | fwd => exact fwdGranted_within.widen
  | mrw =>
    unfold grantedAt mrwGranted
    dsimp only
    split
    · exact mirrorGranted_within.widen
    · exact .refl
  | ahu => exact ahuGranted_within.widen
  | smp => exact smpGranted_within.widen
  | rpw => exact rpwGranted_within.widen

theorem grantedAt_fastPoll (r : Requester) (s : State) : (grantedAt r s).smp.fastPoll = s.smp.fastPoll := by
  cases r with
  | fwd => exact fwdGranted_within.fastPoll
  | mrw =>
    unfold grantedAt mrwGranted
    dsimp only
    split
    · exact mirrorGranted_within.fastPoll
    · rfl
  | ahu => exact ahuGranted_within.fastPoll
  | smp => exact smpGranted_fastPoll s
  | rpw => exact rpwGranted_within.fastPoll

theorem grantedAt_marks {r : Requester} (other : r ≠ .mrw) (s : State) :
    (grantedAt r s).mrw.marks = s.mrw.marks := by
  cases r with
  | fwd => exact fwdGranted_within.marks (by decide)
  | mrw => exact absurd rfl other
  | ahu => exact ahuGranted_within.marks (by decide)
  | smp => exact smpGranted_within.marks (by decide)
  | rpw => exact rpwGranted_within.marks (by decide)

theorem mpi_within {m : Mpi} {s : State} : Within [.mpi] s { s with mpi := m } := by constructor <;> simp

theorem grant_within {r : Requester} {m : MTxn} {s : State} : Within (.mpi :: grantParts) s (grant r m s) :=
  mpi_within.widen.next grantedAt_within

theorem grant_mpi (r : Requester) (m : MTxn) (s : State) :
    (grant r m s).mpi = { pointer := r.succ, port := some m } := grantedAt_within.mpi (by decide)

/-- Settles O37: the first requester with a request is granted, and the pointer moves past it; a grant reaches the parts
of the requesters alone. -/
theorem grantGoesRoundTheCircle : Obligations.GrantGoesRoundTheCircle := by
  intro s before after r m free circle quiet asks
  have ran := exec_mportGrant free (nextGrant_of_first circle quiet asks)
  have kept : Within (.mpi :: grantParts) s (settle (grant r m s)) := grant_within.next settle_within
  refine ⟨_, ran, by rw [settle_mpi, grant_mpi], ?_, kept.lockersKept (by decide) (by decide),
    kept.heatKept (by decide) (by decide) (by decide) (by decide), ⟨kept.recs (by decide), ?_⟩,
    kept.clockKept (by decide) (by decide), kept.outsideKept (by decide) (by decide), fun other => ?_⟩
  · rw [settle_mpi, grant_mpi]
    exact circleFrom_succ circle
  · rw [settle_fastPoll]
    exact grantedAt_fastPoll r _
  · rw [settle_mrw_marks]
    exact grantedAt_marks other _

/-! ### A hold in OPERATING after an event (R10, R11) -/

theorem settle_cpi_of_hold {s : State} {x : Txn} {mirror ring : Bool} (mode : s.mode = .operating)
    (cpi : s.cpi = .held x false mirror ring) : (settle s).cpi
      = if ((mirror && !s.mrw.promo.isEmpty) || (ring && s.rpw.op.inFlight)) = true then
          .held x false (mirror && !s.mrw.promo.isEmpty) (ring && s.rpw.op.inFlight)
        else .waiting x .none := by
  rw [(settle_cpi_eq s).1, if_pos mode, releaseHolds, cpi]
  dsimp only
  split <;> rfl

/-! ### The grant of a mirror write (R25, R26, R28) -/

/-- With no request standing and a mirror write on the M-port, what follows an event leaves MRW. -/
theorem settle_mrw_of_flying {s : State} (req : s.mrw.req = none) (flies : s.mirrorFlying = true) :
    (settle s).mrw = s.mrw := by
  by_cases mode : s.mode = .restoring ∨ s.mode = .operating
  · obtain ⟨u, kept, after⟩ := settle_mrw mode
    have mrw : u.mrw = s.mrw := kept.mrw_eq (by decide) (by decide)
    have withdrawn : (mrwWithdraw u).mrw = u.mrw := by
      unfold mrwWithdraw
      dsimp only
      rw [mrw, req, Option.filter_none, ← req]
    have flying : (mrwWithdraw u).mirrorFlying = true := (mirrorFlying_of_mpi (kept.mpi (by decide))).trans flies
    rw [after, mrwSettle, flying, ← mrw]
    simpa using withdrawn
  · rw [settle_of_still (by cases h : s.mode <;> simp_all)]

theorem Marks.any_iff (m : Marks) : m.any = true ↔ ∃ c, m.has c = true := by
  simp only [Marks.any, Bool.or_eq_true]
  constructor
  · rintro ((((h | h) | h) | h) | h)
    exacts [⟨.heat, h⟩, ⟨.latch, h⟩, ⟨.state, h⟩, ⟨.hold, h⟩, ⟨.codeZero, h⟩]
  · rintro ⟨c, h⟩
    cases c <;> simp_all [Marks.has]

/-- A cell's mark cleared, some mark is left when another cell bore one. -/
theorem Marks.any_put_false (m : Marks) (c : MarkCell) :
    (m.put c false).any = true ↔ ∃ d, d ≠ c ∧ m.has d = true := by
  rw [Marks.any_iff]
  refine exists_congr fun d => ?_
  rw [Marks.has_put]
  by_cases same : d = c <;> simp [same]

section
variable {s : State} {l : Locker} {c : MarkCell}

theorem mirrorGranted_marks (k : Locker) (d : MarkCell) : ((mirrorGranted l c s).marks k).has d
    = if k = l ∧ d = c then false else (s.marks k).has d := by
  have marks : (mirrorGranted l c s).mrw.marks = (putMark l c false s).mrw.marks := by
    unfold mirrorGranted
    dsimp only
    split
    · exact promotionStep_within.marks (by decide)
    · rfl
  rw [marks_of_mrw marks, putMark_has]

theorem mirrorGranted_of_turn (other : s.mrw.promo.head? ≠ some l) : (mirrorGranted l c s).mrw
    = { (putMark l c false s).mrw with req := none, turn := s.mrw.turn.map fun t => (t.1, some c) } := by
  rw [mirrorGranted]
  exact congrArg State.mrw (if_neg other)

theorem mirrorGranted_of_left (head : s.mrw.promo.head? = some l) (left : ∃ d, d ≠ c ∧ (s.marks l).has d = true) :
    (mirrorGranted l c s).mrw = { (putMark l c false s).mrw with req := none, promoLast := some c } := by
  have any : ((putMark l c false s).marks l).any = true := by
    rw [putMark_marks, if_pos rfl, Marks.any_put_false]
    exact left
  rw [mirrorGranted]
  exact congrArg State.mrw ((if_pos head).trans (if_pos any))

theorem mirrorGranted_of_last (head : s.mrw.promo.head? = some l) (last : ¬ ∃ d, d ≠ c ∧ (s.marks l).has d = true) :
    (mirrorGranted l c s).mrw = match s.mrw.turn with
      | some (k, t) => if k = l then { (putMark l c false s).mrw with
            req := none, promo := s.mrw.promo.tail, promoLast := none, turn := none, lastServed := l }
          else { (putMark l c false s).mrw with
            req := none, promo := s.mrw.promo.tail, promoLast := none, turn := some (k, t) }
      | none => { (putMark l c false s).mrw with
            req := none, promo := s.mrw.promo.tail, promoLast := none, turn := none } := by
  have none_left : ¬ ((putMark l c false s).marks l).any = true := by
    rw [putMark_marks, if_pos rfl, Marks.any_put_false]
    exact last
  rw [mirrorGranted]
  refine (congrArg State.mrw ((if_pos head).trans (if_neg none_left))).trans ?_
  have turn : (putMark l c false s).mrw.turn = s.mrw.turn := rfl
  dsimp only
  rw [turn]
  rcases h : s.mrw.turn with _ | ⟨k, t⟩
  · simp only [putMark, h]
  · dsimp only
    split <;> simp only [putMark, h]

theorem mirrorGranted_req : (mirrorGranted l c s).mrw.req = none := by
  unfold mirrorGranted promotionStep
  dsimp only
  split
  · split
    · rfl
    · split
      · split <;> rfl
      · rfl
  · rfl

end

/-- Settles O38: the content is that of the request, and what the grant makes of the mark, the turn and the promotion list
is what stands after it, for a mirror write is then on the M-port. -/
theorem mirrorGrantFixesContent : Obligations.MirrorGrantFixesContent := by
  intro s m l c free next req left
  let s' : State := { s with mpi := { pointer := Requester.mrw.succ, port := some m } }
  let g : State := mirrorGranted l c s'
  have asks : m = ⟨.mirror l c (mirrorSeq s l c), writeTxn (s.cellAddr l c.word) [mirrorWord s l c]⟩ := by
    have asks := request_of_nextGrant next
    simpa [request, mrwRequest, req, eq_comm] using asks
  have granted : grant .mrw m s = g := by
    show mrwGranted s' = g
    rw [mrwGranted, show s'.mrw.req = some (l, c) from req]
  have ran := exec_mportGrant free next
  rw [granted] at ran
  have port : g.mpi.port = some m := congrArg Mpi.port (mirrorGranted_within.mpi (by decide) : g.mpi = s'.mpi)
  have flies : g.mirrorFlying = true := by rw [State.mirrorFlying, port, asks]
  have mrw : (settle g).mrw = g.mrw := settle_mrw_of_flying mirrorGranted_req flies
  have kept : Within (.mpi :: grantParts) s g := mpi_within.widen.next mirrorGranted_within
  refine ⟨_, ran, by rw [settle_mpi, port], by rw [asks]; cases c <;> rfl, fun k d => ?_, ?_, fun other => ?_,
    fun head some => ?_, fun head none => ?_, fun x ring mode held => ?_,
    lockersKept_settle (kept.lockersKept (by decide) (by decide)),
    heatKept_settle (kept.heatKept (by decide) (by decide) (by decide) (by decide)),
    outsideKept_settle (kept.outsideKept (by decide) (by decide))⟩
  · rw [settle_marks]
    exact mirrorGranted_marks k d
  · rw [mrw]
    exact mirrorGranted_req
  · rw [mrw, mirrorGranted_of_turn (s := s') other]
    exact ⟨rfl, rfl, rfl, rfl⟩
  · rw [mrw, mirrorGranted_of_left (s := s') head some]
    exact ⟨rfl, rfl, rfl, rfl⟩
  · rw [mrw, mirrorGranted_of_last (s := s') head none]
    have turn : s'.mrw.turn = s.mrw.turn := rfl
    rw [turn]
    rcases h : s.mrw.turn with _ | ⟨k, t⟩
    · exact ⟨rfl, rfl, by simp, fun _ => ⟨rfl, rfl⟩⟩
    · by_cases same : k = l
      · subst same
        simp only [if_true]
        exact ⟨rfl, trivial, fun _ _ => ⟨trivial, trivial⟩, fun other => absurd rfl (other t)⟩
      · simp only [same, if_false]
        refine ⟨rfl, trivial, fun last h => ?_, fun _ => ⟨trivial, rfl⟩⟩
        simp [same] at h
  · have hold : g.cpi = .held x false true ring := (mirrorGranted_within.cpi (by decide)).1.trans held
    have operating : g.mode = .operating := mirrorGranted_within.mode.trans mode
    have op : g.rpw.op = s.rpw.op := mirrorGranted_within.ringOp (by decide)
    rw [settle_cpi_of_hold operating hold, mrw, op]
    refine ⟨fun empty => ?_, fun some => ?_⟩
    · rw [empty]
      by_cases flying : (ring && s.rpw.op.inFlight) = true <;> simp [flying]
    · have : g.mrw.promo.isEmpty = false := by simpa using some
      simp [this]

end Sys2Proof.Machine
end

section
/-! PROOFS. A locker's or a path's own share of an event of time, and the crossings of FEED (R76, R78, R89, R92, R100,
R136, R137, R163, R164). -/

-- One theorem after the other: a thread for each would ask for more stack space than a build may have.
set_option Elab.async false

namespace Sys2Proof.Machine

/-! ### Marks, and changes that HSC does not notice (R24, R39) -/

theorem markIf_mark {q : Bool} (h : q = true) (l : Locker) (c : MarkCell) (s : State) :
    ((markIf q l c s).marks l).has c = true := by
  rw [markIf, if_pos h, putMark_has, if_pos ⟨rfl, rfl⟩]

/-- A change of a field that STATE gathers sets the STATE mark (R24). -/
theorem putCtx_stateMark {l : Locker} {c : Context} {s : State} (differ : stateFieldsDiffer (s.ctx l) c = true) :
    ((putCtx l c s).marks l).state = true := by
  have set := markIf_mark differ l .state { s with lke := s.lke.set l.val c }
  have counted {o n : Lifecycle} {u : State} : MarksKept u (countQuarantine o n u) :=
    marksKept_of_mrw (countQuarantine_within.marks (by decide))
  have noticed {u : State} (p : Prop) [Decidable p] : MarksKept u (if p then hscNotice l u else u) := by
    split
    · exact marksKept_of_mrw (hscNotice_within.marks (by decide))
    · exact .refl
  unfold putCtx
  dsimp only
  exact ((markIf_marksKept.trans counted).trans (noticed _)) l .state set

/-- A context changed within its lifecycle state: neither the quarantine count nor HSC hears of it. -/
theorem putCtx_within_of_life {l : Locker} {c : Context} {s : State} (life : c.life = (s.ctx l).life) :
    Within [.lke, .marks] s (putCtx l c s) := by
  have counted (u : State) : countQuarantine (s.ctx l).life c.life u = u := by
    rw [life]
    unfold countQuarantine
    split
    · next h => exact absurd h.2 h.1
    · split
      · next h => exact absurd h.1 h.2
      · rfl
  unfold putCtx
  dsimp only
  rw [counted, if_neg (by simp [life])]
  exact (lke_within.widen.next markIf_within).next markIf_within

/-- A latch record changed within its state: HSC does not hear of it. -/
theorem putLatch_within_of_st {l : Locker} {h : Hatch} {r : LatchRec} {s : State} (st : r.st = (s.latch l h).st) :
    Within [.ltc, .marks, .fast] s (putLatch l h r s) := by
  have set : Within [.ltc, .marks, .fast] s { s with ltc := s.ltc.set l.val ((s.latches l).set h r) } := by
    constructor <;> simp
  unfold putLatch
  dsimp only
  rw [if_neg (by simp [st])]
  exact (set.next markIf_within).next setFastPoll_within

theorem putPaths_stateMark {l : Locker} {p : PathPair} {s : State}
    (differ : (s.paths l).heat.errs ≠ p.heat.errs ∨ (s.paths l).latch.errs ≠ p.latch.errs) :
    ((putPaths l p s).marks l).state = true :=
  markIf_mark (by simpa using differ) l .state { s with ahu := { s.ahu with paths := s.ahu.paths.set l.val p } }

/-! ### Lockouts and latches (R76, R89, R92) -/

theorem hatchCode_word (h : Hatch) : BitVec.ofNat 32 (hatchCode h) = hatchWord h := by cases h <;> rfl

/-- The hatch's code as the statements write it. -/
theorem hatchWord_eq (h : Hatch) : hatchWord h = match h with | .front => 0 | .rear => 1 := by cases h <;> rfl

/-- Settles O55: each share of the event is one change of a context or of a latch record, with its report. -/
theorem secondsRunOut : Obligations.SecondsRunOut := by
  intro s l below room
  refine ⟨fun locked left => ?_, fun h st left => ?_, fun h st left => ?_⟩
  · let c : Context := { s.ctx l with lockedOut := false, lockoutLeft := 0, attempts := 0 }
    have ran : exec (.lockoutEnd l) s = .next (settle (endLockout l s)) := if_pos ⟨below, locked, left⟩
    have changed : Within [.lke, .marks] s (putCtx l c s) := putCtx_within_of_life rfl
    have kept : Within [.lke, .marks, .queue] s (endLockout l s) := changed.widen.next handRecord_within
    have mark : ((putCtx l c s).marks l).state = true := putCtx_stateMark (by simp [stateFieldsDiffer, c, locked])
    refine ⟨_, ran, ?_, ?_, ?_, otherLockersKept_settle endLockout_others, (settle_ltc _).trans (kept.ltc (by decide)),
      heatKept_settle (kept.heatKept (by decide) (by decide) (by decide) (by decide)),
      outsideKept_settle (kept.outsideKept (by decide) (by decide))⟩
    · simp [endLockout]
    · rw [settle_marks]
      exact mark
    · exact handedAll_settle (handedAll_trans changed.unhanded (handRecord_handed _ _)) (kept.ringFull.trans room)
  · let r : LatchRec := (s.latch l h).relatch .notOpened false
    have ran : exec (.openWaitExpiry l h) s = .next (settle (expireOpenWait l h s)) := if_pos ⟨below, st, left⟩
    have kept : Within [.ltc, .marks, .fast, .entries, .paths] s (expireOpenWait l h s) :=
      putLatch_within.widen.next issueLatch_within
    have latch (g : Hatch) : (expireOpenWait l h s).latch l g = if g = h then r else s.latch l g := by
      simp [expireOpenWait, r]
    obtain ⟨front, rear, writing, seq, mark⟩ := issueLatch_commanded l false false (putLatch l h r s)
    rw [putLatch_paths] at seq
    refine ⟨_, ran, ?_⟩
    simp only [settle_latch, settle_paths, settle_marks, settle_lke, latch, if_true]
    exact ⟨rfl, rfl, rfl, front, rear, writing, seq, mark, kept.lke (by decide), fun g other => if_neg other,
      queue_of_unhanded (handedAll_settle kept.unhanded (kept.ringFull.trans room)),
      outsideKept_settle (kept.outsideKept (by decide) (by decide))⟩
  · let r : LatchRec := { s.latch l h with hatchHeld := 0 }
    have ran : exec (.hatchHeld l h) s = .next (settle (expireHatchHeld l h s)) := if_pos ⟨below, st, left⟩
    have changed : Within [.ltc, .marks, .fast] s (putLatch l h r s) := putLatch_within_of_st rfl
    have kept : Within [.ltc, .marks, .fast, .queue] s (expireHatchHeld l h s) := changed.widen.next handRecord_within
    have handed := handedAll_settle (handedAll_trans changed.unhanded (handRecord_handed
      (lockerRecord s .hatchHeld l (s.ctx l).life.code (BitVec.ofNat 32 (hatchCode h))) _)) (kept.ringFull.trans room)
    rw [hatchCode_word, hatchWord_eq] at handed
    refine ⟨_, ran, ?_, ⟨(settle_lke _).trans (kept.lke (by decide)), rfl⟩, fun g other => ?_,
      heatKept_settle (kept.heatKept (by decide) (by decide) (by decide) (by decide)),
      outsideKept_settle (kept.outsideKept (by decide) (by decide)), ?_⟩
    · simp [expireHatchHeld]
    · simp [expireHatchHeld, other]
    · rw [expireHatchHeld, hatchCode_word, hatchWord_eq]
      exact handed

/-! ### A command re-issued (R136, R137) -/

@[simp] theorem PathPair.get_set_self (p : PathPair) (k : PathKind) (r : PathRec) : (p.set k r).get k = r := by
  cases k <;> rfl

theorem putPath_paths (l j : Locker) (k : PathKind) (r : PathRec) (s : State) :
    (putPath l k r s).paths j = if j = l then (s.paths l).set k r else s.paths j := putPaths_paths ..

theorem putPath_stateMark {l : Locker} {k : PathKind} {r : PathRec} {s : State}
    (differ : ((s.paths l).get k).errs ≠ r.errs) : ((putPath l k r s).marks l).state = true := by
  refine putPaths_stateMark ?_
  cases k
  · exact .inl differ
  · exact .inr differ

theorem commandReissued_paths (l j : Locker) (k : PathKind) (r : PathRec) (s : State) :
    (commandReissued l k r s).paths j = if j = l then (s.paths l).set k r.reissue else s.paths j := by
  rw [commandReissued, putMark_within.pathsAt j, putPath_paths]

theorem commandReissued_mark (l : Locker) (k : PathKind) (r : PathRec) (s : State) :
    ((commandReissued l k r s).marks l).has (pathMark k) = true := by
  rw [commandReissued, putMark_has, if_pos ⟨rfl, rfl⟩]

theorem commandReissued_stateMark {l : Locker} {k : PathKind} {r : PathRec} {s : State}
    (differ : ((s.paths l).get k).errs ≠ r.errs) : ((commandReissued l k r s).marks l).state = true :=
  putMark_marksKept l .state (putPath_stateMark (r := r.reissue) differ)

/-- An error below the limit, but not the third, re-issues the command (R137). -/
theorem pathError_of_low {l : Locker} {k : PathKind} {r : PathRec} {s : State} (low : r.errs + 1 < 3) :
    pathError l k r s = commandReissued l k { r with errs := r.errs + 1 } s := by
  have below : r.errs < Config.errorLimit := by simp only [Config.errorLimit]; omega
  have other : r.errs + 1 ≠ Config.errorLimit := by simp only [Config.errorLimit]; omega
  rw [pathError, if_pos below, if_neg other]

/-- Settles O44: the timeout is an error below the limit. -/
theorem timeoutReissuesCommand : Obligations.TimeoutReissuesCommand := by
  intro s l k below probing limit low
  let r : PathRec := (s.paths l).get k
  let again : PathRec := { r with probes := r.probes + 1, errs := r.errs + 1 }
  have ran : exec (.probeTimeout l k) s = .next (settle (commandReissued l k again s)) := by
    rw [← pathError_of_low (r := { r with probes := r.probes + 1 }) low]
    exact if_pos ⟨below, probing, limit⟩
  have kept : Within [.paths, .marks] s (commandReissued l k again s) := commandReissued_within
  refine ⟨_, ran, ?_⟩
  simp only [settle_paths, settle_marks, settle_hsc]
  exact ⟨by rw [commandReissued_paths, if_pos rfl]; rfl, commandReissued_mark ..,
    commandReissued_stateMark (by simp [again, r]),
    lockersKept_settle (kept.lockersKept (by decide) (by decide)), kept.hsc_eq (by decide) (by decide) (by decide),
    outsideKept_settle (kept.outsideKept (by decide) (by decide)),
    clockKept_settle (kept.clockKept (by decide) (by decide)), ringKept_settle (kept.ringKept (by decide) (by decide))⟩

/-! ### Dwell timers (R163, R164, R166) -/

theorem runTimer_phaseOn (dwell elapsed : Nat) (named condition : Prop) [Decidable named] [Decidable condition]
    (timer : Option Nat) : runTimer (decide named) (decide condition) (phaseOn dwell elapsed timer)
      = timerAfter dwell elapsed named condition timer := by
  unfold runTimer timerAfter phaseOn
  by_cases runs : named ∧ condition
  · cases timer <;> simp [runs]
  · simp only [Bool.and_eq_true, decide_eq_true_eq, if_neg runs]

/-- The timers of a supply state, some ms after SUP's last event, at the level of FEED. -/
theorem setTimers_advanced (st : Supply) (feed elapsed : Nat) (s : State) :
    (setTimers st { s with feed := feed, sup := s.sup.advance elapsed }).sup
      = timersOf st feed elapsed s.copies s.sup := by
  have either : (decide (st = .normal) || decide (st = .shed)) = decide (st = .normal ∨ st = .shed) := by
    rw [Bool.decide_or]
  simp only [setTimers, Sup.advance, State.belowShed, State.belowCut, State.aboveShed, State.aboveCut, either,
    runTimer_phaseOn]
  rfl

theorem setTimers_within {st : Supply} {s : State} : Within [.sup] s (setTimers st s) := by
  constructor <;> simp [setTimers]

/-- Settles O56. -/
theorem crossingSetsTimers : Obligations.CrossingSetsTimers := by
  intro s feed elapsed mode
  let u : State := setTimers s.sup.st { s with feed := feed, sup := s.sup.advance elapsed }
  have judged : s.supplyJudged = true := by rcases mode with h | h <;> simp [State.supplyJudged, h]
  have ran : exec (.feedCrossing feed elapsed) s = .next (settle u) := by
    have crossed : crossFeed feed elapsed s = u := if_pos judged
    rw [← crossed]
    rfl
  have kept : Within [.ops, .sup] s u := by constructor <;> simp [u, setTimers]
  exact ⟨_, ran, settle_feed u, (settle_sup u).trans (setTimers_advanced ..),
    lockersKept_settle (kept.lockersKept (by decide) (by decide)),
    heatKept_settle (kept.heatKept (by decide) (by decide) (by decide) (by decide)),
    (settle_tmb u).trans (kept.tmb (by decide)), (settle_mem u).trans (kept.mem (by decide))⟩

end Sys2Proof.Machine
end

section
/-! PROOFS. The locker engine's transitions, rule by rule: what each leaves of the context, the latches, the channels, the
queues and the reports (R41 to R45, R84, R85). -/

-- One theorem after the other: a thread for each would ask for more stack space than a build may have.
set_option Elab.async false

namespace Sys2Proof.Machine

/-! ### What each operation leaves of the parts it does not touch -/

section
variable (x : Txn) (e : LandEffect) (s : State)

@[simp] theorem forward_ctx (k : Locker) : (forward x e s).ctx k = s.ctx k := forward_within.ctx k
@[simp] theorem forward_latches (k : Locker) : (forward x e s).latches k = s.latches k := forward_within.latches k
@[simp] theorem forward_latch (k : Locker) (g : Hatch) : (forward x e s).latch k g = s.latch k g :=
  forward_within.latch k g
@[simp] theorem forward_paths (k : Locker) : (forward x e s).paths k = s.paths k := forward_within.pathsAt k
@[simp] theorem forward_sampler (k : Locker) : (forward x e s).sampler k = s.sampler k := forward_within.sampler k
@[simp] theorem forward_chan (j : Chan) : (forward x e s).chan j = s.chan j := forward_within.chan j
@[simp] theorem forward_attachedChan (k : Locker) : (forward x e s).attachedChan k = s.attachedChan k :=
  forward_within.attachedChan k

end

section
variable (l : Locker) (s : State)

@[simp] theorem commonEffects_copies : (commonEffects l s).copies = s.copies := commonEffects_within.copies
@[simp] theorem commonEffects_mode : (commonEffects l s).mode = s.mode := commonEffects_within.mode
@[simp] theorem commonEffects_tmb : (commonEffects l s).tmb = s.tmb := commonEffects_within.tmb (by decide)
@[simp] theorem commonEffects_latches (k : Locker) : (commonEffects l s).latches k = s.latches k :=
  commonEffects_within.latches k
@[simp] theorem commonEffects_latch (k : Locker) (g : Hatch) : (commonEffects l s).latch k g = s.latch k g :=
  commonEffects_within.latch k g
@[simp] theorem commonEffects_paths (k : Locker) : (commonEffects l s).paths k = s.paths k :=
  commonEffects_within.pathsAt k
@[simp] theorem commonEffects_sampler (k : Locker) : (commonEffects l s).sampler k = s.sampler k :=
  commonEffects_within.sampler k
@[simp] theorem commonEffects_chan (j : Chan) : (commonEffects l s).chan j = s.chan j := commonEffects_within.chan j
@[simp] theorem commonEffects_attachedChan (k : Locker) : (commonEffects l s).attachedChan k = s.attachedChan k :=
  commonEffects_within.attachedChan k

end

section
variable (l : Locker) (s : State)

@[simp] theorem zeroErrors_copies : (zeroErrors l s).copies = s.copies := zeroErrors_within.copies
@[simp] theorem zeroErrors_mode : (zeroErrors l s).mode = s.mode := zeroErrors_within.mode
@[simp] theorem zeroErrors_tmb : (zeroErrors l s).tmb = s.tmb := zeroErrors_within.tmb (by decide)
@[simp] theorem zeroErrors_ctx (k : Locker) : (zeroErrors l s).ctx k = s.ctx k := zeroErrors_within.ctx k
@[simp] theorem zeroErrors_latches (k : Locker) : (zeroErrors l s).latches k = s.latches k :=
  zeroErrors_within.latches k
@[simp] theorem zeroErrors_latch (k : Locker) (g : Hatch) : (zeroErrors l s).latch k g = s.latch k g :=
  zeroErrors_within.latch k g
@[simp] theorem zeroErrors_sampler (k : Locker) : (zeroErrors l s).sampler k = s.sampler k :=
  zeroErrors_within.sampler k
@[simp] theorem zeroErrors_chan (j : Chan) : (zeroErrors l s).chan j = s.chan j := zeroErrors_within.chan j
@[simp] theorem zeroErrors_attachedChan (k : Locker) : (zeroErrors l s).attachedChan k = s.attachedChan k :=
  zeroErrors_within.attachedChan k

end

section
variable (l : Locker) (r : SamplerRec) (s : State)

@[simp] theorem putSampler_ctx (k : Locker) : (putSampler l r s).ctx k = s.ctx k := putSampler_within.ctx k
@[simp] theorem putSampler_latches (k : Locker) : (putSampler l r s).latches k = s.latches k :=
  putSampler_within.latches k
@[simp] theorem putSampler_latch (k : Locker) (g : Hatch) : (putSampler l r s).latch k g = s.latch k g :=
  putSampler_within.latch k g
@[simp] theorem putSampler_paths (k : Locker) : (putSampler l r s).paths k = s.paths k := putSampler_within.pathsAt k
@[simp] theorem putSampler_chan (j : Chan) : (putSampler l r s).chan j = s.chan j := putSampler_within.chan j
@[simp] theorem putSampler_attachedChan (k : Locker) : (putSampler l r s).attachedChan k = s.attachedChan k :=
  putSampler_within.attachedChan k

end

section
variable (l : Locker) (s : State)

@[simp] theorem leaveSweep_ctx (k : Locker) : (leaveSweep l s).ctx k = s.ctx k := leaveSweep_within.ctx k
@[simp] theorem leaveSweep_latches (k : Locker) : (leaveSweep l s).latches k = s.latches k :=
  leaveSweep_within.latches k
@[simp] theorem leaveSweep_latch (k : Locker) (g : Hatch) : (leaveSweep l s).latch k g = s.latch k g :=
  leaveSweep_within.latch k g
@[simp] theorem leaveSweep_paths (k : Locker) : (leaveSweep l s).paths k = s.paths k := leaveSweep_within.pathsAt k
@[simp] theorem leaveSweep_sampler (k : Locker) : (leaveSweep l s).sampler k = s.sampler k :=
  leaveSweep_within.sampler k
@[simp] theorem leaveSweep_chan (j : Chan) : (leaveSweep l s).chan j = s.chan j := leaveSweep_within.chan j
@[simp] theorem leaveSweep_attachedChan (k : Locker) : (leaveSweep l s).attachedChan k = s.attachedChan k :=
  leaveSweep_within.attachedChan k

end

section
variable (l : Locker) (c : Context) (s : State)

@[simp] theorem enterHalting_copies : (enterHalting l c s).copies = s.copies := enterHalting_within.copies
@[simp] theorem enterHalting_mode : (enterHalting l c s).mode = s.mode := enterHalting_within.mode
@[simp] theorem enterHalting_tmb : (enterHalting l c s).tmb = s.tmb := enterHalting_within.tmb (by decide)
@[simp] theorem enterHalting_latches (k : Locker) : (enterHalting l c s).latches k = s.latches k :=
  enterHalting_within.latches k
@[simp] theorem enterHalting_latch (k : Locker) (g : Hatch) : (enterHalting l c s).latch k g = s.latch k g :=
  enterHalting_within.latch k g
@[simp] theorem enterHalting_sampler (k : Locker) : (enterHalting l c s).sampler k = s.sampler k :=
  enterHalting_within.sampler k

end

section
variable (l : Locker) (h : Hatch) (s : State)

@[simp] theorem startRelease_copies : (startRelease l h s).copies = s.copies := startRelease_within.copies
@[simp] theorem startRelease_mode : (startRelease l h s).mode = s.mode := startRelease_within.mode
@[simp] theorem startRelease_tmb : (startRelease l h s).tmb = s.tmb := startRelease_within.tmb (by decide)
@[simp] theorem startRelease_ctx (k : Locker) : (startRelease l h s).ctx k = s.ctx k := startRelease_within.ctx k
@[simp] theorem startRelease_sampler (k : Locker) : (startRelease l h s).sampler k = s.sampler k :=
  startRelease_within.sampler k

end

section
variable (l : Locker) (i : Lifecycle) (s : State)

@[simp] theorem withdraw_copies : (withdraw l i s).copies = s.copies := withdraw_within.copies
@[simp] theorem withdraw_mode : (withdraw l i s).mode = s.mode := withdraw_within.mode
@[simp] theorem withdraw_tmb : (withdraw l i s).tmb = s.tmb := withdraw_within.tmb (by decide)
@[simp] theorem withdraw_ctx (k : Locker) : (withdraw l i s).ctx k = s.ctx k := withdraw_within.ctx k
@[simp] theorem withdraw_sampler (k : Locker) : (withdraw l i s).sampler k = s.sampler k := withdraw_within.sampler k
@[simp] theorem withdraw_chan (j : Chan) : (withdraw l i s).chan j = s.chan j := withdraw_within.chan j
@[simp] theorem withdraw_attachedChan (k : Locker) : (withdraw l i s).attachedChan k = s.attachedChan k :=
  withdraw_within.attachedChan k

end


/-! ### Halts leave the attachment (R116) -/

theorem attachedChan_congr {s t : State} (h : ∀ i, (t.chan i).st.attached = (s.chan i).st.attached) (l : Locker) :
    t.attachedChan l = s.attachedChan l := by simp only [State.attachedChan, h]

theorem turnOff_attached (i j : Chan) (s : State) : ((turnOff i s).chan j).st.attached = (s.chan j).st.attached := by
  by_cases same : j = i
  · subst same
    cases energised : (s.chan j).st.energised with
    | none => rw [turnOff_of_idle energised]
    | some l =>
      rw [turnOff_chan_self energised, ChanState.attached_of_energised energised]
      rfl
  · rw [turnOff_chan_ne same]

@[simp] theorem haltLocker_attachedChan (l k : Locker) (s : State) : (haltLocker l s).attachedChan k = s.attachedChan k := by
  unfold haltLocker
  split
  · exact attachedChan_congr (turnOff_attached _ · s) k
  · rfl

@[simp] theorem enterHalting_attachedChan (l k : Locker) (c : Context) (s : State) :
    (enterHalting l c s).attachedChan k = s.attachedChan k := by rw [enterHalting, haltLocker_attachedChan, putCtx_attachedChan]

theorem turnOff_marksKept {i s} : MarksKept s (turnOff i s) := by
  unfold turnOff
  split
  · exact putChan_marksKept.trans issueHeat_marksKept
  · exact .refl

theorem haltLocker_marksKept {l s} : MarksKept s (haltLocker l s) := by
  unfold haltLocker
  split
  · exact turnOff_marksKept
  · exact .refl

/-- Heat commands leave what the latch command says. -/
theorem haltLocker_release (l k : Locker) (s : State) : ((haltLocker l s).paths k).latch = (s.paths k).latch :=
  haltLocker_latchPathsKept k

/-! ### Entries shrink (R106, R109) -/

/-- No entry has been added to a queue. -/
def EntriesShrunk (s t : State) : Prop := t.hsc.hq ⊆ s.hsc.hq ∧ t.hsc.wq ⊆ s.hsc.wq

theorem EntriesShrunk.refl {s : State} : EntriesShrunk s s := ⟨List.Subset.refl _, List.Subset.refl _⟩

theorem EntriesShrunk.trans {s t u : State} (h : EntriesShrunk s t) (k : EntriesShrunk t u) : EntriesShrunk s u :=
  ⟨List.Subset.trans k.1 h.1, List.Subset.trans k.2 h.2⟩

theorem Within.entriesShrunk {bs : List Part} {s t : State} (w : Within bs s t)
    (entries : Part.entries ∉ bs := by decide) : EntriesShrunk s t := by
  obtain ⟨hq, wq⟩ := w.entries entries
  exact ⟨by rw [hq]; exact List.Subset.refl _, by rw [wq]; exact List.Subset.refl _⟩

theorem putCtx_entriesShrunk {l c s} : EntriesShrunk s (putCtx l c s) := by
  obtain ⟨hq, wq⟩ := putCtx_queues l c s
  constructor
  · rw [hq]
    split
    · exact List.Subset.refl _
    · exact (entriesAfter_sublist _ _ _).subset
  · rw [wq]
    split
    · exact List.Subset.refl _
    · exact (entriesAfter_sublist _ _ _).subset

theorem putLatch_entriesShrunk {l h r s} : EntriesShrunk s (putLatch l h r s) := by
  obtain ⟨hq, wq⟩ := putLatch_queues l h r s
  constructor
  · rw [hq]
    split
    · exact List.Subset.refl _
    · exact (entriesAfter_sublist _ _ _).subset
  · rw [wq]
    split
    · exact List.Subset.refl _
    · exact (entriesAfter_sublist _ _ _).subset

theorem enterHalting_entriesShrunk {l c s} : EntriesShrunk s (enterHalting l c s) :=
  putCtx_entriesShrunk.trans haltLocker_within.entriesShrunk

theorem startRelease_entriesShrunk {l h s} : EntriesShrunk s (startRelease l h s) := by
  unfold startRelease
  dsimp only
  split
  · exact putLatch_entriesShrunk.trans haltLocker_within.entriesShrunk
  · exact putLatch_entriesShrunk.trans issueLatch_within.entriesShrunk

theorem withdrawHatch_entriesShrunk {l i s h} : EntriesShrunk s (withdrawHatch l i s h) := by
  have issued {u v w : State} (a : EntriesShrunk u v) (b : Within [.paths, .marks, .queue] v w) : EntriesShrunk u w :=
    a.trans b.entriesShrunk
  unfold withdrawHatch
  dsimp only
  split
  · exact issued putLatch_entriesShrunk reportWithdrawn_within.widen
  · exact issued putLatch_entriesShrunk (issueLatch_within.widen.next reportWithdrawn_within)
  · exact issued putLatch_entriesShrunk (issueLatch_within.widen.next reportWithdrawn_within)
  · split
    · exact reportWithdrawn_within.entriesShrunk
    · exact .refl
  all_goals exact .refl

theorem withdraw_entriesShrunk {l i s} : EntriesShrunk s (withdraw l i s) :=
  withdrawHatch_entriesShrunk.trans withdrawHatch_entriesShrunk

/-- A lifecycle state entered that has no place in a queue leaves the locker no entry there (R109). -/
theorem putCtx_hq_dropped {l : Locker} {c : Context} {s : State} (changed : (s.ctx l).life ≠ c.life)
    (other : c.life ≠ .holding) : l ∉ (putCtx l c s).hsc.hq := by
  rw [(putCtx_queues l c s).1, if_neg changed]
  intro listed
  have qualifies := (mem_entriesAfter listed).2 rfl
  simp [State.qualifiesHq, other] at qualifies

theorem putCtx_wq_dropped {l : Locker} {c : Context} {s : State} (changed : (s.ctx l).life ≠ c.life)
    (other : c.life ≠ .assigned ∧ c.life ≠ .loadable) : l ∉ (putCtx l c s).hsc.wq := by
  rw [(putCtx_queues l c s).2, if_neg changed]
  intro listed
  have qualifies := (mem_entriesAfter listed).2 rfl
  simp [State.qualifiesWq, other] at qualifies

/-! ### Contexts entered (R39, R42, R43, R45) -/

/-- A lifecycle change that neither leaves nor enters QUARANTINE leaves the counts. -/
theorem putCtx_within_of_free {l : Locker} {c : Context} {s : State} (old : (s.ctx l).life ≠ .quarantine)
    (new : c.life ≠ .quarantine) : Within [.lke, .marks, .entries] s (putCtx l c s) := by
  have counted (u : State) : countQuarantine (s.ctx l).life c.life u = u := by
    unfold countQuarantine
    rw [if_neg (by simp [new]), if_neg (by simp [old])]
  unfold putCtx
  dsimp only
  rw [counted]
  exact ((lke_within.widen.next markIf_within).next markIf_within).next (.ite hscNotice_within .refl)

theorem enterHalting_within_of_free {l : Locker} {c : Context} {s : State} (old : (s.ctx l).life ≠ .quarantine)
    (new : c.life ≠ .quarantine) : Within [.lke, .marks, .entries, .chans, .paths] s (enterHalting l c s) :=
  (putCtx_within_of_free old new).widen.next haltLocker_within

@[simp] theorem enterHalting_ctx (l k : Locker) (c : Context) (s : State) :
    (enterHalting l c s).ctx k = if k = l then c else s.ctx k := by rw [enterHalting, haltLocker_ctx, putCtx_ctx]

theorem enterHalting_channelsDistinct {l : Locker} {c : Context} {s : State} (d : ChannelsDistinct s) :
    ChannelsDistinct (enterHalting l c s) :=
  (Eases.trans (.of_chans (putCtx_chan l c s)) haltLocker_eases).channelsDistinct d

theorem enterHalting_eases {l : Locker} {c : Context} {s : State} : Eases s (enterHalting l c s) :=
  .trans (.of_chans (putCtx_chan l c s)) haltLocker_eases

theorem enterHalting_energised {l : Locker} {c : Context} {s : State} (d : ChannelsDistinct s) (i : Chan) :
    ((enterHalting l c s).chan i).st.energised ≠ some l :=
  haltLocker_energised ((Eases.of_chans (putCtx_chan l c s)).channelsDistinct d) i

theorem enterHalting_latchPath (l k : Locker) (c : Context) (s : State) :
    ((enterHalting l c s).paths k).latch = (s.paths k).latch := by
  rw [enterHalting, haltLocker_release, putCtx_paths]

theorem enterHalting_hq {l : Locker} {c : Context} {s : State} (changed : (s.ctx l).life ≠ c.life)
    (other : c.life ≠ .holding) : l ∉ (enterHalting l c s).hsc.hq := fun listed =>
  putCtx_hq_dropped changed other (haltLocker_within.entriesShrunk.1 listed)

theorem enterHalting_wq {l : Locker} {c : Context} {s : State} (changed : (s.ctx l).life ≠ c.life)
    (other : c.life ≠ .assigned ∧ c.life ≠ .loadable) : l ∉ (enterHalting l c s).hsc.wq := fun listed =>
  putCtx_wq_dropped changed other (haltLocker_within.entriesShrunk.2 listed)

theorem enterHalting_unhanded {l : Locker} {c : Context} {s : State} : HandedAll [] s (enterHalting l c s) :=
  enterHalting_within.unhanded

theorem enterHalting_quarantined (l : Locker) (c : Context) (s : State) : (enterHalting l c s).rpw.quarantined
    = (countQuarantine (s.ctx l).life c.life s).rpw.quarantined := by
  rw [enterHalting, (haltLocker_within.counts (by decide)).1, putCtx_rpw]

/-! ### Entry into VACANT (R42, R43, R140, R146, R147) -/

/-- What an entry into VACANT does after the entry actions. -/
theorem enterVacant_eq (l : Locker) (s : State) : enterVacant l s
    = leaveSweep l (putSampler l SamplerRec.reset (zeroErrors l (enterHalting l (s.ctx l).cleared s))) := rfl

@[simp] theorem enterVacant_ctx (l k : Locker) (s : State) :
    (enterVacant l s).ctx k = if k = l then (s.ctx l).cleared else s.ctx k := by simp [enterVacant_eq]

theorem enterVacant_sampler (l : Locker) (s : State) : (enterVacant l s).sampler l = SamplerRec.reset := by
  rw [enterVacant_eq, leaveSweep_sampler, State.sampler, putSampler]
  simp

theorem zeroErrors_paths (l : Locker) (s : State) : (zeroErrors l s).paths l = { s.paths l with
    heat := { (s.paths l).heat with errs := 0, fin := 0 }, latch := { (s.paths l).latch with errs := 0, fin := 0 } } := by
  simp [zeroErrors]

theorem enterVacant_errs (l : Locker) (s : State) :
    ((enterVacant l s).paths l).heat.errs = 0 ∧ ((enterVacant l s).paths l).latch.errs = 0 := by
  rw [enterVacant_eq, leaveSweep_paths, putSampler_paths, zeroErrors_paths]
  exact ⟨rfl, rfl⟩

/-- After the entry actions the entry into VACANT reaches paths, the sampler and the sweep. -/
theorem enterVacant_tail {l : Locker} {s : State} :
    Within [.paths, .marks, .recs, .sweep] (enterHalting l (s.ctx l).cleared s) (enterVacant l s) :=
  (zeroErrors_within.widen.next putSampler_within).next leaveSweep_within

theorem enterVacant_within_of_free {l : Locker} {s : State} (old : (s.ctx l).life ≠ .quarantine) :
    Within [.lke, .marks, .entries, .chans, .paths, .recs, .sweep] s (enterVacant l s) := by
  have new : (s.ctx l).cleared.life ≠ .quarantine := by simp [Context.cleared, Context.reset]
  exact (enterHalting_within_of_free old new).widen.next enterVacant_tail

theorem enterVacant_ltc {l : Locker} {s : State} : (enterVacant l s).ltc = s.ltc :=
  (enterVacant_tail.ltc (by decide)).trans (enterHalting_within.ltc (by decide))

theorem enterVacant_unhanded {l : Locker} {s : State} : HandedAll [] s (enterVacant l s) := by
  simpa using handedAll_trans enterHalting_unhanded enterVacant_tail.unhanded

theorem enterVacant_energised {l : Locker} {s : State} (d : ChannelsDistinct s) (i : Chan) :
    ((enterVacant l s).chan i).st.energised ≠ some l := by
  rw [enterVacant_tail.chan i]
  exact enterHalting_energised d i

theorem enterVacant_sweep (l : Locker) (s : State) :
    (enterVacant l s).smp.sweep = s.smp.sweep.map (·.filter (· ≠ l)) := by
  have entered : (enterHalting l (s.ctx l).cleared s).smp.sweep = s.smp.sweep :=
    (enterHalting_within.sweep (by decide)).1
  have zeroed : (zeroErrors l (enterHalting l (s.ctx l).cleared s)).smp.sweep = s.smp.sweep :=
    (zeroErrors_within.sweep (by decide)).1.trans entered
  rw [enterVacant_eq, leaveSweep, putSampler]
  simp only [zeroed]

/-! ### Releases (R84, R85) -/

theorem LatchPair.inSeq_set {h : Hatch} {r : LatchRec} (running : r.st.inSeq = true) (p : LatchPair) :
    (p.set h r).inSeq = true := by cases h <;> simp [LatchPair.inSeq, LatchPair.set, running]

section
variable {l : Locker} {h : Hatch} {s : State}

theorem startRelease_of_attached (attached : s.attachedChan l ≠ none) :
    startRelease l h s = haltLocker l (putLatch l h ((s.latch l h).release .haltWait) s) :=
  if_pos (Option.isSome_iff_ne_none.mpr attached)

theorem startRelease_of_unattached (free : s.attachedChan l = none) : startRelease l h s
    = issueLatch l (h = .front) (h = .rear) (putLatch l h ((s.latch l h).release .unlatchPending) s) :=
  if_neg (by simp [free])

/-- A release begun, by whether a channel is attached to the locker. -/
theorem startRelease_begun : ReleaseBegun l h s (startRelease l h s) := by
  have others (g : Hatch) (ne : g ≠ h) : (startRelease l h s).latch l g = s.latch l g :=
    startRelease_latch_ne fun same => ne same.2
  by_cases free : s.attachedChan l = none
  · rw [startRelease_of_unattached free] at others ⊢
    let r : LatchRec := (s.latch l h).release .unlatchPending
    obtain ⟨front, rear, writing, seq, mark⟩ := issueLatch_commanded l (h = .front) (h = .rear) (putLatch l h r s)
    rw [putLatch_paths] at seq
    have latch : (putLatch l h r s).latch l h = r := by rw [putLatch_latch, if_pos ⟨rfl, rfl⟩]
    have poll : (putLatch l h r s).smp.fastPoll[l.val] = true := by
      rw [putLatch_fastPoll, if_pos rfl, LatchPair.inSeq_set rfl]
    refine ⟨fun attached => absurd free attached, fun _ => ⟨?_, writing, seq, front, rear, mark⟩, ?_, others, ?_⟩
    · rw [issueLatch_latch, latch]; rfl
    · rw [issueLatch_latch, latch]; rfl
    · rw [issueLatch_within.fastPollAt l, poll]
  · rw [startRelease_of_attached free] at others ⊢
    let r : LatchRec := (s.latch l h).release .haltWait
    have latch : (putLatch l h r s).latch l h = r := by rw [putLatch_latch, if_pos ⟨rfl, rfl⟩]
    have poll : (putLatch l h r s).smp.fastPoll[l.val] = true := by
      rw [putLatch_fastPoll, if_pos rfl, LatchPair.inSeq_set rfl]
    refine ⟨fun _ => ⟨?_, ?_⟩, fun none => absurd none free, ?_, others, ?_⟩
    · rw [haltLocker_latch, latch]; rfl
    · rw [haltLocker_release, putLatch_paths]
    · rw [haltLocker_latch, latch]; rfl
    · rw [haltLocker_within.fastPollAt l, poll]

/-- A release begun after a change that leaves the latches and what the latch command says. -/
theorem ReleaseBegun.after {u t : State} (begun : ReleaseBegun l h u t) (attached : u.attachedChan l = s.attachedChan l)
    (latch : ∀ g, u.latch l g = s.latch l g) (path : (u.paths l).latch = (s.paths l).latch) : ReleaseBegun l h s t := by
  obtain ⟨waits, goes, note, others, poll⟩ := begun
  rw [attached, path] at waits
  rw [attached, path] at goes
  exact ⟨waits, goes, note, fun g ne => (others g ne).trans (latch g), poll⟩

/-- A release begun stays so over a change that leaves latches, paths and the fast-poll set, and clears no mark. -/
theorem ReleaseBegun.before {t u : State} (begun : ReleaseBegun l h s t) (latch : ∀ g, u.latch l g = t.latch l g)
    (paths : u.paths l = t.paths l) (marks : (t.marks l).latch = true → (u.marks l).latch = true)
    (poll : u.smp.fastPoll[l.val] = t.smp.fastPoll[l.val]) : ReleaseBegun l h s u := by
  obtain ⟨waits, goes, note, others, polled⟩ := begun
  refine ⟨fun attached => ?_, fun free => ?_, ?_, fun g ne => ?_, ?_⟩
  · rw [latch, paths]
    exact waits attached
  · obtain ⟨st, writing, seq, front, rear, mark⟩ := goes free
    rw [latch, paths]
    exact ⟨st, writing, seq, front, rear, marks mark⟩
  · rw [latch]
    exact note
  · rw [latch]
    exact others g ne
  · rw [poll]
    exact polled

theorem requestRelease_of_latched (latched : s.bothLatched l = true) : requestRelease l h s = startRelease l h s :=
  if_pos latched

theorem requestRelease_of_unlatched (unlatched : s.bothLatched l = false) :
    requestRelease l h s = relatchOutcome l h .notOpened s := if_neg (by simp [unlatched])

theorem startRelease_eases : Eases s (startRelease l h s) := by
  unfold startRelease
  dsimp only
  split
  · exact .trans (.of_chans (putLatch_chan l h _ s)) haltLocker_eases
  · exact .of_chans fun i => by rw [issueLatch_chan, putLatch_chan]

end

end Sys2Proof.Machine
end

section
/-! PROOFS. A command taken: the word forwarded, the common effects, and what accepted and refused commands make of the
locker (R13, R22, R46, R64 to R66, R74, R75, R78). -/

-- One theorem after the other: a thread for each would ask for more stack space than a build may have.
set_option Elab.async false

namespace Sys2Proof.Machine

/-! ### The fields of command words (R22, R33) -/

/-- The field above the lowest one of a word. -/
theorem extract_middle {v n m start : Nat} (hi : BitVec v) (mid : BitVec m) (lo : BitVec n) (at_ : start = n) :
    (hi ++ mid ++ lo).extractLsb' start m = mid := by
  subst at_
  rw [BitVec.extractLsb'_append_eq_of_le (Nat.le_refl _), Nat.sub_self, BitVec.extractLsb'_append_eq_right]

theorem commandWord_kind (tag : BitVec 8) (kind : BitVec 4) (cls : BitVec 3) (hi : BitVec 17) :
    cmdKind (commandWord tag kind cls hi) = kind := extract_middle (hi ++ cls) kind tag rfl

theorem commandWord_class (tag : BitVec 8) (kind : BitVec 4) (cls : BitVec 3) (hi : BitVec 17) :
    cmdClass (commandWord tag kind cls hi) = cls :=
  (BitVec.extractLsb'_append_eq_of_le (xhi := hi ++ cls ++ kind) (xlo := tag) (by decide)).trans
    (extract_middle hi cls kind rfl)

theorem forwardedWord_fields (w : Word) (o : CmdOutcome) : (forwardedWord w o).extractLsb' 0 8 = w.extractLsb' 0 8
    ∧ (forwardedWord w o).extractLsb' 8 4 = w.extractLsb' 8 4 ∧ (forwardedWord w o).extractLsb' 12 3 = w.extractLsb' 12 3
    ∧ (forwardedWord w o).extractLsb' 16 4 = o.toCode ∧ (forwardedWord w o).extractLsb' 15 1 = 0
    ∧ (forwardedWord w o).extractLsb' 20 12 = 0 := by
  let a : BitVec 16 := (0 : BitVec 12) ++ o.toCode
  let b : BitVec 17 := a ++ (0 : BitVec 1)
  let c : BitVec 20 := b ++ cmdClass w
  let d : BitVec 24 := c ++ cmdKind w
  have aboveTag {start len : Nat} (h : 8 ≤ start) :
      (forwardedWord w o).extractLsb' start len = d.extractLsb' (start - 8) len :=
    BitVec.extractLsb'_append_eq_of_le (xhi := d) (xlo := cmdTag w) h
  have aboveKind {start len : Nat} (h : 4 ≤ start) : d.extractLsb' start len = c.extractLsb' (start - 4) len :=
    BitVec.extractLsb'_append_eq_of_le (xhi := c) (xlo := cmdKind w) h
  have aboveClass {start len : Nat} (h : 3 ≤ start) : c.extractLsb' start len = b.extractLsb' (start - 3) len :=
    BitVec.extractLsb'_append_eq_of_le (xhi := b) (xlo := cmdClass w) h
  refine ⟨BitVec.extractLsb'_append_eq_right (a := d) (b := cmdTag w), extract_middle c (cmdKind w) (cmdTag w) rfl,
    ?_, ?_, ?_, ?_⟩
  · rw [aboveTag (by decide)]
    exact extract_middle b (cmdClass w) (cmdKind w) rfl
  · rw [aboveTag (by decide), aboveKind (by decide), aboveClass (by decide)]
    exact extract_middle (0 : BitVec 12) o.toCode (0 : BitVec 1) rfl
  · rw [aboveTag (by decide), aboveKind (by decide)]
    exact extract_middle a (0 : BitVec 1) (cmdClass w) rfl
  · rw [aboveTag (by decide), aboveKind (by decide), aboveClass (by decide)]
    exact (BitVec.extractLsb'_append_eq_of_le (xhi := a) (xlo := (0 : BitVec 1)) (by decide)).trans
      ((BitVec.extractLsb'_append_eq_of_le (xhi := (0 : BitVec 12)) (xlo := o.toCode) (by decide)).trans rfl)

/-! ### A command's step (R13, R65) -/

theorem takeWrite_command {s : State} {addr : Addr} {w : Word} {l : Locker} (table : classify s.copies addr = .ltw l 0) :
    takeWrite (writeTxn addr [w]) s
      = forward (writeTxn addr [forwardedWord w (evaluate s l w)]) .none (evaluation l w s) := by
  unfold takeWrite
  rw [writeTxn_singleFull, show classify s.copies (writeTxn addr [w]).addr = _ from table]
  rfl

theorem exec_commandRow {c : Instr} {addr : Addr} {w : Word} (row : commandRow c = some (addr, w)) (s : State) :
    exec c s = present (writeTxn addr [w]) s := by
  cases c <;> simp only [commandRow, Option.some.injEq, Prod.mk.injEq, reduceCtorEq] at row
  case unknownKind a kind tag cls hi =>
    split at row
    · next unknown =>
      obtain ⟨rfl, rfl⟩ := Prod.mk.inj (Option.some.inj row)
      exact if_pos unknown
    · cases row
  all_goals
    obtain ⟨rfl, rfl⟩ := row
    rfl

/-- The state that follows a command, once its outcome has been applied to the locker. -/
def commandAfter (addr : Addr) (f : Word) (l : Locker) (v : State) : State :=
  settle (forward (writeTxn addr [f]) .none (commonEffects l v))

/-- The state in which a command is evaluated: the answer before it no longer stands. -/
abbrev unanswered (s : State) : State := { s with answer := none }

theorem exec_command {c : Instr} {addr : Addr} {w : Word} {s : State} {l : Locker}
    (row : commandRow c = some (addr, w)) (ready : Ready s) (cell : CellAt s addr l 0) : exec c s = .next
      (commandAfter addr (forwardedWord w (evaluate s l w)) l (applyOutcome l w (evaluate s l w) (unanswered s))) := by
  rw [exec_commandRow row, present_ready ready, arrive_taken ready.1 (causeOf_cell ready.1 cell (by decide)),
    takeWrite_command (s := unanswered s) cell.1]
  rfl

section
variable (addr : Addr) (f : Word) (l : Locker) (v : State)

theorem commandAfter_within : Within (settleParts ++ [.lke, .marks]) v (commandAfter addr f l v) :=
  (commonEffects_within.widen.next forward_within).next settle_within

theorem commandAfter_cpi : (commandAfter addr f l v).cpi = .waiting (writeTxn addr [f]) .none := settle_forward_cpi ..

@[simp] theorem commandAfter_ctx (k : Locker) : (commandAfter addr f l v).ctx k
    = if k = l then { v.ctx l with presCode := 0 } else v.ctx k := by
  rw [commandAfter, settle_ctx, forward_ctx, commonEffects_ctx]

@[simp] theorem commandAfter_ltc : (commandAfter addr f l v).ltc = v.ltc :=
  (commandAfter_within addr f l v).ltc (by decide)

@[simp] theorem commandAfter_latch (k : Locker) (h : Hatch) : (commandAfter addr f l v).latch k h = v.latch k h :=
  (commandAfter_within addr f l v).latch k h

@[simp] theorem commandAfter_paths (k : Locker) : (commandAfter addr f l v).paths k = v.paths k :=
  (commandAfter_within addr f l v).pathsAt k

@[simp] theorem commandAfter_hsc : (commandAfter addr f l v).hsc = v.hsc :=
  (commandAfter_within addr f l v).hsc_eq (by decide) (by decide) (by decide)

@[simp] theorem commandAfter_chan (i : Chan) : (commandAfter addr f l v).chan i = v.chan i :=
  (commandAfter_within addr f l v).chan i

@[simp] theorem commandAfter_sampler (k : Locker) : (commandAfter addr f l v).sampler k = v.sampler k :=
  (commandAfter_within addr f l v).sampler k

@[simp] theorem commandAfter_quarantined : (commandAfter addr f l v).rpw.quarantined = v.rpw.quarantined :=
  ((commandAfter_within addr f l v).counts (by decide)).1

theorem commandAfter_marks (k : Locker) (c : MarkCell) : ((commandAfter addr f l v).marks k).has c
    = if k = l ∧ c = .codeZero then true else (v.marks k).has c := by
  have effects : ((commonEffects l v).marks k).has c = if k = l ∧ c = .codeZero then true else (v.marks k).has c :=
    putMark_has l k .codeZero c true { v with lke := v.lke.set l.val { v.ctx l with presCode := 0 } }
  rw [commandAfter, settle_marks]
  exact effects

theorem commandAfter_marksKept : MarksKept v (commandAfter addr f l v) := fun k c marked => by
  rw [commandAfter_marks]
  split
  · rfl
  · exact marked

theorem commandAfter_codeZero : ((commandAfter addr f l v).marks l).codeZero = true :=
  (commandAfter_marks addr f l v l .codeZero).trans (if_pos ⟨rfl, rfl⟩)

theorem commandAfter_others {s : State} (others : OtherLockersKept l (unanswered s) v) :
    OtherLockersKept l s (commandAfter addr f l v) := fun k other =>
  ⟨by rw [commandAfter_ctx, if_neg other]; exact (others k other).1,
    ((commandAfter_within addr f l v).latches k).trans (others k other).2⟩

end

/-- Records handed over by a command's outcome stand in the queue after it, in a ring with room. -/
theorem commandAfter_handed {addr : Addr} {f : Word} {l : Locker} {s v : State} {rs : List Record}
    (handed : HandedAll rs (unanswered s) v) (room : v.ringFull = false) :
    HandedAll rs s (commandAfter addr f l v) := by
  have effects : Within [.lke, .marks, .cpi] v (forward (writeTxn addr [f]) .none (commonEffects l v)) :=
    commonEffects_within.widen.next forward_within
  have taken := handedAll_settle effects.unhanded (effects.ringFull.trans room)
  have all : HandedAll (rs ++ []) s (commandAfter addr f l v) := handedAll_trans handed taken
  rwa [List.append_nil] at all

/-- The words of the statements about what a command leaves, from the parts that its outcome can reach. -/
theorem commandAfter_kept {addr : Addr} {f : Word} {l : Locker} {s v : State} {bs : List Part}
    (w : Within bs (unanswered s) v) (sub : covers (settleParts ++ [.lke, .marks] ++ bs) bs = true := by rfl)
    (own : covers (settleParts ++ [.lke, .marks] ++ bs) (settleParts ++ [.lke, .marks]) = true := by rfl)
    (cpi : covers (settleParts ++ [.lke, .marks] ++ bs) [.cpi] = true := by rfl) :
    Within (settleParts ++ [.lke, .marks] ++ bs) s (commandAfter addr f l v) :=
  ((answer_within.widen cpi).next w sub).next (commandAfter_within addr f l v) own

/-! ### Every command (R63, R65) -/

theorem quarantine_ctx (l k : Locker) (r : Reason) (s : State) :
    (quarantine l r s).ctx k = if k = l then (s.ctx l).quarantined r else s.ctx k := by simp [quarantine]

theorem reportTimeout_ctx (l k : Locker) (h : Hatch) (i : Lifecycle) (s : State) :
    (reportTimeout l h i s).ctx k = s.ctx k := rfl

/-- No relatch outcome changes the presented order. -/
theorem relatchOutcome_presOrder (l : Locker) (h : Hatch) (o : RelatchOutcome) (s : State) :
    ((relatchOutcome l h o s).ctx l).presOrder = (s.ctx l).presOrder := by
  unfold relatchOutcome
  split
  · unfold relatchLoading
    dsimp only
    split <;> simp [reportTimeout_ctx]
  · unfold relatchCollecting
    dsimp only
    split
    · simp [Context.cleared]
    · split <;> simp
    · simp [reportTimeout_ctx]
  · unfold relatchClearing
    dsimp only
    split
    · simp [Context.cleared]
    · simp [quarantine_ctx, Context.quarantined]
    · rw [returnFromClearing, reportTimeout_ctx]
      split <;> simp
  all_goals rfl

theorem requestRelease_presOrder (l : Locker) (h : Hatch) (s : State) :
    ((requestRelease l h s).ctx l).presOrder = (s.ctx l).presOrder := by
  cases latched : s.bothLatched l with
  | true => rw [requestRelease_of_latched latched, startRelease_ctx]
  | false => rw [requestRelease_of_unlatched latched, relatchOutcome_presOrder]

/-- No outcome changes the presented order. -/
theorem applyOutcome_presOrder (l : Locker) (w : Word) (o : CmdOutcome) (s : State) :
    ((applyOutcome l w o s).ctx l).presOrder = (s.ctx l).presOrder := by
  unfold applyOutcome
  split
  · simp [acceptAssign]
  · simp [Context.cleared]
  · simp [acceptLoad, requestRelease_presOrder]
  · simp [acceptCollect, requestRelease_presOrder]
  · simp [acceptClear, requestRelease_presOrder]
  · unfold countAttempt
    dsimp only
    split <;> simp
  · rfl

/-- Settles O28: the forwarded word's fields, and the common effects behind whatever the outcome does. -/
theorem commandIsEvaluatedAndForwarded : Obligations.CommandIsEvaluatedAndForwarded := by
  intro c addr w s l row ready cell
  let v : State := applyOutcome l w (evaluate s l w) (unanswered s)
  have kept : Within (settleParts ++ [.lke, .marks] ++ lockerParts) s
      (commandAfter addr (forwardedWord w (evaluate s l w)) l v) := commandAfter_kept applyOutcome_within
  have others : OtherLockersKept l (unanswered s) v := applyOutcome_others
  refine ⟨_, exec_command row ready cell, ⟨_, commandAfter_cpi .., forwardedWord_fields w _⟩, ?_, ?_,
    commandAfter_codeZero .., commandAfter_others _ _ _ _ others, kept.outsideKept (by decide) (by decide),
    kept.clockKept (by decide) (by decide)⟩
  · rw [commandAfter_ctx, if_pos rfl]
  · rw [commandAfter_ctx, if_pos rfl]
    exact applyOutcome_presOrder l w _ (unanswered s)

/-! ### Refused commands (R64, R65, R74, R75) -/

theorem CmdKind.ofCode_collect {k : BitVec 4} (h : CmdKind.ofCode k = some .collect) : k = 4 := by
  revert h; revert k; decide

/-- An outcome other than ACCEPTED does nothing to the locker, but for COLLECT's CODE. -/
theorem applyOutcome_of_refused {l : Locker} {w : Word} {o : CmdOutcome} {s : State} (refused : o ≠ .accepted)
    (other : ¬ (cmdKind w = 4 ∧ o = .code)) : applyOutcome l w o s = s := by
  unfold applyOutcome
  split
  case h_6 => next collect => exact absurd ⟨CmdKind.ofCode_collect collect, rfl⟩ other
  case h_7 => rfl
  all_goals exact absurd rfl refused

/-- Settles O36: the common effects alone. -/
theorem refusedCommandChangesNothingElse : Obligations.RefusedCommandChangesNothingElse := by
  intro c addr w s l row ready cell refused other
  have ran := exec_command row ready cell
  rw [applyOutcome_of_refused refused other] at ran
  have kept : Within (settleParts ++ [.lke, .marks] ++ []) s
      (commandAfter addr (forwardedWord w (evaluate s l w)) l (unanswered s)) := commandAfter_kept .refl
  refine ⟨_, ran, ?_, commandAfter_others _ _ _ _ Others.refl, kept.ltc (by decide),
    kept.heatKept (by decide) (by decide) (by decide) (by decide), kept.samplesKept (by decide) (by decide),
    fun k d => commandAfter_marks addr _ l (unanswered s) k d, kept.ringKept (by decide) (by decide),
    kept.outsideKept (by decide) (by decide), kept.clockKept (by decide) (by decide)⟩
  rw [commandAfter_ctx, if_pos rfl]
  rfl

/-! ### ASSIGN (R46, R66) -/

theorem not_busy_of {s : State} {l : Locker} {life : Lifecycle} (h : (s.ctx l).life = life)
    (idle : life.inSequence = false) :
    ¬ ((s.ctx l).life = .loading ∨ (s.ctx l).life = .collecting ∨ (s.ctx l).life = .clearing) := by
  rw [h, ← Lifecycle.inSequence_iff]
  simp [idle]

theorem evaluate_assign {s : State} {l : Locker} {w : Word} {cls : BitVec 3} (kind : cmdKind w = 1)
    (ofCls : cmdClass w = cls) (vacant : (s.ctx l).life = .vacant)
    (served : (s.copies.classes[cls.toFin.val]).holdMin ≠ 0) (coded : (s.ctx l).presCode ≠ 0) :
    evaluate s l w = .accepted := by
  subst ofCls
  rw [((outcomeFollowsTestOrder.2 s l w).2.2 (not_busy_of vacant rfl)).1 kind, if_neg (not_not.mpr vacant)]
  exact (if_neg served).trans (if_neg coded)

theorem applyOutcome_assign {s : State} {l : Locker} {w : Word} {cls : BitVec 3} (kind : cmdKind w = 1)
    (ofCls : cmdClass w = cls) : applyOutcome l w .accepted s = acceptAssign l cls.toFin s := by
  have known : CmdKind.ofCode (cmdKind w) = some .assign := by rw [kind]; decide
  simp only [applyOutcome, known, ofCls]

/-- Settles O30: the tests of ASSIGN pass, and its one context change leaves the counts. -/
theorem assignBindsOrder : Obligations.AssignBindsOrder := by
  intro s addr tag cls hi l ready cell vacant served coded
  have ran := exec_command (c := .assign addr tag cls hi) rfl ready cell
  have kind := commandWord_kind tag 1 cls hi
  have ofCls := commandWord_class tag 1 cls hi
  generalize commandWord tag 1 cls hi = w at ran kind ofCls
  let c : Context := { s.ctx l with
    life := .assigned, reason := .none, customer := (s.ctx l).presCode, order := (s.ctx l).presOrder, cls := cls.toFin }
  have applied : applyOutcome l w .accepted (unanswered s) = putCtx l c (unanswered s) := applyOutcome_assign kind ofCls
  rw [evaluate_assign kind ofCls vacant served coded, applied] at ran
  have old : ((unanswered s).ctx l).life = .vacant := vacant
  have changed : Within [.lke, .marks, .entries] (unanswered s) (putCtx l c (unanswered s)) :=
    putCtx_within_of_free (by simp [old]) (by simp [c])
  have kept := commandAfter_kept (addr := addr) (f := forwardedWord w .accepted) (l := l) changed
  have mark : ((putCtx l c (unanswered s)).marks l).state = true := putCtx_stateMark (by simp [stateFieldsDiffer, c, old])
  have others : OtherLockersKept l (unanswered s) (putCtx l c (unanswered s)) := putCtx_others
  refine ⟨_, ran, ?_, commandAfter_marksKept _ _ _ _ l .state mark, commandAfter_codeZero .., commandAfter_others _ _ _ _ others,
    kept.ltc (by decide), (kept.chans (by decide)).1, kept.paths (by decide), kept.samplesKept (by decide) (by decide),
    kept.outsideKept (by decide) (by decide), kept.clockKept (by decide) (by decide),
    kept.ringKept (by decide) (by decide)⟩
  rw [commandAfter_ctx, if_pos rfl, putCtx_ctx, if_pos rfl]

end Sys2Proof.Machine
end

section
/-! PROOFS. CANCEL and LOAD, and what COLLECT and CLEAR share with them: the locker's transition, its release, and the outcomes at once (R42, R43,
R48 to R52, R56, R67 to R70, R73 to R75, R78, R84, R85, R147). -/

-- One theorem after the other: a thread for each would ask for more stack space than a build may have.
set_option Elab.async false

namespace Sys2Proof.Machine

/-! ### The kinds and their outcomes (R64, R67 to R70) -/

section
variable {s : State} {l : Locker} {w : Word}

theorem applyOutcome_cancel (kind : cmdKind w = 2) : applyOutcome l w .accepted s = enterVacant l s := by
  have known : CmdKind.ofCode (cmdKind w) = some .cancel := by rw [kind]; decide
  simp only [applyOutcome, known]

theorem applyOutcome_load (kind : cmdKind w = 3) : applyOutcome l w .accepted s = acceptLoad l s := by
  have known : CmdKind.ofCode (cmdKind w) = some .load := by rw [kind]; decide
  simp only [applyOutcome, known]

theorem applyOutcome_collect (kind : cmdKind w = 4) : applyOutcome l w .accepted s = acceptCollect l s := by
  have known : CmdKind.ofCode (cmdKind w) = some .collect := by rw [kind]; decide
  simp only [applyOutcome, known]

theorem applyOutcome_wrongCode (kind : cmdKind w = 4) : applyOutcome l w .code s = countAttempt l s := by
  have known : CmdKind.ofCode (cmdKind w) = some .collect := by rw [kind]; decide
  simp only [applyOutcome, known]

theorem applyOutcome_clear (kind : cmdKind w = 5) : applyOutcome l w .accepted s = acceptClear l s := by
  have known : CmdKind.ofCode (cmdKind w) = some .clear := by rw [kind]; decide
  simp only [applyOutcome, known]

theorem evaluate_cancel (kind : cmdKind w = 2) (life : (s.ctx l).life = .assigned ∨ (s.ctx l).life = .loadable) :
    evaluate s l w = .accepted := by
  have idle : ¬ ((s.ctx l).life = .loading ∨ (s.ctx l).life = .collecting ∨ (s.ctx l).life = .clearing) := by
    rcases life with h | h <;> simp [h]
  rw [((outcomeFollowsTestOrder.2 s l w).2.2 idle).2.1 kind, if_pos life]

theorem evaluate_load (kind : cmdKind w = 3) (life : (s.ctx l).life = .loadable) : evaluate s l w = .accepted := by
  rw [((outcomeFollowsTestOrder.2 s l w).2.2 (not_busy_of life rfl)).2.2.1 kind, if_pos life]

/-- The outcome of COLLECT for a HOLDING locker, by the codes and the lockout (R69). -/
theorem evaluate_collect (kind : cmdKind w = 4) (life : (s.ctx l).life = .holding) : evaluate s l w
    = if s.staffMatch (s.ctx l).presCode then .accepted
      else if (s.ctx l).lockedOut then .locked
      else if (s.ctx l).presCode ≠ (s.ctx l).customer then .code else .accepted := by
  rw [((outcomeFollowsTestOrder.2 s l w).2.2 (not_busy_of life rfl)).2.2.2.1 kind, if_neg (by simp [life]),
    if_neg (not_not.mpr life)]

theorem evaluate_clear (kind : cmdKind w = 5)
    (life : (s.ctx l).life = .holding ∨ (s.ctx l).life = .expired ∨ (s.ctx l).life = .quarantine)
    (staff : s.staffMatch (s.ctx l).presCode = true) (latched : s.bothLatched l = true) :
    evaluate s l w = .accepted := by
  have idle : ¬ ((s.ctx l).life = .loading ∨ (s.ctx l).life = .collecting ∨ (s.ctx l).life = .clearing) := by
    rcases life with h | h | h <;> simp [h]
  rw [((outcomeFollowsTestOrder.2 s l w).2.2 idle).2.2.2.2 kind, if_neg (not_not.mpr life), if_neg (by simp [staff]),
    if_pos ((s.bothLatched_iff l).mp latched)]

end

/-! ### The sweep and a locker that has left it (R17, R147) -/

/-- What follows an event reaches SMP by its own step alone, in OPERATING. -/
theorem settle_smp {s : State} (mode : s.mode = .operating) :
    ∃ u, Within [.cpi, .turns, .due] s u ∧ (settle s).smp = (smpSettle u).smp := by
  refine ⟨ahuSettle (mrwSettle (releaseHolds s)), ?_, ?_⟩
  · exact (releaseHolds_within.widen.next mrwSettle_within).next ahuSettle_within
  · simp only [settle, mode]
    have rest : Within [.queue, .ringOp] (smpSettle (ahuSettle (mrwSettle (releaseHolds s)))) _ := rpwSettle_within
    obtain ⟨sweep, owed, fastPos, toggle, req⟩ := rest.sweep (by decide)
    obtain ⟨fastPoll, fastDue⟩ := rest.fast (by decide)
    have recs := rest.recs (by decide)
    cases h : (rpwSettle (smpSettle (ahuSettle (mrwSettle (releaseHolds s))))).smp
    cases k : (smpSettle (ahuSettle (mrwSettle (releaseHolds s)))).smp
    simp_all

/-- A sweep's list does not hold a locker. -/
def SweepWithout (l : Locker) (s : State) : Prop := ∀ ls, s.smp.sweep = some ls → l ∉ ls

section
variable {l : Locker} {s : State}

theorem startSweep_without (vacant : s.isVacant l = true) : SweepWithout l (startSweep s) := by
  intro ls sweep listed
  cases Option.some.inj sweep
  simp [vacant] at listed

theorem sweepAdvance_without (vacant : s.isVacant l = true) (out : SweepWithout l s) :
    SweepWithout l (sweepAdvance s) := by
  unfold sweepAdvance
  split
  · exact out
  · next ls sweep =>
    split
    · next k rest left =>
      intro ks same listed
      cases Option.some.inj same
      exact out ls sweep ((List.dropWhile_suffix _).subset (left ▸ listed))
    · dsimp only
      split
      · split
        · intro ks same
          cases same
        · exact startSweep_without vacant
      · intro ks same
        cases same

theorem smpPick_sweep (s : State) : (smpPick s).smp.sweep = s.smp.sweep := by
  unfold smpPick
  split
  · rfl
  · rfl
  · rfl
  · split <;> rfl

theorem smpPick_frame (idle : s.smp.req = none) {k : Locker} (req : (smpPick s).smp.req = some (.frame, k)) :
    s.sweepHead = some k := by
  unfold smpPick at req
  split at req
  · rw [idle] at req; cases req
  · next head _ => cases req; exact head
  · cases req
  · next f q head _ =>
    split at req
    · cases req; exact head
    · cases req

theorem smpWithdraw_sweep (s : State) : (smpWithdraw s).smp.sweep = s.smp.sweep := by
  unfold smpWithdraw
  split
  · split <;> rfl
  · split <;> rfl
  · rfl

theorem smpWithdraw_frame {k : Locker} (req : (smpWithdraw s).smp.req = some (.frame, k)) :
    ∃ ls, s.smp.sweep = some ls ∧ k ∈ ls := by
  unfold smpWithdraw at req
  split at req
  · next standing =>
    split at req
    · rw [standing] at req; cases req
    · cases req
  · next j standing =>
    split at req
    · next listed =>
      rw [standing] at req
      cases req
      cases sweep : s.smp.sweep with
      | none => simp [sweep] at listed
      | some ls => exact ⟨ls, rfl, by simpa [sweep] using listed⟩
    · cases req
  · next standing => rw [standing] at req; cases req

theorem sweepAdvance_req (s : State) : (sweepAdvance s).smp.req = s.smp.req := by
  unfold sweepAdvance
  split
  · rfl
  · split
    · rfl
    · dsimp only
      split
      · split <;> rfl
      · rfl

/-- A VACANT locker that has left the sweep's list stays out of it, and no sweep read of it is raised. -/
theorem smpSettle_without (vacant : s.isVacant l = true) (out : SweepWithout l s) :
    SweepWithout l (smpSettle s) ∧ (smpSettle s).smp.req ≠ some (.frame, l) := by
  have withdrawn : SweepWithout l (smpWithdraw s) := by
    intro ls sweep
    rw [smpWithdraw_sweep] at sweep
    exact out ls sweep
  have still : (smpWithdraw s).isVacant l = true := by
    rw [State.isVacant, smpWithdraw_within.ctx l]
    exact vacant
  unfold smpSettle
  dsimp only
  split
  · next quiet =>
    have idle : (smpWithdraw s).smp.req = none := by
      rw [Bool.and_eq_true, Option.isNone_iff_eq_none] at quiet
      exact quiet.1
    have advanced := sweepAdvance_without still withdrawn
    refine ⟨fun ls sweep => advanced ls (smpPick_sweep _ ▸ sweep), fun req => ?_⟩
    have head := smpPick_frame ((sweepAdvance_req _).trans idle) req
    obtain ⟨ls, sweep, first⟩ := Option.bind_eq_some_iff.mp head
    exact advanced ls sweep (List.mem_of_mem_head? first)
  · refine ⟨withdrawn, fun req => ?_⟩
    obtain ⟨ls, sweep, listed⟩ := smpWithdraw_frame req
    exact out ls sweep listed

theorem settle_without (mode : s.mode = .operating) (vacant : s.isVacant l = true) (out : SweepWithout l s) :
    SweepWithout l (settle s) ∧ (settle s).smp.req ≠ some (.frame, l) := by
  obtain ⟨u, kept, smp⟩ := settle_smp mode
  have sweep : u.smp.sweep = s.smp.sweep := (kept.sweep (by decide)).1
  have still : u.isVacant l = true := by
    rw [State.isVacant, kept.ctx l]
    exact vacant
  have after := smpSettle_without still fun ls same => out ls (sweep ▸ same)
  rw [SweepWithout, smp]
  exact after

end

/-! ### CANCEL (R48, R67) -/

theorem enterVacant_without (l : Locker) (s : State) : SweepWithout l (enterVacant l s) := by
  intro ls sweep
  rw [enterVacant_sweep] at sweep
  obtain ⟨ks, -, rfl⟩ := Option.map_eq_some_iff.mp sweep
  simp

theorem commandAfter_without {addr : Addr} {f : Word} {l : Locker} {v : State} (mode : v.mode = .operating)
    (vacant : (v.ctx l).life = .vacant) (out : SweepWithout l v) : SweepWithout l (commandAfter addr f l v)
      ∧ (commandAfter addr f l v).smp.req ≠ some (.frame, l) := by
  have effects : Within [.lke, .marks, .cpi] v (forward (writeTxn addr [f]) .none (commonEffects l v)) :=
    commonEffects_within.widen.next forward_within
  refine settle_without (effects.mode.trans mode) ?_ fun ls sweep => out ls ?_
  · rw [State.isVacant, forward_ctx, commonEffects_ctx, if_pos rfl]
    simp [vacant]
  · exact (effects.sweep (by decide)).1.symm.trans sweep

/-- What an entry into VACANT leaves, of a locker that was not VACANT. -/
theorem enterVacant_entries {l : Locker} {s : State} (life : (s.ctx l).life ≠ .vacant) :
    l ∉ (enterVacant l s).hsc.hq ∧ l ∉ (enterVacant l s).hsc.wq := by
  have changed : (s.ctx l).life ≠ (s.ctx l).cleared.life := life
  obtain ⟨hq, wq⟩ := (enterVacant_tail (l := l) (s := s)).entries (by decide)
  rw [hq, wq]
  exact ⟨enterHalting_hq changed (by simp [Context.cleared, Context.reset]),
    enterHalting_wq changed (by simp [Context.cleared, Context.reset])⟩

/-- Settles O31: the entry into VACANT, and SMP's step after it. -/
theorem cancelClearsLocker : Obligations.CancelClearsLocker := by
  intro s addr tag cls hi l ready cell life distinct room
  have ran := exec_command (c := .cancel addr tag cls hi) rfl ready cell
  have kind := commandWord_kind tag 2 cls hi
  generalize commandWord tag 2 cls hi = w at ran kind
  rw [evaluate_cancel kind life, applyOutcome_cancel kind] at ran
  have free : (s.ctx l).life ≠ .quarantine := by rcases life with h | h <;> simp [h]
  have leaves : (s.ctx l).life ≠ .vacant := by rcases life with h | h <;> simp [h]
  have entered : Within [.lke, .marks, .entries, .chans, .paths, .recs, .sweep] (unanswered s)
      (enterVacant l (unanswered s)) := enterVacant_within_of_free free
  have kept := commandAfter_kept (addr := addr) (f := forwardedWord w .accepted) (l := l) entered
  have others : OtherLockersKept l (unanswered s) (enterVacant l (unanswered s)) := enterVacant_others
  have handed : HandedAll [] s (commandAfter addr (forwardedWord w .accepted) l (enterVacant l (unanswered s))) :=
    commandAfter_handed enterVacant_unhanded (entered.ringFull.trans room)
  obtain ⟨hq, wq⟩ := enterVacant_entries (s := unanswered s) leaves
  obtain ⟨sweep, req⟩ := commandAfter_without (addr := addr) (f := forwardedWord w .accepted)
    (entered.mode.trans ready.1) (by rw [enterVacant_ctx, if_pos rfl]; rfl) (enterVacant_without l (unanswered s))
  obtain ⟨heat, latch⟩ := enterVacant_errs l (unanswered s)
  refine ⟨_, ran, ?_, ?_, ?_, fun i => ?_, ?_, ?_, ?_, sweep, req, queue_of_unhanded handed, ?_,
    commandAfter_others _ _ _ _ others, kept.outsideKept (by decide) (by decide), kept.clockKept (by decide) (by decide),
    kept.ringKept (by decide) (by decide)⟩
  · rw [commandAfter_ctx, if_pos rfl, enterVacant_ctx, if_pos rfl]
    rfl
  · rwa [commandAfter_hsc]
  · rwa [commandAfter_hsc]
  · rw [commandAfter_chan]
    exact enterVacant_energised (s := unanswered s) distinct i
  · rwa [commandAfter_paths]
  · rwa [commandAfter_paths]
  · rw [commandAfter_sampler]
    exact enterVacant_sampler l _
  · rw [commandAfter_ltc]
    exact enterVacant_ltc

/-! ### A release that begins, and one that does not (R84, R85) -/

section
variable {s : State} {l : Locker} {h : Hatch} {c : Context} {addr : Addr} {f : Word}

theorem startRelease_others : OtherLockersKept l s (startRelease l h s) := fun k other =>
  ⟨startRelease_ctx .., by
    unfold startRelease
    dsimp only
    split
    · rw [haltLocker_latches, putLatch_latches, if_neg other]
    · rw [issueLatch_latches, putLatch_latches, if_neg other]⟩

/-- A release begun in the state a transition leaves is, after the command, a release begun in the state before it. -/
theorem commandAfter_begun {u : State} (attached : u.attachedChan l = s.attachedChan l)
    (latch : ∀ g, u.latch l g = s.latch l g) (path : (u.paths l).latch = (s.paths l).latch) :
    ReleaseBegun l h s (commandAfter addr f l (startRelease l h u)) := by
  have begun : ReleaseBegun l h s (startRelease l h u) := ReleaseBegun.after startRelease_begun attached latch path
  refine ReleaseBegun.before begun (commandAfter_latch addr f l _ l) (commandAfter_paths addr f l _ l)
    (fun marked => ?_) ((commandAfter_within addr f l _).fastPollAt l)
  exact commandAfter_marksKept addr f l _ l .latch marked

theorem enterHalting_release_within (old : (s.ctx l).life ≠ .quarantine) (new : c.life ≠ .quarantine) :
    Within [.lke, .ltc, .marks, .fast, .entries, .chans, .paths] s (startRelease l h (enterHalting l c s)) :=
  (enterHalting_within_of_free old new).widen.next startRelease_within

theorem enterHalting_release_others : OtherLockersKept l s (startRelease l h (enterHalting l c s)) :=
  Others.trans enterHalting_others startRelease_others

/-- What begins a release reads nothing of the answer. -/
theorem ReleaseBegun.of_unanswered {t : State} (begun : ReleaseBegun l h (unanswered s) t) : ReleaseBegun l h s t :=
  begun

theorem enterHalting_release_begun :
    ReleaseBegun l h s (commandAfter addr f l (startRelease l h (enterHalting l c s))) :=
  commandAfter_begun (enterHalting_attachedChan l l c s) (fun g => enterHalting_latch l c s l g)
    (enterHalting_latchPath l l c s)

theorem enterHalting_release_energised (d : ChannelsDistinct s) (i : Chan) :
    ((startRelease l h (enterHalting l c s)).chan i).st.energised ≠ some l :=
  startRelease_energised (enterHalting_channelsDistinct d) i

/-- What a hatch that counts as not opened makes of a LOADING locker. -/
theorem relatchOutcome_loading_notOpened (life : (s.ctx l).life = .loading) :
    relatchOutcome l .rear .notOpened s = reportTimeout l .rear .loadable
      (putCtx l { s.ctx l with life := .loadable, reason := .none, ret := .none } s) := by
  simp only [relatchOutcome, life, relatchLoading]

theorem relatchOutcome_collecting_notOpened (life : (s.ctx l).life = .collecting) :
    relatchOutcome l .front .notOpened s = reportTimeout l .front .holding
      (putCtx l { s.ctx l with life := .holding, reason := .none, ret := .none, collExp := none } s) := by
  simp only [relatchOutcome, life, relatchCollecting]

/-- The OPEN_TIMEOUT record, of a context just entered. -/
theorem reportTimeout_putCtx_handed (i : Lifecycle) : HandedAll
    [{ kind := .openTimeout, locker := BitVec.ofNat 8 l.val, detail := BitVec.ofNat 16 i.code, order := c.order,
       time := s.tmb.seconds, data := hatchWord h }] s (reportTimeout l h i (putCtx l c s)) := by
  have record : lockerRecord (putCtx l c s) .openTimeout l i.code (BitVec.ofNat 32 (hatchCode h))
      = { kind := .openTimeout, locker := BitVec.ofNat 8 l.val, detail := BitVec.ofNat 16 i.code, order := c.order,
          time := s.tmb.seconds, data := hatchWord h } := by
    rw [lockerRecord, putCtx_ctx, if_pos rfl, putCtx_tmb, hatchCode_word]
  have handed := handedAll_trans (putCtx_within (l := l) (c := c) (s := s)).unhanded
    (handRecord_handed (lockerRecord (putCtx l c s) .openTimeout l i.code (BitVec.ofNat 32 (hatchCode h))) (putCtx l c s))
  exact (congrArg (HandedAll [·] s _) record).mp handed

theorem reportTimeout_others {i : Lifecycle} (others : OtherLockersKept l s (putCtx l c s)) :
    OtherLockersKept l s (reportTimeout l h i (putCtx l c s)) := others

end

/-! ### LOAD (R49, R50, R68) -/

section
variable {s : State} {l : Locker}

/-- The context of a locker that LOAD makes LOADING. -/
abbrev Context.loading (c : Context) : Context := { c with life := .loading, reason := .none, ret := .loadable }

theorem acceptLoad_of_latched (latched : s.bothLatched l = true) :
    acceptLoad l s = startRelease l .rear (enterHalting l (s.ctx l).loading s) :=
  requestRelease_of_latched ((enterHalting_within.bothLatched l).trans latched)

theorem acceptLoad_of_unlatched (unlatched : s.bothLatched l = false) : acceptLoad l s
    = reportTimeout l .rear .loadable (putCtx l { s.ctx l with life := .loadable, reason := .none, ret := .none }
        (enterHalting l (s.ctx l).loading s)) := by
  have ctx : (enterHalting l (s.ctx l).loading s).ctx l = (s.ctx l).loading := by rw [enterHalting_ctx, if_pos rfl]
  have asked : acceptLoad l s = relatchOutcome l .rear .notOpened (enterHalting l (s.ctx l).loading s) :=
    requestRelease_of_unlatched ((enterHalting_within.bothLatched l).trans unlatched)
  rw [asked, relatchOutcome_loading_notOpened (by rw [ctx]), ctx]

end

/-! ### A return at once (R84) -/

section
variable {s : State} {l : Locker} {h : Hatch} {c d : Context} {i : Lifecycle}

/-- A return out of a sequence just entered with its entry actions. -/
theorem enterHalting_return_within (old : (s.ctx l).life ≠ .quarantine) (during : c.life ≠ .quarantine)
    (new : d.life ≠ .quarantine) : Within [.lke, .marks, .entries, .chans, .paths, .queue] s
      (reportTimeout l h i (putCtx l d (enterHalting l c s))) := by
  have entered : ((enterHalting l c s).ctx l).life ≠ .quarantine := by rwa [enterHalting_ctx, if_pos rfl]
  exact ((enterHalting_within_of_free old during).widen.next (putCtx_within_of_free entered new)).next
    reportTimeout_within

theorem enterHalting_return_handed : HandedAll
    [{ kind := .openTimeout, locker := BitVec.ofNat 8 l.val, detail := BitVec.ofNat 16 i.code, order := d.order,
       time := s.tmb.seconds, data := hatchWord h }] s (reportTimeout l h i (putCtx l d (enterHalting l c s))) := by
  have handed := handedAll_trans enterHalting_unhanded
    (reportTimeout_putCtx_handed (l := l) (s := enterHalting l c s) (h := h) (c := d) i)
  rwa [enterHalting_tmb] at handed

theorem enterHalting_return_others :
    OtherLockersKept l s (reportTimeout l h i (putCtx l d (enterHalting l c s))) :=
  Others.trans enterHalting_others (reportTimeout_others putCtx_others)

theorem enterHalting_return_energised (distinct : ChannelsDistinct s) (j : Chan) :
    ((reportTimeout l h i (putCtx l d (enterHalting l c s))).chan j).st.energised ≠ some l := by
  rw [reportTimeout_within.chan j, putCtx_chan]
  exact enterHalting_energised distinct j

theorem commandAfter_return_ctx {addr : Addr} {f : Word} {u : State} :
    (commandAfter addr f l (reportTimeout l h i (putCtx l d u))).ctx l = { d with presCode := 0 } := by
  rw [commandAfter_ctx, if_pos rfl, reportTimeout_ctx, putCtx_ctx, if_pos rfl]

end

/-- Settles O32: LOADING with its entry actions; then the release, or the outcome at once. -/
theorem loadReleasesRear : Obligations.LoadReleasesRear := by
  intro s addr tag cls hi l ready cell life distinct
  have ran := exec_command (c := .load addr tag cls hi) rfl ready cell
  have kind := commandWord_kind tag 3 cls hi
  generalize commandWord tag 3 cls hi = w at ran kind
  rw [evaluate_load kind life, applyOutcome_load kind] at ran
  have old : ((unanswered s).ctx l).life = .loadable := life
  have free : ((unanswered s).ctx l).life ≠ .quarantine := by simp [old]
  have changed : ((unanswered s).ctx l).life ≠ ((unanswered s).ctx l).loading.life := by simp [old]
  refine ⟨fun latched => ?_, fun unlatched room => ?_⟩
  · rw [acceptLoad_of_latched (s := unanswered s) latched] at ran
    have kept := commandAfter_kept (addr := addr) (f := forwardedWord w .accepted) (l := l)
      (enterHalting_release_within (h := .rear) (c := ((unanswered s).ctx l).loading) free (by simp))
    refine ⟨_, ran, ?_, ReleaseBegun.of_unanswered enterHalting_release_begun, ?_, fun i => ?_,
      commandAfter_others _ _ _ _ enterHalting_release_others, kept.outsideKept (by decide) (by decide),
      kept.clockKept (by decide) (by decide), kept.ringKept (by decide) (by decide)⟩
    · rw [commandAfter_ctx, if_pos rfl, startRelease_ctx, enterHalting_ctx, if_pos rfl]
      rfl
    · rw [commandAfter_hsc]
      exact fun listed => enterHalting_wq changed (by simp) (startRelease_entriesShrunk.2 listed)
    · rw [commandAfter_chan]
      exact enterHalting_release_energised (s := unanswered s) distinct i
  · rw [acceptLoad_of_unlatched (s := unanswered s) unlatched] at ran
    have returned := enterHalting_return_within (h := .rear) (i := .loadable) (c := ((unanswered s).ctx l).loading)
      (d := { (unanswered s).ctx l with life := .loadable, reason := .none, ret := .none }) free (by simp) (by simp)
    have kept := commandAfter_kept (addr := addr) (f := forwardedWord w .accepted) (l := l) returned
    refine ⟨_, ran, commandAfter_return_ctx, kept.ltc (by decide),
      commandAfter_handed enterHalting_return_handed (returned.ringFull.trans room), fun i => ?_,
      commandAfter_others _ _ _ _ enterHalting_return_others,
      kept.outsideKept (by decide) (by decide), kept.clockKept (by decide) (by decide),
      kept.ringKept (by decide) (by decide)⟩
    rw [commandAfter_chan]
    exact enterHalting_return_energised (s := unanswered s) distinct i

end Sys2Proof.Machine
end

section
/-! PROOFS. COLLECT and CLEAR: the releases they begin, and the attempts that COLLECT counts (R41, R51, R52, R56, R69,
R70, R73 to R75, R78, R84, R179). -/

-- One theorem after the other: a thread for each would ask for more stack space than a build may have.
set_option Elab.async false

namespace Sys2Proof.Machine

/-! ### A change of lifecycle before a release (R51, R84) -/

section
variable {s : State} {l : Locker} {h : Hatch} {c d : Context} {i : Lifecycle} {addr : Addr} {f : Word}

theorem putCtx_release_within (old : (s.ctx l).life ≠ .quarantine) (new : c.life ≠ .quarantine) :
    Within [.lke, .ltc, .marks, .fast, .entries, .chans, .paths] s (startRelease l h (putCtx l c s)) :=
  (putCtx_within_of_free old new).widen.next startRelease_within

theorem putCtx_release_others : OtherLockersKept l s (startRelease l h (putCtx l c s)) :=
  Others.trans putCtx_others startRelease_others

theorem putCtx_release_begun :
    ReleaseBegun l h s (commandAfter addr f l (startRelease l h (putCtx l c s))) :=
  commandAfter_begun (putCtx_attachedChan l c s l) (fun _ => putCtx_latch ..)
    (congrArg PathPair.latch (putCtx_paths l c s l))

theorem commandAfter_release_ctx {u : State} (entered : u.ctx l = c) :
    (commandAfter addr f l (startRelease l h u)).ctx l = { c with presCode := 0 } := by
  rw [commandAfter_ctx, if_pos rfl, startRelease_ctx, entered]

theorem putCtx_return_within (old : (s.ctx l).life ≠ .quarantine) (during : c.life ≠ .quarantine)
    (new : d.life ≠ .quarantine) : Within [.lke, .marks, .entries, .queue] s
      (reportTimeout l h i (putCtx l d (putCtx l c s))) := by
  have entered : ((putCtx l c s).ctx l).life ≠ .quarantine := by rwa [putCtx_ctx, if_pos rfl]
  exact ((putCtx_within_of_free old during).next (putCtx_within_of_free entered new)).widen.next reportTimeout_within

theorem putCtx_return_handed : HandedAll
    [{ kind := .openTimeout, locker := BitVec.ofNat 8 l.val, detail := BitVec.ofNat 16 i.code, order := d.order,
       time := s.tmb.seconds, data := hatchWord h }] s (reportTimeout l h i (putCtx l d (putCtx l c s))) := by
  have unhanded : HandedAll [] s (putCtx l c s) := putCtx_within.unhanded
  have handed := handedAll_trans unhanded
    (reportTimeout_putCtx_handed (l := l) (s := putCtx l c s) (h := h) (c := d) i)
  rwa [putCtx_tmb] at handed

theorem putCtx_return_others : OtherLockersKept l s (reportTimeout l h i (putCtx l d (putCtx l c s))) :=
  Others.trans putCtx_others (reportTimeout_others putCtx_others)

end

/-! ### COLLECT (R51, R69, R73, R74) -/

/-- The context of a locker that COLLECT makes COLLECTING, with the attempts it leaves. -/
abbrev Context.collecting (c : Context) (attempts : Nat) : Context :=
  { c with life := .collecting, reason := .none, ret := .holding, collExp := none, attempts := attempts }

/-- The attempts that COLLECT leaves. -/
def attemptsAfter (s : State) (l : Locker) : Nat :=
  if s.staffMatch (s.ctx l).presCode then (s.ctx l).attempts else 0

section
variable {s : State} {l : Locker} {w : Word}

theorem acceptCollect_of_latched (latched : s.bothLatched l = true) :
    acceptCollect l s = startRelease l .front (putCtx l ((s.ctx l).collecting (attemptsAfter s l)) s) :=
  requestRelease_of_latched ((putCtx_within.bothLatched l).trans latched)

theorem acceptCollect_of_unlatched (unlatched : s.bothLatched l = false) : acceptCollect l s
    = reportTimeout l .front .holding (putCtx l
        { (s.ctx l).collecting (attemptsAfter s l) with life := .holding, reason := .none, ret := .none, collExp := none }
        (putCtx l ((s.ctx l).collecting (attemptsAfter s l)) s)) := by
  have ctx : (putCtx l ((s.ctx l).collecting (attemptsAfter s l)) s).ctx l = (s.ctx l).collecting (attemptsAfter s l) := by
    rw [putCtx_ctx, if_pos rfl]
  have asked : acceptCollect l s
      = relatchOutcome l .front .notOpened (putCtx l ((s.ctx l).collecting (attemptsAfter s l)) s) :=
    requestRelease_of_unlatched ((putCtx_within.bothLatched l).trans unlatched)
  rw [asked, relatchOutcome_collecting_notOpened (by rw [ctx]), ctx]

theorem evaluate_collect_of_match (kind : cmdKind w = 4) (life : (s.ctx l).life = .holding)
    (matches_ : s.staffMatch (s.ctx l).presCode = true
      ∨ (s.ctx l).lockedOut = false ∧ (s.ctx l).presCode = (s.ctx l).customer) : evaluate s l w = .accepted := by
  rw [evaluate_collect kind life]
  split
  · rfl
  · next other =>
    obtain ⟨open_, code⟩ := matches_.resolve_left other
    rw [if_neg (by simp [open_]), if_neg (not_not.mpr code)]

theorem evaluate_collect_of_wrongCode (kind : cmdKind w = 4) (life : (s.ctx l).life = .holding)
    (staff : s.staffMatch (s.ctx l).presCode = false) (open_ : (s.ctx l).lockedOut = false)
    (code : (s.ctx l).presCode ≠ (s.ctx l).customer) : evaluate s l w = .code := by
  rw [evaluate_collect kind life, if_neg (by simp [staff]), if_neg (by simp [open_]), if_pos code]

end

/-- Settles O33: COLLECTING, then the front release, or the outcome at once. -/
theorem collectReleasesFront : Obligations.CollectReleasesFront := by
  intro s addr tag cls hi l attempts ready cell life distinct who
  have ran := exec_command (c := .collect addr tag cls hi) rfl ready cell
  have kind := commandWord_kind tag 4 cls hi
  generalize commandWord tag 4 cls hi = w at ran kind
  have left : attemptsAfter (unanswered s) l = attempts := by
    rcases who with ⟨staff, same⟩ | ⟨customer, -, -, zero⟩
    · exact (if_pos staff).trans same.symm
    · exact (if_neg (Bool.eq_false_iff.mp customer)).trans zero.symm
  have accepted : evaluate s l w = .accepted := evaluate_collect_of_match kind life (by
    rcases who with ⟨staff, -⟩ | ⟨-, open_, code, -⟩
    · exact .inl staff
    · exact .inr ⟨open_, code⟩)
  rw [accepted, applyOutcome_collect kind] at ran
  have old : ((unanswered s).ctx l).life = .holding := life
  have free : ((unanswered s).ctx l).life ≠ .quarantine := by simp [old]
  have changed : ((unanswered s).ctx l).life ≠ (((unanswered s).ctx l).collecting attempts).life := by simp [old]
  refine ⟨fun latched => ?_, fun unlatched room => ?_⟩
  · rw [acceptCollect_of_latched (s := unanswered s) latched, left] at ran
    have kept := commandAfter_kept (addr := addr) (f := forwardedWord w .accepted) (l := l)
      (putCtx_release_within (h := .front) (c := ((unanswered s).ctx l).collecting attempts) free (by simp))
    refine ⟨_, ran, commandAfter_release_ctx ((putCtx_ctx ..).trans (if_pos rfl)),
      ReleaseBegun.of_unanswered putCtx_release_begun, ?_,
      commandAfter_others _ _ _ _ putCtx_release_others, kept.outsideKept (by decide) (by decide),
      kept.clockKept (by decide) (by decide), kept.ringKept (by decide) (by decide)⟩
    rw [commandAfter_hsc]
    exact fun listed => putCtx_hq_dropped changed (by simp) (startRelease_entriesShrunk.1 listed)
  · rw [acceptCollect_of_unlatched (s := unanswered s) unlatched, left] at ran
    have returned := putCtx_return_within (h := .front) (i := .holding) (c := ((unanswered s).ctx l).collecting attempts)
      (d := { ((unanswered s).ctx l).collecting attempts with
        life := .holding, reason := .none, ret := .none, collExp := none }) free (by simp) (by simp)
    have kept := commandAfter_kept (addr := addr) (f := forwardedWord w .accepted) (l := l) returned
    exact ⟨_, ran, commandAfter_return_ctx, kept.ltc (by decide),
      commandAfter_handed putCtx_return_handed (returned.ringFull.trans room), (kept.chans (by decide)).1,
      commandAfter_others _ _ _ _ putCtx_return_others, kept.outsideKept (by decide) (by decide),
      kept.clockKept (by decide) (by decide), kept.ringKept (by decide) (by decide)⟩

/-! ### CLEAR (R41, R56, R70, R179) -/

section
variable {s : State} {l : Locker}

/-- The context of a locker that CLEAR makes CLEARING. -/
abbrev Context.clearing (c : Context) : Context := { c with life := .clearing, ret := clearReturn c.life }

theorem acceptClear_of_latched (latched : s.bothLatched l = true) :
    acceptClear l s = startRelease l .rear (enterHalting l (s.ctx l).clearing s) :=
  requestRelease_of_latched ((enterHalting_within.bothLatched l).trans latched)

end

/-- Settles O34: CLEARING with its entry actions and the rear release; QUARANTINE left is counted. -/
theorem clearReleasesRear : Obligations.ClearReleasesRear := by
  intro s addr tag cls hi l r ready cell member staff latched distinct
  have ran := exec_command (c := .clear addr tag cls hi) rfl ready cell
  have kind := commandWord_kind tag 5 cls hi
  generalize commandWord tag 5 cls hi = w at ran kind
  obtain ⟨life, ret⟩ : ((s.ctx l).life = .holding ∨ (s.ctx l).life = .expired ∨ (s.ctx l).life = .quarantine)
      ∧ clearReturn (s.ctx l).life = r := by
    simp only [List.mem_cons, Prod.mk.injEq, List.not_mem_nil, or_false] at member
    rcases member with ⟨h, rfl⟩ | ⟨h, rfl⟩ | ⟨h, rfl⟩ <;> simp [h, clearReturn]
  subst ret
  rw [evaluate_clear kind life staff latched, applyOutcome_clear kind,
    acceptClear_of_latched (s := unanswered s) latched] at ran
  have old : ((unanswered s).ctx l).life = (s.ctx l).life := rfl
  have changed : ((unanswered s).ctx l).life ≠ ((unanswered s).ctx l).clearing.life := by
    rw [old]; rcases life with h | h | h <;> simp [h]
  have kept := commandAfter_kept (addr := addr) (f := forwardedWord w .accepted) (l := l)
    (enterHalting_within.widen.next startRelease_within :
      Within [.lke, .ltc, .marks, .fast, .entries, .counts, .chans, .paths] (unanswered s)
        (startRelease l .rear (enterHalting l ((unanswered s).ctx l).clearing (unanswered s))))
  refine ⟨_, ran, commandAfter_release_ctx ((enterHalting_ctx ..).trans (if_pos rfl)),
    ReleaseBegun.of_unanswered enterHalting_release_begun, ?_, fun i => ?_, ?_,
    commandAfter_others _ _ _ _ enterHalting_release_others, kept.outsideKept (by decide) (by decide),
    kept.clockKept (by decide) (by decide)⟩
  · rw [commandAfter_hsc]
    exact fun listed => enterHalting_hq changed (by simp) (startRelease_entriesShrunk.1 listed)
  · rw [commandAfter_chan]
    exact enterHalting_release_energised (s := unanswered s) distinct i
  · rw [commandAfter_quarantined, (startRelease_within.counts (by decide)).1, enterHalting_quarantined]
    unfold countQuarantine
    rw [if_neg (by simp), old]
    by_cases quarantined : (s.ctx l).life = .quarantine
    · rw [if_pos ⟨quarantined, by simp⟩, if_pos quarantined]
    · rw [if_neg (fun left => quarantined left.1), if_neg quarantined]

/-! ### Attempts (R74, R75, R78) -/

/-- The context of a locker whose counted attempt starts a lockout. -/
abbrev Context.lockout (c : Context) (o : Copies) : Context :=
  { c with attempts := c.attempts + 1, lockedOut := true, lockoutLeft := o.lockoutMin * 60 }

section
variable {s : State} {l : Locker}

theorem countAttempt_of_below (below : (s.ctx l).attempts + 1 ≠ s.copies.lockoutAttempts) :
    countAttempt l s = putCtx l { s.ctx l with attempts := (s.ctx l).attempts + 1 } s := if_neg below

theorem countAttempt_of_limit (limit : (s.ctx l).attempts + 1 = s.copies.lockoutAttempts) : countAttempt l s
    = handRecord (lockerRecord s .lockout l ((s.ctx l).attempts + 1) (BitVec.ofNat 32 (s.copies.lockoutMin * 60)))
        (putCtx l ((s.ctx l).lockout s.copies) s) := if_pos limit

theorem countAttempt_within : Within [.lke, .marks, .queue] s (countAttempt l s) := by
  by_cases limit : (s.ctx l).attempts + 1 = s.copies.lockoutAttempts
  · rw [countAttempt_of_limit limit]
    have changed : Within [.lke, .marks] s (putCtx l ((s.ctx l).lockout s.copies) s) := putCtx_within_of_life rfl
    exact changed.widen.next handRecord_within
  · rw [countAttempt_of_below limit]
    have changed : Within [.lke, .marks] s (putCtx l { s.ctx l with attempts := (s.ctx l).attempts + 1 } s) :=
      putCtx_within_of_life rfl
    exact changed.widen

theorem countAttempt_stateMark : ((countAttempt l s).marks l).state = true := by
  by_cases limit : (s.ctx l).attempts + 1 = s.copies.lockoutAttempts
  · rw [countAttempt_of_limit limit, handRecord_within.marksAt l]
    exact putCtx_stateMark (by simp [stateFieldsDiffer])
  · rw [countAttempt_of_below limit]
    exact putCtx_stateMark (by simp [stateFieldsDiffer])

theorem countAttempt_others : OtherLockersKept l s (countAttempt l s) := by
  by_cases limit : (s.ctx l).attempts + 1 = s.copies.lockoutAttempts
  · rw [countAttempt_of_limit limit]
    exact putCtx_others
  · rw [countAttempt_of_below limit]
    exact putCtx_others

end

/-- Settles O35: the attempt counted, and the lockout that the last one starts. -/
theorem wrongCodeCountsAndLocksOut : Obligations.WrongCodeCountsAndLocksOut := by
  intro s addr tag cls hi l ready cell life staff open_ code room
  have ran := exec_command (c := .collect addr tag cls hi) rfl ready cell
  have kind := commandWord_kind tag 4 cls hi
  generalize commandWord tag 4 cls hi = w at ran kind
  rw [evaluate_collect_of_wrongCode kind life staff open_ code, applyOutcome_wrongCode kind] at ran
  have counted : Within [.lke, .marks, .queue] (unanswered s) (countAttempt l (unanswered s)) := countAttempt_within
  have kept := commandAfter_kept (addr := addr) (f := forwardedWord w .code) (l := l) counted
  have full : (countAttempt l (unanswered s)).ringFull = false := counted.ringFull.trans room
  refine ⟨_, ran, fun below => ?_, fun limit => ?_, commandAfter_marksKept _ _ _ _ l .state countAttempt_stateMark,
    kept.ltc (by decide), kept.heatKept (by decide) (by decide) (by decide) (by decide),
    commandAfter_others _ _ _ _ countAttempt_others, kept.outsideKept (by decide) (by decide),
    kept.clockKept (by decide) (by decide), kept.samplesKept (by decide) (by decide),
    kept.ringKept (by decide) (by decide)⟩
  · rw [countAttempt_of_below (s := unanswered s) below] at full ⊢
    exact ⟨by rw [commandAfter_ctx, if_pos rfl, putCtx_ctx, if_pos rfl]; rfl,
      queue_of_unhanded (commandAfter_handed putCtx_within.unhanded full)⟩
  · rw [countAttempt_of_limit (s := unanswered s) limit] at full ⊢
    refine ⟨?_, ?_⟩
    · rw [commandAfter_ctx, if_pos rfl, handRecord_ctx, putCtx_ctx, if_pos rfl, ← limit]
      rfl
    · rw [← limit]
      exact commandAfter_handed (handedAll_trans putCtx_within.unhanded (handRecord_handed _ _)) full

end Sys2Proof.Machine
end

section
/-! PROOFS. The report ring: RPW's step after an event, the landings that advance the ring, and the records that a full ring
or a full queue drops (R9, R11, R174 to R176, R178, R186). -/

-- One theorem after the other: a thread for each would ask for more stack space than a build may have.
set_option Elab.async false

namespace Sys2Proof.Machine

/-! ### RPW's step after an event (R175) -/

/-- RPW as it starts its next operation. -/
def Rpw.started (full : Bool) (r : Rpw) : Rpw :=
  if r.statusMark then { r with op := .statusReq }
  else if r.queue.isEmpty then r
  else if full then (if r.dropAll.statusMark then { r.dropAll with op := .statusReq } else r.dropAll)
  else { r with op := .recordReq }

/-- RPW starts an operation when it is adopted, has none, and no ring read stands. -/
abbrev State.ringIdle (s : State) : Prop := s.rpw.adopted = true ∧ s.rpw.op = .idle ∧ s.ringReadStands = false

theorem rpwSettle_rpw (s : State) :
    (rpwSettle s).rpw = if s.ringIdle then s.rpw.started s.ringFull else s.rpw := by
  have gate : (s.rpw.adopted && decide (s.rpw.op = .idle) && !s.ringReadStands) = decide s.ringIdle := by
    simp [State.ringIdle, Bool.and_assoc]
  have start : (rpwStart s).rpw = s.rpw.started s.ringFull := by
    unfold rpwStart Rpw.started
    dsimp only
    split
    · rfl
    · split
      · rfl
      · split
        · split <;> rfl
        · rfl
  unfold rpwSettle
  rw [gate]
  by_cases idle : s.ringIdle
  · rw [if_pos (by simpa using idle), if_pos idle, start]
  · rw [if_neg (by simpa using idle), if_neg idle]

theorem ringReadStands_congr {s t : State} (cpi : t.cpi = s.cpi) (copies : t.copies = s.copies) :
    t.ringReadStands = s.ringReadStands := by simp only [State.ringReadStands, cpi, copies]

/-- The release of holds leaves the read standing. -/
theorem releaseHolds_ringReadStands (s : State) : (releaseHolds s).ringReadStands = s.ringReadStands := by
  unfold releaseHolds
  split
  · next x mirror ring held =>
    dsimp only
    have stood : s.ringReadStands = (!x.write && x.touchesRing s.copies) := by simp only [State.ringReadStands, held]
    rw [stood]
    split <;> rfl
  all_goals rfl

/-- What follows an event reaches RPW by its own step alone. -/
theorem settle_rpw {s : State} (runs : s.mode = .restoring ∨ s.mode = .operating) :
    (settle s).rpw = if s.ringIdle then s.rpw.started s.ringFull else s.rpw := by
  obtain ⟨u, kept, stands, same⟩ : ∃ u, Within [.cpi, .turns, .due, .sweep] s u
      ∧ u.ringReadStands = s.ringReadStands ∧ settle s = rpwSettle u := by
    rcases runs with h | h
    · have quiet : Within [.turns, .due] s (ahuSettle (mrwSettle s)) := mrwSettle_within.widen.next ahuSettle_within
      exact ⟨_, quiet.widen, ringReadStands_congr (quiet.cpi (by decide)).1 quiet.copies, by simp [settle, h]⟩
    · have quiet : Within [.turns, .due, .sweep] (releaseHolds s) (smpSettle (ahuSettle (mrwSettle (releaseHolds s)))) :=
        (mrwSettle_within.widen.next ahuSettle_within).next smpSettle_within
      refine ⟨_, releaseHolds_within.widen.next quiet,
        (ringReadStands_congr (quiet.cpi (by decide)).1 quiet.copies).trans (releaseHolds_ringReadStands s),
        by simp [settle, h]⟩
  have rpw : u.rpw = s.rpw := kept.rpw_eq
  have idle : u.ringIdle ↔ s.ringIdle := by simp only [State.ringIdle, rpw, stands]
  rw [same, rpwSettle_rpw, if_congr idle rfl rfl, kept.ringFull, rpw]

section
variable {s : State}

theorem settle_rpw_of_not_idle (busy : ¬ s.ringIdle) : (settle s).rpw = s.rpw := by
  by_cases runs : s.mode = .restoring ∨ s.mode = .operating
  · rw [settle_rpw runs, if_neg busy]
  · rw [settle_of_still (by cases h : s.mode <;> simp_all)]

theorem settle_rpw_of_ringIdle (runs : s.mode = .restoring ∨ s.mode = .operating) (idle : s.ringIdle) :
    (settle s).rpw = s.rpw.started s.ringFull := by rw [settle_rpw runs, if_pos idle]

theorem settle_rpw_of_busy (busy : s.rpw.op ≠ .idle) : (settle s).rpw = s.rpw :=
  settle_rpw_of_not_idle fun idle => busy idle.2.1

theorem settle_rpw_of_ringRead (stands : s.ringReadStands = true) : (settle s).rpw = s.rpw :=
  settle_rpw_of_not_idle fun idle => by simp [idle.2.2] at stands

end

/-! ### What is started (R175) -/

section
variable {r : Rpw}

theorem Rpw.started_of_mark (mark : r.statusMark = true) (full : Bool) : r.started full = { r with op := .statusReq } :=
  if_pos mark

theorem Rpw.started_of_nothing (mark : r.statusMark = false) (empty : r.queue = []) (full : Bool) :
    r.started full = r := by
  rw [started, if_neg (by simp [mark]), if_pos (by simp [empty])]

theorem Rpw.started_of_room (mark : r.statusMark = false) (some : r.queue ≠ []) :
    r.started false = { r with op := .recordReq } := by
  rw [started, if_neg (by simp [mark]), if_neg (by simpa using some), if_neg (by simp)]

/-- The lost count, the overrun and the mark after several records have been dropped. -/
theorem foldl_countLoss (q : List Record) (r : Rpw) (some : q ≠ []) :
    (q.foldl (fun r _ => r.countLoss) r).lost = min 255 (r.lost + q.length)
      ∧ (q.foldl (fun r _ => r.countLoss) r).overrun = true
      ∧ (q.foldl (fun r _ => r.countLoss) r).statusMark = (r.statusMark || decide (r.lost < 255) || !r.overrun) := by
  induction q generalizing r with
  | nil => exact absurd rfl some
  | cons a q ih =>
    cases q with
    | nil => exact ⟨rfl, rfl, rfl⟩
    | cons b q =>
      obtain ⟨lost, overrun, mark⟩ := ih r.countLoss (by simp)
      refine ⟨lost.trans ?_, overrun, mark.trans ?_⟩
      · simp only [Rpw.countLoss, Config.lostMax, List.length_cons]
        omega
      · have less : min 255 (r.lost + 1) < 255 → r.lost < 255 := by omega
        simp only [Rpw.countLoss, Config.lostMax, Bool.not_true, Bool.or_false]
        by_cases below : r.lost < 255
        · simp [below]
        · simp [below, mt less below]

/-- In a full ring every record of the queue is dropped and counted. -/
theorem Rpw.started_of_full (mark : r.statusMark = false) (some : r.queue ≠ []) :
    (r.started true).queue = [] ∧ (r.started true).lost = min 255 (r.lost + r.queue.length)
      ∧ (r.started true).overrun = true
      ∧ (r.lost < 255 ∨ r.overrun = false → (r.started true).statusMark = true ∧ (r.started true).op = .statusReq)
      ∧ (255 ≤ r.lost → r.overrun = true → (r.started true).statusMark = false ∧ (r.started true).op = r.op) := by
  obtain ⟨lost, overrun, dropped⟩ := foldl_countLoss r.queue r some
  have queue : r.dropAll.queue = [] := rfl
  have op : r.dropAll.op = r.op := (dropAll_ring r).2.2.2.2.2.2.2.2.1
  have marked : r.dropAll.statusMark = (decide (r.lost < 255) || !r.overrun) := by
    rw [show r.dropAll.statusMark = _ from dropped, mark, Bool.false_or]
  rw [started, if_neg (by simp [mark]), if_neg (by simpa using some), if_pos rfl]
  by_cases changed : r.lost < 255 ∨ r.overrun = false
  · have marks : r.dropAll.statusMark = true := by rw [marked]; simpa using changed
    rw [if_pos marks]
    exact ⟨queue, lost, overrun, fun _ => ⟨marks, rfl⟩, fun high set => by
      rcases changed with below | clear
      · exact absurd below (by omega)
      · simp [clear] at set⟩
  · have marks : r.dropAll.statusMark = false := by
      rw [not_or] at changed
      rw [marked]
      simpa using changed
    rw [if_neg (by simp [marks])]
    exact ⟨queue, lost, overrun, fun yes => absurd yes changed, fun _ _ => ⟨marks, op⟩⟩

end

/-- With no STATUS mark and no record RPW starts nothing. -/
theorem settle_rpw_of_nothing {s : State} (mark : s.rpw.statusMark = false) (empty : s.rpw.queue = []) :
    (settle s).rpw = s.rpw := by
  by_cases runs : s.mode = .restoring ∨ s.mode = .operating
  · rw [settle_rpw runs, Rpw.started_of_nothing mark empty, ite_self]
  · rw [settle_of_still (by cases h : s.mode <;> simp_all)]

/-! ### Landings (R11, R175, R178, R186) -/

section
variable {s : State} {m : MTxn}

theorem exec_ringRecordLand (port : s.mpi.port = some m) (tag : m.tag = .ringRecord) :
    exec .ringRecordLand s = .next (settle (recordLanded (freePort m s))) := by
  obtain ⟨_, x⟩ := m
  cases tag
  simp [exec, execRingRecordLand, port, done]

theorem exec_writeIndexLand (port : s.mpi.port = some m) (tag : m.tag = .ringWriteIndex) {k : ReportKind}
    (op : s.rpw.op = .indexFly k) : exec .writeIndexLand s = .next (settle (indexLanded k (freePort m s))) := by
  obtain ⟨_, x⟩ := m
  cases tag
  simp [exec, execWriteIndexLand, port, op, done]

theorem exec_writeCellZero (port : s.mpi.port = some m) (tag : m.tag = .ringWriteIndex) (op : s.rpw.op = .idle) :
    exec .writeIndexLand s = .next (settle (writeCellZeroed (freePort m s))) := by
  obtain ⟨_, x⟩ := m
  cases tag
  simp [exec, execWriteIndexLand, port, op, done]

theorem exec_statusLand (port : s.mpi.port = some m) (tag : m.tag = .ringStatus) :
    exec .statusLand s = .next (settle (statusLanded (freePort m s))) := by
  obtain ⟨_, x⟩ := m
  cases tag
  simp [exec, execStatusLand, port, done]

theorem recordLanded_within : Within [.queue, .ringOp] s (recordLanded s) := by
  unfold recordLanded
  split
  · constructor <;> simp
  · exact .refl

theorem indexLanded_within {k : ReportKind} : Within [.ring, .ringOp] s (indexLanded k s) := by
  constructor <;> simp [indexLanded]

theorem writeCellZeroed_within : Within [.ring] s (writeCellZeroed s) := by constructor <;> simp [writeCellZeroed]

theorem statusLanded_within : Within [.ring, .ringOp] s (statusLanded s) := by
  unfold statusLanded
  split <;> constructor <;> simp

/-- A landing that ends an operation releases a RING hold (R11), and RPW starts nothing while the read stands. -/
theorem settle_released {u : State} (kept : Within [.mpi, .mem, .ring, .ringOp] s u) (op : u.rpw.op = .idle)
    (mode : s.mode = .operating) (x : Txn) (mirror : Bool) (held : s.cpi = .held x false mirror true) :
    (mirror = false ∨ s.mrw.promo = [] → (settle u).cpi = .waiting x .none)
      ∧ (mirror = true → s.mrw.promo ≠ [] → (settle u).cpi = .held x false true false)
      ∧ (x.write = false → x.touchesRing s.copies = true → (settle u).rpw.op = .idle) := by
  have hold : u.cpi = .held x false mirror true := (kept.cpi (by decide)).1.trans held
  have promo : u.mrw.promo = s.mrw.promo := (kept.turns (by decide)).2.2.1
  have after := settle_cpi_of_hold (kept.mode.trans mode) hold
  rw [op, promo] at after
  refine ⟨fun ended => ?_, fun yes some => ?_, fun read touches => ?_⟩
  · rw [after]
    rcases ended with h | h <;> simp [h, RingOp.inFlight]
  · rw [after]
    simp [yes, some, RingOp.inFlight]
  · have stands : u.ringReadStands = true := by
      rw [ringReadStands_congr (s := s) ((kept.cpi (by decide)).1) kept.copies]
      simp [State.ringReadStands, held, read, touches]
    rw [settle_rpw_of_ringRead stands, op]

end

/-- The landings, with what each leaves of RPW. -/
theorem ringLandings : RingLandings := by
  intro s m port
  refine ⟨fun r rest tag queue => ?_, fun k tag op => ?_, fun tag op adopted => ?_, fun tag adopted => ?_,
    fun tag adopted => ?_⟩
  · have landed : Within [.mpi, .mem, .queue, .ringOp] s (recordLanded (freePort m s)) :=
      freePort_within.widen.next recordLanded_within
    have rpw : (recordLanded (freePort m s)).rpw = { s.rpw with queue := rest, op := .indexReq r.kind } := by
      simp only [recordLanded, show (freePort m s).rpw.queue = r :: rest from queue]
      rfl
    have after : (settle (recordLanded (freePort m s))).rpw = _ := settle_rpw_of_busy (by simp [rpw])
    refine ⟨_, exec_ringRecordLand port tag, by rw [after, rpw], by rw [after, rpw], ?_,
      ringKept_settle (landed.ringKept (by decide) (by decide)),
      lockersKept_settle (landed.lockersKept (by decide) (by decide)), fun x held => ?_⟩
    · rw [settle_mem, recordLanded_within.mem (by decide)]
      rfl
    · have hold := (landed.cpi (by decide)).1.trans held
      rw [held]
      by_cases mode : s.mode = .operating
      · rw [settle_cpi_of_hold (landed.mode.trans mode) hold, rpw]
        rfl
      · rw [(settle_cpi_eq _).1, if_neg (by rwa [landed.mode]), hold]
  · have landed : Within [.mpi, .mem, .ring, .ringOp] s (indexLanded k (freePort m s)) :=
      freePort_within.widen.next indexLanded_within
    exact ⟨_, exec_writeIndexLand port tag op, settle_write _, settle_read _, settle_attention _, settle_mem _,
      lockersKept_settle (landed.lockersKept (by decide) (by decide)), settle_released landed rfl⟩
  · have landed : Within [.mpi, .mem, .ring] s (writeCellZeroed (freePort m s)) :=
      freePort_within.widen.next writeCellZeroed_within
    exact ⟨_, exec_writeCellZero port tag op, settle_stage _, settle_mem _,
      lockersKept_settle (landed.lockersKept (by decide) (by decide))⟩
  · have landed : Within [.mpi, .mem, .ringOp] s (statusLanded (freePort m s)) := by
      have step : Within [.ringOp] (freePort m s) (statusLanded (freePort m s)) := by
        rw [statusLanded, if_pos (show (freePort m s).rpw.adopted = true from adopted)]
        constructor <;> simp
      exact freePort_within.widen.next step
    have rpw : (statusLanded (freePort m s)).rpw = { s.rpw with op := .idle } := by
      rw [statusLanded, if_pos (show (freePort m s).rpw.adopted = true from adopted)]
      rfl
    refine ⟨_, exec_statusLand port tag, ?_, ringKept_settle (landed.ringKept (by decide) (by decide)),
      lockersKept_settle (landed.lockersKept (by decide) (by decide)), settle_released landed.widen (by rw [rpw]),
      fun empty mark => ?_⟩
    · rw [settle_mem, statusLanded_within.mem (by decide)]
      rfl
    · rw [settle_rpw_of_nothing (by rw [rpw]; exact mark) (by rw [rpw]; exact empty), rpw]
  · have landed : Within [.mpi, .mem, .ring, .ringOp] s (statusLanded (freePort m s)) :=
      freePort_within.widen.next statusLanded_within
    have rpw : (statusLanded (freePort m s)).rpw = { s.rpw with adopted := true, stage := .done } := by
      rw [statusLanded, if_neg (by simp [show (freePort m s).rpw.adopted = false from adopted])]
      rfl
    refine ⟨_, exec_statusLand port tag, by rw [settle_adopted, rpw], by rw [settle_attention, rpw], ?_,
      lockersKept_settle (landed.lockersKept (by decide) (by decide))⟩
    rw [settle_mem, statusLanded_within.mem (by decide)]
    rfl

/-! ### Records dropped (R174 to R176) -/

theorem fullRingDrops : FullRingDrops := by
  intro s m k port tag op adopted runs noRead some size full
  let u : State := indexLanded k (freePort m s)
  have landed : Within [.mpi, .mem, .ring, .ringOp] s u := freePort_within.widen.next indexLanded_within
  have idle : u.ringIdle :=
    ⟨adopted, rfl, (ringReadStands_congr (landed.cpi (by decide)).1 landed.copies).trans noRead⟩
  have after : (settle u).rpw = u.rpw.started u.ringFull :=
    settle_rpw_of_ringIdle (by rw [landed.mode]; exact runs.symm) idle
  refine ⟨_, exec_writeIndexLand port tag op, fun mark => ?_, fun mark room => ?_, fun mark isFull => ?_,
    settle_attention u, lockersKept_settle (landed.lockersKept (by decide) (by decide))⟩
  · rw [after, Rpw.started_of_mark (show u.rpw.statusMark = true from mark)]
    exact ⟨rfl, rfl, rfl⟩
  · have free : u.ringFull = false := decide_eq_false room
    rw [after, free, Rpw.started_of_room (show u.rpw.statusMark = false from mark) some]
    exact ⟨rfl, rfl, rfl, rfl, mark⟩
  · have filled : u.ringFull = true := decide_eq_true isFull
    rw [after, filled]
    exact Rpw.started_of_full (r := u.rpw) mark some

theorem Rpw.hand_of_short {r : Rpw} (short : r.queue.length < 4) (rec : Record) :
    r.hand rec = { r with queue := r.queue ++ [rec] } := if_pos short

theorem Rpw.hand_of_long {r : Rpw} (long : 4 ≤ r.queue.length) (rec : Record) : r.hand rec = r.countLoss :=
  if_neg (Nat.not_lt.mpr long)

theorem classify_of_guardCause {s : State} {x : Txn} {a : Addr} (mode : s.mode = .operating)
    (guard : causeOf s x a = some .guard) (l : Locker) (cell : Fin 16) : classify s.copies a ≠ .ltw l cell := by
  intro table
  rw [causeOf_operating mode, causeOperating, table] at guard
  simp only [causeLtw] at guard
  split at guard
  · cases guard
  · split at guard
    · split at guard <;> cases guard
    · split at guard <;> cases guard

/-- RPW after the refusal of a write for GUARD. -/
theorem refuse_guard_rpw {s : State} {x : Txn} {a : Addr} (mode : s.mode = .operating)
    (guard : causeOf s x a = some .guard) :
    (refuse .guard a s).rpw = s.rpw.hand (recordOfNone s .writeRefused 1 (a.zeroExtend 32)) := by
  have record : beatRecord s .writeRefused 1 a = recordOfNone s .writeRefused 1 (a.zeroExtend 32) :=
    beatRecord_of_none .writeRefused 1 fun l cell table => absurd table (classify_of_guardCause mode guard l cell)
  rw [← record]
  rfl

theorem handOffMeetsTheRing : HandOffMeetsTheRing := by
  intro s addr lanes data x r changed ready adopted guard
  have governs : governing s x = some (.guard, x.beatAddr 0) := by
    refine governing_of_first (by simp [x]) guard (by simp) fun before after order d ahead j below => ?_
    obtain rfl : j = 0 := by simpa [x] using below
    rw [guard]
    rintro same
    cases same
    have nodup : causeOrder.Nodup := by decide
    rw [order] at nodup
    exact (List.nodup_append.mp nodup).2.2 _ ahead _ (by simp) rfl
  have arrives := arrive_refused (by simp [ready.1]) rfl governs
  have ran := exec_controllerWrite (addr := addr) (lanes := lanes) (data := [data]) ready rfl
  have kept := settle_refuse_within .guard (x.beatAddr 0) s
  let u : State := refuse .guard (x.beatAddr 0) (unanswered s)
  let lost : Record := recordOfNone s .writeRefused 1 ((x.beatAddr 0).zeroExtend 32)
  have rpw : u.rpw = r.hand lost := refuse_guard_rpw (s := unanswered s) ready.1 guard
  refine ⟨settle u, ran.trans (congrArg (Host.Outcome.next ∘ settle) arrives), fun busy short => ?_,
    fun busy long => ?_, fun idle mark short full => ?_, settle_refuse_answer .., kept.lockersKept (by decide) (by decide)⟩
  · rw [Rpw.hand_of_short short] at rpw
    rw [settle_rpw_of_busy (by rw [rpw]; exact busy), rpw]
  · rw [Rpw.hand_of_long long] at rpw
    rw [settle_rpw_of_busy (by rw [rpw]; exact busy), rpw]
    refine ⟨rfl, rfl, rfl, rfl, fun changes => ?_, fun same => ?_, kept.ringKept (by decide) (by decide)⟩
    · rcases changes with h | h <;> simp [Rpw.countLoss, Config.lostMax, h]
    · obtain ⟨high, set⟩ := not_or.mp same
      simp [Rpw.countLoss, Config.lostMax, high, Bool.eq_true_of_not_eq_false set]
  · rw [Rpw.hand_of_short short] at rpw
    have refused : Within [.cpi, .queue] s u := answer_within.widen.next refuse_within
    have ready' : u.ringIdle := ⟨by rw [rpw]; exact adopted, by rw [rpw]; exact idle, by
      simp only [State.ringReadStands, u, refuse_cpi]⟩
    have after : (settle u).rpw = u.rpw.started u.ringFull :=
      settle_rpw_of_ringIdle (.inr (refused.mode.trans ready.1)) ready'
    obtain ⟨queue, count, overrun, marks, saturated⟩ := Rpw.started_of_full (r := { r with queue := r.queue ++ [lost] })
      mark (by simp)
    rw [refused.ringFull, full, rpw] at after
    rw [after]
    exact ⟨queue, by rw [count]; simp [Nat.add_assoc], overrun, marks, fun same => by
        obtain ⟨high, set⟩ := not_or.mp same
        obtain ⟨clear, op⟩ := saturated (Nat.le_of_not_lt high) (Bool.eq_true_of_not_eq_false set)
        exact ⟨clear, op.trans idle⟩,
      kept.ringKept (by decide) (by decide)⟩

/-- Settles O50. -/
theorem ringLandingsAdvanceTheRing : Obligations.RingLandingsAdvanceTheRing :=
  ⟨ringLandings, fullRingDrops, handOffMeetsTheRing⟩

end Sys2Proof.Machine
end

section
/-! PROOFS. The probe interval, and the requests of AHU and SMP after an event (R132, R133, R145, R147 to R149). -/

-- One theorem after the other: a thread for each would ask for more stack space than a build may have.
set_option Elab.async false

namespace Sys2Proof.Machine

/-! ### First from a position on (R132, R148) -/

theorem FirstFrom.congr {count start : Nat} {P Q : Locker → Prop} {k : Locker}
    (same : ∀ j : Locker, j.val < count → (P j ↔ Q j)) (h : FirstFrom count P start k) : FirstFrom count Q start k := by
  obtain ⟨below, met, first⟩ := h
  exact ⟨below, (same k below).mp met, fun j inside holds => first j inside ((same j inside).mpr holds)⟩

theorem movedPast_locSucc (count : Nat) (k : Locker) : MovedPast count k (locSucc k count) := by
  have inside : k.val + 1 < min 64 count ↔ k.val + 1 < count ∧ k.val + 1 < 64 := by omega
  unfold MovedPast locSucc
  split
  · next h => rw [if_pos (inside.mpr h)]
  · next h => rw [if_neg (mt inside.mp h)]; rfl

/-! ### AHU's request after an event (R132) -/

section
variable {s : State}

theorem probing_congr {s t : State} (paths : t.ahu.paths = s.ahu.paths) : t.probing = s.probing := by
  funext l
  simp only [State.probing, paths_of_ahu paths]

theorem dropSuperseded_due (s : State) (l : Locker) :
    (dropSuperseded s).ahu.due[l.val] = (s.ahu.due[l.val] && s.probing l) := by
  simp [dropSuperseded]

theorem ahuPick_due (s : State) (l : Locker) : (ahuPick s).ahu.due[l.val] = s.ahu.due[l.val] := by
  unfold ahuPick
  split <;> rfl

/-- A locker with no path in PROBING is due no more. -/
theorem ahuSettle_due (s : State) (l : Locker) : (ahuSettle s).ahu.due[l.val] = (s.ahu.due[l.val] && s.probing l) := by
  unfold ahuSettle
  dsimp only
  split
  · rw [ahuPick_due, dropSuperseded_due]
  · rw [dropSuperseded_due]

theorem dropSuperseded_req (s : State) : (dropSuperseded s).ahu.req = s.ahu.req.filter s.probing := rfl

theorem dropSuperseded_probePos (s : State) : (dropSuperseded s).ahu.probePos = s.ahu.probePos := by
  unfold dropSuperseded
  rfl

theorem probeFlying_congr {s t : State} (mpi : t.mpi = s.mpi) : t.probeFlying = s.probeFlying := by
  simp only [State.probeFlying, mpi]

theorem dropSuperseded_probeFlying (s : State) : (dropSuperseded s).probeFlying = s.probeFlying :=
  probeFlying_congr (dropSuperseded_within.mpi (by decide))

theorem ahuPick_nextProbe {u : State} {due : Locker → Prop} (copies : u.copies = s.copies)
    (pos : u.ahu.probePos = s.ahu.probePos) (req : u.ahu.req = none) (same : ∀ l, u.ahu.due[l.val] = true ↔ due l) :
    NextProbe s (ahuPick u) due := by
  rw [NextProbe, ← copies, ← pos]
  constructor
  · intro k first
    have found := searchFrom_of_firstFrom (p := fun l => u.ahu.due[l.val]) (FirstFrom.congr (fun j _ => (same j).symm) first)
    rw [ahuPick, State.lockers, found]
    exact ⟨rfl, movedPast_locSucc ..⟩
  · intro none
    have missed := searchFrom_eq_none (p := fun l => u.ahu.due[l.val])
      (fun j below => Bool.eq_false_iff.mpr (mt (same j).mp (none j below))) u.ahu.probePos.val
    rw [ahuPick, State.lockers, missed]
    exact ⟨req, rfl⟩

theorem ahuSettle_of_quiet (idle : s.ahu.req.filter s.probing = none) (quiet : s.probeFlying = false) :
    ahuSettle s = ahuPick (dropSuperseded s) := by
  rw [ahuSettle, dropSuperseded_req, idle, dropSuperseded_probeFlying, quiet]
  rfl

theorem ahuSettle_of_standing {l : Locker} (req : s.ahu.req.filter s.probing = some l) :
    ahuSettle s = dropSuperseded s := by
  rw [ahuSettle, dropSuperseded_req, req]
  rfl

theorem ahuSettle_of_flying (flies : s.probeFlying = true) : ahuSettle s = dropSuperseded s := by
  rw [ahuSettle, dropSuperseded_probeFlying, flies, Bool.not_true, Bool.and_false, if_neg (by decide)]

/-- With no probe standing or in flight AHU takes the next of the lockers that are due and probing. -/
theorem ahuSettle_nextProbe (req : s.ahu.req = none) (quiet : s.probeFlying = false) :
    NextProbe s (ahuSettle s) fun l => s.ahu.due[l.val] = true ∧ s.probing l = true := by
  have idle : s.ahu.req.filter s.probing = none := by rw [req]; rfl
  rw [ahuSettle_of_quiet idle quiet]
  exact ahuPick_nextProbe dropSuperseded_within.copies (dropSuperseded_probePos s) idle fun l => by
    rw [dropSuperseded_due, Bool.and_eq_true]

/-- A request whose locker is still probing stands. -/
theorem ahuSettle_standing {l : Locker} (req : s.ahu.req = some l) (probing : s.probing l = true) :
    (ahuSettle s).ahu.req = some l ∧ (ahuSettle s).ahu.probePos = s.ahu.probePos := by
  have stands : s.ahu.req.filter s.probing = some l := by rw [req, Option.filter_some, if_pos probing]
  rw [ahuSettle_of_standing stands, dropSuperseded_req, stands]
  exact ⟨rfl, dropSuperseded_probePos s⟩

/-- While a probe is in flight no request is raised. -/
theorem ahuSettle_flying (req : s.ahu.req = none) (flies : s.probeFlying = true) : (ahuSettle s).ahu.req = none := by
  rw [ahuSettle_of_flying flies, dropSuperseded_req, req]
  rfl

/-- What follows an event reaches AHU by its own step alone. -/
theorem settle_ahu (runs : s.mode = .restoring ∨ s.mode = .operating) :
    ∃ u, Within [.cpi, .turns] s u ∧ (settle s).ahu = (ahuSettle u).ahu := by
  have same {u v : State} (w : Within [.sweep, .queue, .ringOp] u v) : v.ahu = u.ahu := by
    obtain ⟨due, pos, req⟩ := w.due (by decide)
    have paths := w.paths (by decide)
    cases h : v.ahu
    cases k : u.ahu
    simp_all
  rcases runs with h | h
  · refine ⟨mrwSettle s, mrwSettle_within.widen, ?_⟩
    simp only [settle, h]
    exact same rpwSettle_within.widen
  · refine ⟨mrwSettle (releaseHolds s), releaseHolds_within.widen.next mrwSettle_within, ?_⟩
    simp only [settle, h]
    exact same (smpSettle_within.widen.next rpwSettle_within)

/-- The words of the statements about AHU's request, after what follows an event. -/
theorem settle_ahu_due (runs : s.mode = .restoring ∨ s.mode = .operating) (l : Locker) :
    (settle s).ahu.due[l.val] = (s.ahu.due[l.val] && s.probing l) := by
  obtain ⟨u, kept, ahu⟩ := settle_ahu runs
  rw [ahu, ahuSettle_due, probing_congr (kept.paths (by decide))]
  simp only [(kept.due (by decide)).1]

theorem settle_nextProbe (runs : s.mode = .restoring ∨ s.mode = .operating) (req : s.ahu.req = none)
    (quiet : s.probeFlying = false) :
    NextProbe s (settle s) fun l => s.ahu.due[l.val] = true ∧ s.probing l = true := by
  obtain ⟨u, kept, ahu⟩ := settle_ahu runs
  obtain ⟨due, pos, standing⟩ := kept.due (by decide)
  have next := ahuSettle_nextProbe (s := u) (standing.trans req)
    ((probeFlying_congr (kept.mpi (by decide))).trans quiet)
  rw [probing_congr (kept.paths (by decide))] at next
  simp only [NextProbe, due, pos, kept.copies, ← ahu] at next
  exact next

theorem settle_ahu_standing (runs : s.mode = .restoring ∨ s.mode = .operating) {l : Locker} (req : s.ahu.req = some l)
    (probing : s.probing l = true) : (settle s).ahu.req = some l ∧ (settle s).ahu.probePos = s.ahu.probePos := by
  obtain ⟨u, kept, ahu⟩ := settle_ahu runs
  obtain ⟨-, pos, standing⟩ := kept.due (by decide)
  rw [ahu, ← pos]
  exact ahuSettle_standing (standing.trans req) (by rw [probing_congr (kept.paths (by decide)), probing])

end

/-! ### SMP's request after an event (R147 to R149) -/

section
variable {s : State}

theorem fastHead_of_first {k : Locker}
    (first : FirstFrom s.copies.lockerCount (fun l => s.smp.fastDue[l.val] = true) s.smp.fastPos.val k) :
    s.fastHead = some k := searchFrom_of_firstFrom first

theorem fastHead_of_none (none : ∀ k : Locker, k.val < s.copies.lockerCount → ¬ s.smp.fastDue[k.val] = true) :
    s.fastHead = .none := searchFrom_eq_none (fun j below => by simpa using none j below) _

/-- SMP's choice, of the sweep's head and the first locker due. -/
theorem smpPick_nextPoll (req : s.smp.req = none) :
    NextPoll s (smpPick s) s.sweepHead fun l => s.smp.fastDue[l.val] = true := by
  refine ⟨fun f head turn => ?_, fun k first turn => ?_, fun head none => ?_⟩
  · cases fast : s.fastHead with
    | none =>
      simp only [smpPick, head, fast]
      exact ⟨rfl, rfl, rfl⟩
    | some q =>
      have toggle : s.smp.toggle = .frame := turn.resolve_right fun none => by
        rw [fastHead_of_none none] at fast
        cases fast
      simp only [smpPick, head, fast, toggle]
      exact ⟨rfl, rfl, rfl⟩
  · have fast := fastHead_of_first first
    cases head : s.sweepHead with
    | none =>
      simp only [smpPick, head, fast]
      exact ⟨rfl, rfl, movedPast_locSucc ..⟩
    | some f =>
      have toggle : s.smp.toggle = .fast := turn.resolve_right (by simp [head])
      simp only [smpPick, head, fast, toggle]
      exact ⟨rfl, rfl, movedPast_locSucc ..⟩
  · simp only [smpPick, head, fastHead_of_none none, and_true]
    exact req

/-- VACANT lockers at the front of a sweep are passed over. -/
theorem sweepAdvance_of_head {before after : List Locker} {f : Locker} (sweep : s.smp.sweep = some (before ++ f :: after))
    (passed : ∀ k ∈ before, (s.ctx k).life = .vacant) (stays : (s.ctx f).life ≠ .vacant) :
    sweepAdvance s = { s with smp := { s.smp with sweep := some (f :: after) } } := by
  have dropped : (before ++ f :: after).dropWhile s.isVacant = f :: after := by
    rw [List.dropWhile_append_of_pos fun k listed => by simpa [State.isVacant] using passed k listed,
      List.dropWhile_cons_of_neg (by simpa [State.isVacant] using stays)]
  simp only [sweepAdvance, sweep, dropped]

theorem smpSettle_of_quiet (req : s.smp.req = none) (quiet : s.pollFlying = false) :
    smpSettle s = smpPick (sweepAdvance s) := by
  have withdrawn : smpWithdraw s = s := by simp only [smpWithdraw, req]
  simp [smpSettle, withdrawn, req, quiet]

theorem smpSettle_nextPoll (req : s.smp.req = none) (quiet : s.pollFlying = false) :
    (∀ before f after, s.smp.sweep = some (before ++ f :: after) → (∀ k ∈ before, (s.ctx k).life = .vacant) →
        (s.ctx f).life ≠ .vacant → NextPoll s (smpSettle s) (some f) fun l => s.smp.fastDue[l.val] = true)
      ∧ (s.smp.sweep = none → NextPoll s (smpSettle s) none fun l => s.smp.fastDue[l.val] = true) := by
  rw [smpSettle_of_quiet req quiet]
  refine ⟨fun before f after sweep passed stays => ?_, fun sweep => ?_⟩
  · rw [sweepAdvance_of_head sweep passed stays]
    exact smpPick_nextPoll (s := { s with smp := { s.smp with sweep := some (f :: after) } }) req
  · have still : sweepAdvance s = s := by simp only [sweepAdvance, sweep]
    have head : s.sweepHead = none := by simp [State.sweepHead, sweep]
    rw [still, ← head]
    exact smpPick_nextPoll req

/-- A fast poll requested for a member of the fast-poll set stands. -/
theorem smpSettle_standing {l : Locker} (req : s.smp.req = some (.fast, l)) (member : s.smp.fastPoll[l.val] = true) :
    (smpSettle s).smp.req = some (.fast, l) := by
  have stands : smpWithdraw s = s := by simp only [smpWithdraw, req, member, if_true]
  simp [smpSettle, stands, req]

theorem smpSettle_flying (req : s.smp.req = none) (flies : s.pollFlying = true) : (smpSettle s).smp.req = none := by
  have withdrawn : smpWithdraw s = s := by simp only [smpWithdraw, req]
  simp [smpSettle, withdrawn, flies, req]

theorem pollFlying_congr {s t : State} (mpi : t.mpi = s.mpi) : t.pollFlying = s.pollFlying := by
  simp only [State.pollFlying, mpi]

end

/-! ### The probe interval (R132, R145, R148) -/

/-- The state that the probe-interval event leaves, before what follows it. -/
def intervalTaken (s : State) : State :=
  let u := ahuInterval { s with tmb := s.tmb.probeEvent s.copies.frameMs }
  if u.mode = .operating then smpInterval u else u

section
variable {s : State}

theorem exec_probeInterval (runs : s.tmb.probe ≠ none) : exec .probeInterval s = .next (settle (intervalTaken s)) := by
  have some : ¬ s.tmb.probe.isNone = true := by simpa using runs
  change execProbeInterval s = _
  rw [execProbeInterval, if_neg some]
  rfl

theorem ahuInterval_within : Within [.due] s (ahuInterval s) := by constructor <;> simp [ahuInterval]

theorem intervalTaken_within : Within [.tmb, .due, .fast] s (intervalTaken s) := by
  have clock : Within [.tmb, .due, .fast] s (ahuInterval { s with tmb := s.tmb.probeEvent s.copies.frameMs }) := by
    have ticked : Within [.tmb, .due, .fast] s { s with tmb := s.tmb.probeEvent s.copies.frameMs } := by
      constructor <;> simp
    exact ticked.next ahuInterval_within
  unfold intervalTaken
  dsimp only
  split
  · exact clock.next smpInterval_within
  · exact clock

theorem intervalTaken_due (l : Locker) : (intervalTaken s).ahu.due[l.val]
    = (s.ahu.due[l.val] || (decide (l.val < s.copies.lockerCount) && s.probing l)) := by
  have taken : (intervalTaken s).ahu.due = (ahuInterval s).ahu.due := by
    unfold intervalTaken
    dsimp only
    split <;> rfl
  simp only [taken, ahuInterval, Vector.getElem_ofFn]

theorem intervalTaken_fastDue (mode : s.mode = .operating) (l : Locker) :
    (intervalTaken s).smp.fastDue[l.val] = (s.smp.fastDue[l.val] || s.smp.fastPoll[l.val]) := by
  unfold intervalTaken
  dsimp only
  have calm : (ahuInterval { s with tmb := s.tmb.probeEvent s.copies.frameMs }).mode = .operating :=
    ahuInterval_within.mode.trans mode
  rw [if_pos calm]
  simp only [smpInterval, Vector.getElem_ofFn]
  rfl

theorem ahuInterval_req (s : State) :
    (ahuInterval s).ahu.req = s.ahu.req ∧ (ahuInterval s).ahu.probePos = s.ahu.probePos := by
  unfold ahuInterval
  exact ⟨rfl, rfl⟩

theorem intervalTaken_req (s : State) :
    (intervalTaken s).ahu.req = s.ahu.req ∧ (intervalTaken s).ahu.probePos = s.ahu.probePos := by
  have taken := ahuInterval_req { s with tmb := s.tmb.probeEvent s.copies.frameMs }
  unfold intervalTaken
  dsimp only
  split
  · obtain ⟨-, pos, req⟩ := (smpInterval_within (s := ahuInterval _)).due (by decide)
    exact ⟨req.trans taken.1, pos.trans taken.2⟩
  · exact taken

theorem intervalTaken_fastPoll (s : State) : (intervalTaken s).smp.fastPoll = s.smp.fastPoll := by
  have taken : (ahuInterval { s with tmb := s.tmb.probeEvent s.copies.frameMs }).smp.fastPoll = s.smp.fastPoll :=
    (ahuInterval_within.fast (by decide)).1
  unfold intervalTaken
  dsimp only
  split
  · rw [smpInterval]
    exact taken
  · exact taken

theorem intervalTaken_tmb (s : State) : (intervalTaken s).tmb = s.tmb.probeEvent s.copies.frameMs := by
  have clock : (ahuInterval { s with tmb := s.tmb.probeEvent s.copies.frameMs }).tmb = _ :=
    ahuInterval_within.tmb (by decide)
  unfold intervalTaken
  dsimp only
  split
  · exact (smpInterval_within.tmb (by decide)).trans clock
  · exact clock

end

theorem NextPoll.congr {s t : State} {head : Option Locker} {P Q : Locker → Prop} (same : ∀ l, P l ↔ Q l)
    (next : NextPoll s t head P) : NextPoll s t head Q := by
  obtain rfl : P = Q := funext fun l => propext (same l)
  exact next

/-- The choice of a read depends on the locker count, the toggle and the fast position alone. -/
theorem NextPoll.of_same {u s t : State} {head : Option Locker} {due : Locker → Prop} (copies : u.copies = s.copies)
    (toggle : u.smp.toggle = s.smp.toggle) (fastPos : u.smp.fastPos = s.smp.fastPos) (next : NextPoll u t head due) :
    NextPoll s t head due := by
  rw [NextPoll, ← copies, ← toggle, ← fastPos]
  exact next

/-- The choice of a probe depends on the locker count and the probe position alone. -/
theorem NextProbe.of_same {u s t : State} {due : Locker → Prop} (copies : u.copies = s.copies)
    (pos : u.ahu.probePos = s.ahu.probePos) (next : NextProbe u t due) : NextProbe s t due := by
  rw [NextProbe, ← copies, ← pos]
  exact next

theorem NextProbe.congr {s t : State} {P Q : Locker → Prop} (same : ∀ l : Locker, l.val < s.copies.lockerCount → (P l ↔ Q l))
    (next : NextProbe s t P) : NextProbe s t Q :=
  ⟨fun k first => next.1 k (FirstFrom.congr (fun j below => (same j below).symm) first),
    fun none => next.2 fun k below => mt (same k below).mp (none k below)⟩

/-- SMP's next read, after what follows an event. -/
theorem settle_nextPoll {s : State} (mode : s.mode = .operating) (req : s.smp.req = none) (quiet : s.pollFlying = false) :
    (∀ before f after, s.smp.sweep = some (before ++ f :: after) → (∀ k ∈ before, (s.ctx k).life = .vacant) →
        (s.ctx f).life ≠ .vacant → NextPoll s (settle s) (some f) fun l => s.smp.fastDue[l.val] = true)
      ∧ (s.smp.sweep = none → NextPoll s (settle s) none fun l => s.smp.fastDue[l.val] = true) := by
  obtain ⟨u, kept, smp⟩ := settle_smp mode
  obtain ⟨sweep, -, fastPos, toggle, standing⟩ := kept.sweep (by decide)
  obtain ⟨heads, fasts⟩ := smpSettle_nextPoll (s := u) (standing.trans req)
    ((pollFlying_congr (kept.mpi (by decide))).trans quiet)
  have fastDue : u.smp.fastDue = s.smp.fastDue := (kept.fast (by decide)).2
  have after {head : Option Locker} (next : NextPoll u (smpSettle u) head fun l => u.smp.fastDue[l.val] = true) :
      NextPoll s (settle s) head fun l => s.smp.fastDue[l.val] = true := by
    rw [NextPoll, smp]
    exact NextPoll.of_same kept.copies toggle fastPos (NextPoll.congr (fun l => by rw [fastDue]) next)
  exact ⟨fun before f rest list passed stays => after (heads before f rest (sweep.trans list)
      (fun k listed => by rw [kept.ctx k]; exact passed k listed) (by rwa [kept.ctx f])),
    fun list => after (fasts (sweep.trans list))⟩

theorem settle_smp_standing {s : State} (mode : s.mode = .operating) {l : Locker} (req : s.smp.req = some (.fast, l))
    (member : s.smp.fastPoll[l.val] = true) : (settle s).smp.req = some (.fast, l) := by
  obtain ⟨u, kept, smp⟩ := settle_smp mode
  rw [smp]
  exact smpSettle_standing ((kept.sweep (by decide)).2.2.2.2.trans req) ((kept.fastPollAt l).trans member)

theorem intervalMakesDue : IntervalMakesDue := by
  intro s runs
  let u : State := intervalTaken s
  have kept : Within [.tmb, .due, .fast] s u := intervalTaken_within
  have probing : u.probing = s.probing := probing_congr (kept.paths (by decide))
  have due (l : Locker) (below : l.val < s.copies.lockerCount) :
      (u.ahu.due[l.val] = true ∧ u.probing l = true) ↔ s.probing l = true := by
    rw [intervalTaken_due, probing]
    cases s.probing l <;> simp [below]
  obtain ⟨reqKept, posKept⟩ := intervalTaken_req s
  refine ⟨_, exec_probeInterval runs, ?_, ?_, ?_, ?_, ?_, ?_,
    lockersKept_settle (kept.lockersKept (by decide) (by decide)),
    heatKept_settle (kept.heatKept (by decide) (by decide) (by decide) (by decide)), ?_,
    outsideKept_settle (kept.outsideKept (by decide) (by decide))⟩
  · intro l below on
    by_cases calm : u.mode = .restoring ∨ u.mode = .operating
    · rw [settle_ahu_due calm l, Bool.and_eq_true]
      exact (due l below).mpr on
    · rw [settle_of_still (s := u) (by cases h : u.mode <;> simp_all)]
      exact ((due l below).mpr on).1
  · intro mode l member
    rw [settle_fastDue, intervalTaken_fastDue mode, member, Bool.or_true]
  · intro mode
    have calm : u.mode = .restoring ∨ u.mode = .operating := by rw [kept.mode]; exact mode.symm
    refine ⟨fun l below => ?_, fun req quiet => ?_, fun l req on => ?_⟩
    · rw [settle_ahu_due calm l, Bool.eq_iff_iff, Bool.and_eq_true]
      exact due l below
    · have next := settle_nextProbe calm (reqKept.trans req) ((probeFlying_congr (kept.mpi (by decide))).trans quiet)
      exact NextProbe.congr due (NextProbe.of_same kept.copies posKept next)
    · rw [← posKept]
      exact settle_ahu_standing calm (reqKept.trans req) (by rw [probing, on])
  · intro mode
    have calm : u.mode = .operating := kept.mode.trans mode
    obtain ⟨sweep, -, fastPos, toggle, standing⟩ := kept.sweep (by decide)
    refine ⟨fun req quiet => ?_, fun l req member => ?_⟩
    · obtain ⟨heads, fasts⟩ := settle_nextPoll calm (standing.trans req)
        ((pollFlying_congr (kept.mpi (by decide))).trans quiet)
      have polls (l : Locker) : u.smp.fastDue[l.val] = true ↔ s.smp.fastDue[l.val] = true ∨ s.smp.fastPoll[l.val] = true := by
        rw [intervalTaken_fastDue mode, Bool.or_eq_true]
      exact ⟨fun before f after list passed stays => NextPoll.congr polls (NextPoll.of_same kept.copies toggle fastPos
          (heads before f after (sweep.trans list) (fun k listed => by rw [kept.ctx k]; exact passed k listed)
            (by rwa [kept.ctx f]))),
        fun list => NextPoll.congr polls (NextPoll.of_same kept.copies toggle fastPos (fasts (sweep.trans list)))⟩
    · rw [req]
      exact settle_smp_standing calm (standing.trans req) (by simp only [u, intervalTaken_fastPoll, member])
  · rw [settle_tmb, intervalTaken_tmb]
    rfl
  · rw [settle_tmb, intervalTaken_tmb]
    rfl
  · exact samplesKept_settle ⟨kept.recs (by decide), intervalTaken_fastPoll s⟩

/-! ### Grants (R132, R148) -/

/-- What follows an event takes no locker back into a due set, and raises no request while a probe is in flight. -/
theorem settle_ahu_flying {s : State} {l : Locker} (req : s.ahu.req = none) (flies : s.probeFlying = true)
    (due : s.ahu.due[l.val] = false) : (settle s).ahu.due[l.val] = false ∧ (settle s).ahu.req = none := by
  by_cases runs : s.mode = .restoring ∨ s.mode = .operating
  · obtain ⟨u, kept, ahu⟩ := settle_ahu runs
    refine ⟨by rw [settle_ahu_due runs, due, Bool.false_and], ?_⟩
    rw [ahu]
    exact ahuSettle_flying ((kept.due (by decide)).2.2.trans req)
      ((probeFlying_congr (kept.mpi (by decide))).trans flies)
  · rw [settle_of_still (by cases h : s.mode <;> simp_all)]
    exact ⟨due, req⟩

theorem settle_smp_flying {s : State} (req : s.smp.req = none) (flies : s.pollFlying = true) :
    (settle s).smp.req = none := by
  cases mode : s.mode with
  | inReset | validating | unconfigured => simp [settle, mode, req]
  | restoring =>
    have rest : Within [.turns, .due, .queue, .ringOp] s (rpwSettle (ahuSettle (mrwSettle s))) :=
      (mrwSettle_within.widen.next ahuSettle_within).next rpwSettle_within
    simp only [settle, mode]
    exact (rest.sweep (by decide)).2.2.2.2.trans req
  | operating =>
    obtain ⟨u, kept, smp⟩ := settle_smp mode
    rw [smp]
    exact smpSettle_flying ((kept.sweep (by decide)).2.2.2.2.trans req)
      ((pollFlying_congr (kept.mpi (by decide))).trans flies)

theorem ahu_req_of_grant {s : State} {x : Txn} {l : Locker} (next : nextGrant s = some (.ahu, ⟨.probe l, x⟩)) :
    s.ahu.req = some l := by
  obtain ⟨k, req, same⟩ := Option.map_eq_some_iff.mp (request_of_nextGrant next)
  cases same
  exact req

theorem smp_req_of_grant {s : State} {x : Txn} {k : PollKind} {l : Locker}
    (next : nextGrant s = some (.smp, ⟨.poll k l, x⟩)) : s.smp.req = some (k, l) := by
  have asks : smpRequest s = some ⟨.poll k l, x⟩ := request_of_nextGrant next
  unfold smpRequest at asks
  split at asks
  · obtain ⟨_, -, same⟩ := Option.map_eq_some_iff.mp asks
    cases same
  · obtain ⟨p, req, same⟩ := Option.map_eq_some_iff.mp asks
    cases same
    exact req

theorem grantEndsDue : GrantEndsDue := by
  intro s x l free
  refine ⟨fun next => ⟨_, exec_mportGrant free next, ?_⟩, fun next => ⟨_, exec_mportGrant free next, ?_⟩⟩
  · have req := ahu_req_of_grant next
    let u : State := { s with mpi := { pointer := Requester.ahu.succ, port := some ⟨.probe l, x⟩ } }
    have granted : grant .ahu ⟨.probe l, x⟩ s = leaveDue l { u with ahu := { s.ahu with req := none } } := by
      simp only [grant, grantedAt, ahuGranted, req]
      rfl
    rw [granted]
    exact settle_ahu_flying rfl rfl (by simp [leaveDue])
  · have req := smp_req_of_grant next
    let u : State := { s with mpi := { pointer := Requester.smp.succ, port := some ⟨.poll .fast l, x⟩ } }
    have granted : grant .smp ⟨.poll .fast l, x⟩ s
        = { u with smp := { s.smp with req := none, fastDue := s.smp.fastDue.set l.val false } } := by
      simp only [grant, grantedAt, smpGranted, req]
      rfl
    rw [granted]
    exact ⟨by rw [settle_fastDue]; simp, settle_smp_flying rfl rfl⟩

/-! ### Probes round the lockers (R132, R133) -/

theorem judgePath_of_still {s : State} {l : Locker} {k : PathKind} {w : Option Word}
    (still : ((s.paths l).get k).st ≠ .probing) : judgePath l w s k = s := by
  unfold judgePath
  exact if_neg still

theorem judgeProbe_of_still {s : State} {l : Locker} {w : Option Word} (still : s.probing l = false) :
    judgeProbe l w s = s := by
  simp only [State.probing, Bool.or_eq_false_iff, decide_eq_false_iff_not] at still
  rw [judgeProbe, judgePath_of_still (k := .heat) still.1, judgePath_of_still (k := .latch) still.2]

theorem exec_probeComplete {s : State} {x : Txn} {l : Locker} (p : List PortWrite) (fault : Bool)
    (port : s.mpi.port = some ⟨.probe l, x⟩) : exec (.probeComplete p fault) s
      = .next (settle (judgeProbe l (beatWord fault ((s.mem.port2 p).readBeats x))
          { s with mpi := { s.mpi with port := none }, mem := s.mem.port2 p })) := by
  simp only [exec, execProbeComplete, port, done, readBack]

theorem probesGoRound : ProbesGoRound := by
  intro s x l p fault mode port still req
  have ran := exec_probeComplete p fault port
  let u : State := { s with mpi := { s.mpi with port := none }, mem := s.mem.port2 p }
  rw [judgeProbe_of_still (s := u) still] at ran
  have kept : Within [.mpi, .mem] s u := readBack_within
  exact ⟨_, ran, settle_nextProbe (s := u) mode.symm req rfl, fun k => settle_ahu_due (s := u) mode.symm k,
    settle_ahu_paths u, lockersKept_settle (kept.lockersKept (by decide) (by decide))⟩

/-- Settles O51. -/
theorem probeIntervalMakesLockersDue : Obligations.ProbeIntervalMakesLockersDue :=
  ⟨intervalMakesDue, grantEndsDue, probesGoRound⟩

end Sys2Proof.Machine
end

section
/-! PROOFS. The seconds event at the lockers: hold timing, lockouts and expiry (R42, R44, R53, R76, R144, R156 to
R158). -/

-- One theorem after the other: a thread for each would ask for more stack space than a build may have.
set_option Elab.async false

namespace Sys2Proof.Machine

/-! ### One locker's share (R76, R157, R158) -/

section
variable {s : State} {l : Locker}

theorem counted_iff (c : Context) : c.counted = true ↔ c.life = .holding ∨ c.life = .collecting := by
  simp [Context.counted]

theorem isCold_iff (s : State) (l : Locker) :
    s.isCold l = true ↔ ∃ v, (s.sampler l).latest = some v ∧ v < (s.opts l).lower := by
  unfold State.isCold
  cases (s.sampler l).latest <;> simp

theorem countLocker_of_counted (counted : (s.ctx l).life = .holding ∨ (s.ctx l).life = .collecting) :
    countLocker l s = putCtx l (timesCounted s l) s := by
  unfold countLocker
  dsimp only
  rw [if_pos ((counted_iff _).mpr counted)]
  unfold timesCounted countUp Config.countMax
  simp only [isCold_iff]

theorem countLocker_of_other (holding : (s.ctx l).life ≠ .holding) (collecting : (s.ctx l).life ≠ .collecting) :
    countLocker l s = s := if_neg (by simp [Context.counted, holding, collecting])

/-- Counting leaves the lifecycle, and with it the queues and the counts. -/
theorem countLocker_within_times : Within [.lke, .marks] s (countLocker l s) := by
  by_cases counted : (s.ctx l).life = .holding ∨ (s.ctx l).life = .collecting
  · rw [countLocker_of_counted counted]
    exact putCtx_within_of_life rfl
  · obtain ⟨holding, collecting⟩ := not_or.mp counted
    rw [countLocker_of_other holding collecting]
    exact .refl

theorem countLocker_ctx (counted : (s.ctx l).life = .holding ∨ (s.ctx l).life = .collecting) :
    (countLocker l s).ctx l = timesCounted s l := by rw [countLocker_of_counted counted, putCtx_ctx, if_pos rfl]

theorem countLockout_ctx (l : Locker) (s : State) : (countLockout l s).ctx l = lockoutCounted (s.ctx l) := by
  unfold countLockout lockoutCounted
  dsimp only
  by_cases locked : (s.ctx l).lockedOut = true
  · rw [if_pos locked, if_neg (ne_of_eq_of_ne locked (by decide) : (s.ctx l).lockedOut ≠ false)]
    by_cases ends : (s.ctx l).lockoutLeft ≤ 1
    · rw [if_pos ends, if_pos ends]
      simp [endLockout]
    · rw [if_neg ends, if_neg ends, putCtx_ctx, if_pos rfl]
  · rw [if_neg locked, if_pos (by simpa using locked)]

theorem expiryOf_eq_none_iff {o : ClassOpts} {c : Context} :
    expiryOf o c = none ↔ ¬ o.holdMin * 60 ≤ c.hold ∧ ¬ (o.coldLimit ≠ 0 ∧ o.coldLimit ≤ c.cold) := by
  unfold expiryOf
  split
  · next h => simp [h]
  · next h =>
    split
    · next k => simp [k]
    · next k => simp [h, k]

theorem judgeExpiry_of_unjudged (unjudged : (s.ctx l).judged = false) : judgeExpiry l s = s :=
  if_neg (by simp [unjudged])

theorem judgeExpiry_of_none (none : expiryOf (s.opts l) (s.ctx l) = none) : judgeExpiry l s = s := by
  unfold judgeExpiry
  rw [none]
  split <;> rfl

theorem judgeExpiry_of_some {e : ExpiryReason} (judged : (s.ctx l).judged = true)
    (some : expiryOf (s.opts l) (s.ctx l) = some e) : judgeExpiry l s = takeExpiry l e s := by
  unfold judgeExpiry
  rw [some, if_pos judged]

/-- Counting leaves the class options of the locker. -/
theorem countLocker_opts : (countLocker l s).opts l = s.opts l := by
  have cls : ((countLocker l s).ctx l).cls = (s.ctx l).cls := by
    by_cases counted : (s.ctx l).life = .holding ∨ (s.ctx l).life = .collecting
    · rw [countLocker_ctx counted]
    · obtain ⟨holding, collecting⟩ := not_or.mp counted
      rw [countLocker_of_other holding collecting]
  simp only [State.opts, cls, countLocker_within_times.copies]

/-- A counted locker that reaches no limit, or that has its collection expiry, changes in its counts and its lockout. -/
theorem secondLocker_ctx_of_counted (counted : (s.ctx l).life = .holding ∨ (s.ctx l).life = .collecting)
    (calm : (¬ holdReached s l (timesCounted s l) ∧ ¬ coldReached s l (timesCounted s l))
      ∨ ((s.ctx l).life = .collecting ∧ (s.ctx l).collExp ≠ none)) :
    (secondLocker s l).ctx l = lockoutCounted (timesCounted s l) := by
  have still : judgeExpiry l (countLocker l s) = countLocker l s := by
    rcases calm with limits | ⟨collecting, expired⟩
    · refine judgeExpiry_of_none ?_
      rw [countLocker_opts, countLocker_ctx counted]
      exact expiryOf_eq_none_iff.mpr limits
    · refine judgeExpiry_of_unjudged ?_
      rw [countLocker_ctx counted]
      have stands : (timesCounted s l).collExp.isNone = false := by
        rw [Bool.eq_false_iff, Ne, Option.isNone_iff_eq_none]
        exact expired
      have life : (timesCounted s l).life = .collecting := collecting
      rw [Context.judged, life, stands]
      decide
  rw [secondLocker, still, countLockout_ctx, countLocker_ctx counted]

/-- A locker in any other state changes in its lockout alone. -/
theorem secondLocker_ctx_of_other (holding : (s.ctx l).life ≠ .holding) (collecting : (s.ctx l).life ≠ .collecting) :
    (secondLocker s l).ctx l = lockoutCounted (s.ctx l) := by
  rw [secondLocker, countLocker_of_other holding collecting,
    judgeExpiry_of_unjudged (by simp [Context.judged, holding, collecting]), countLockout_ctx]

end

/-! ### The lockers in turn (R157) -/

/-- What a seconds event at the lockers can touch. -/
def secondParts : List Part := [.lke, .ltc, .marks, .counts, .fast, .entries, .chans, .paths, .queue]

section
variable {s : State} {l : Locker}

theorem judgeExpiry_within_seconds : Within secondParts s (judgeExpiry l s) := by
  unfold judgeExpiry takeExpiry
  dsimp only
  split
  · split
    · split
      · exact enterHalting_within.widen.next handRecord_within
      · split
        · exact putCtx_within.widen.next handRecord_within
        · exact (enterHalting_within.widen.next handRecord_within).next withdraw_within
      all_goals exact .refl
    · exact .refl
  · exact .refl

theorem countLockout_within_seconds : Within secondParts s (countLockout l s) := by
  unfold countLockout endLockout
  dsimp only
  exact .ite (.ite (putCtx_within.widen.next handRecord_within) putCtx_within.widen) .refl

theorem secondLocker_within : Within secondParts s (secondLocker s l) :=
  (countLocker_within.widen.next judgeExpiry_within_seconds).next countLockout_within_seconds

theorem lockers_within (ls : List Locker) : Within secondParts s (ls.foldl secondLocker s) :=
  Within.fold (f := secondLocker) (fun _ _ => secondLocker_within) rfl _ _

theorem foldl_secondLocker_ctx {ls : List Locker} (absent : l ∉ ls) : (ls.foldl secondLocker s).ctx l = s.ctx l := by
  induction ls generalizing s with
  | nil => rfl
  | cons k ks ih =>
    obtain ⟨other, rest⟩ := not_or.mp (mt List.mem_cons.mpr absent)
    rw [List.foldl_cons, ih rest]
    exact (secondLocker_others l other).1

/-- A locker's share comes once, with its context, its samples and the options as they stood before the event. -/
theorem lkeSeconds_share (below : l.val < s.copies.lockerCount) : ∃ u, u.ctx l = s.ctx l ∧ u.sampler l = s.sampler l
    ∧ u.copies = s.copies ∧ (lkeSeconds s).ctx l = (secondLocker u l).ctx l := by
  have listed : l ∈ s.lockers := mem_lockersBelow.mpr below
  have nodup : s.lockers.Nodup := List.Nodup.filter (fun k : Locker => decide (k.val < s.copies.lockerCount)) (List.nodup_finRange 64)
  obtain ⟨before, after, split⟩ := List.append_of_mem listed
  rw [split] at nodup
  obtain ⟨-, tail, apart⟩ := List.nodup_append.mp nodup
  have ahead : l ∉ before := fun h => apart l h l (by simp) rfl
  have behind : l ∉ after := (List.nodup_cons.mp tail).1
  have kept : Within secondParts s (before.foldl secondLocker s) := lockers_within before
  refine ⟨before.foldl secondLocker s, foldl_secondLocker_ctx ahead, kept.sampler l, kept.copies, ?_⟩
  rw [lkeSeconds, split, List.foldl_append, List.foldl_cons, foldl_secondLocker_ctx behind]

theorem lkeSeconds_ctx_of_absent (above : s.copies.lockerCount ≤ l.val) : (lkeSeconds s).ctx l = s.ctx l :=
  foldl_secondLocker_ctx fun listed => absurd (mem_lockersBelow.mp listed) (Nat.not_lt.mpr above)

theorem timesCounted_congr {u : State} (ctx : u.ctx l = s.ctx l) (sampler : u.sampler l = s.sampler l)
    (copies : u.copies = s.copies) : timesCounted u l = timesCounted s l ∧ u.opts l = s.opts l := by
  have opts : u.opts l = s.opts l := by simp only [State.opts, ctx, copies]
  exact ⟨by simp only [timesCounted, ctx, sampler, opts], opts⟩

end

/-! ### The latches' share (R92) -/

section
variable {s : State} {l : Locker}

def latchParts : List Part := [.ltc, .marks, .fast, .entries, .paths, .queue]

theorem secondHatch_within_latches {h : Hatch} : Within latchParts s (secondHatch l s h) := by
  unfold secondHatch expireOpenWait expireHatchHeld
  dsimp only
  split
  · exact .ite (putLatch_within.widen.next issueLatch_within) putLatch_within.widen
  · exact .ite .refl (.ite (putLatch_within.widen.next handRecord_within) putLatch_within.widen)
  all_goals exact .refl

theorem ltcSeconds_within_latches : Within latchParts s (ltcSeconds s) :=
  Within.fold (f := secondLatches) (fun _ _ => secondHatch_within_latches.next secondHatch_within_latches) rfl _ _

end

/-- The state after a seconds event's counting, before what follows it. -/
def secondsTaken (latchesFirst : Bool) (s : State) : State :=
  let u := { s with tmb := s.tmb.secondEvent s.copies.frameMs }
  if latchesFirst then lkeSeconds (ltcSeconds u) else ltcSeconds (lkeSeconds u)

section
variable {s : State} {l : Locker} {latchesFirst : Bool}

theorem exec_secondsEvent (runs : s.tmb.second ≠ none) :
    exec (.secondsEvent latchesFirst) s = .next (settle (secondsTaken latchesFirst s)) := by
  have some : ¬ s.tmb.second.isNone = true := by simpa using runs
  change execSecondsEvent latchesFirst s = _
  rw [execSecondsEvent, if_neg some]
  rfl

theorem secondsTaken_within : Within (.tmb :: secondParts) s (secondsTaken latchesFirst s) := by
  have ticked : Within (.tmb :: secondParts) s { s with tmb := s.tmb.secondEvent s.copies.frameMs } := by
    constructor <;> simp
  unfold secondsTaken
  dsimp only
  exact .ite ((ticked.next ltcSeconds_within_latches).next (lockers_within _))
    ((ticked.next (lockers_within _)).next ltcSeconds_within_latches)

theorem secondsTaken_tmb : (secondsTaken latchesFirst s).tmb = s.tmb.secondEvent s.copies.frameMs := by
  have latches {u : State} : (ltcSeconds u).tmb = u.tmb := ltcSeconds_within_latches.tmb (by decide)
  have lockers {u : State} : (lkeSeconds u).tmb = u.tmb := (lockers_within _).tmb (by decide)
  unfold secondsTaken
  dsimp only
  split
  · rw [lockers, latches]
  · rw [latches, lockers]

/-- In either order of the two, a locker's context is what LKE's event makes of it. -/
theorem secondsTaken_ctx : ∃ u, Within (.tmb :: latchParts) s u
    ∧ ∀ l, (secondsTaken latchesFirst s).ctx l = (lkeSeconds u).ctx l := by
  have ticked : Within (.tmb :: latchParts) s { s with tmb := s.tmb.secondEvent s.copies.frameMs } := by
    constructor <;> simp
  cases latchesFirst with
  | true => exact ⟨_, ticked.next ltcSeconds_within_latches, fun _ => rfl⟩
  | false => exact ⟨_, ticked, fun l => ltcSeconds_within_latches.ctx l⟩

end

/-- Settles O53: each locker's share comes once, at its own context, samples and options. -/
theorem secondsEventCountsHolding : Obligations.SecondsEventCountsHolding := by
  intro s latchesFirst runs
  obtain ⟨u, kept, ctx⟩ := secondsTaken_ctx (s := s) (latchesFirst := latchesFirst)
  have whole : Within (.tmb :: secondParts) s (secondsTaken latchesFirst s) := secondsTaken_within
  have share (l : Locker) (below : l.val < s.copies.lockerCount) : ∃ v, v.ctx l = s.ctx l ∧ timesCounted v l = timesCounted s l
      ∧ v.opts l = s.opts l ∧ (secondsTaken latchesFirst s).ctx l = (secondLocker v l).ctx l := by
    obtain ⟨v, same, sampler, copies, after⟩ := lkeSeconds_share (s := u) (l := l) (by rwa [kept.copies])
    have here : v.ctx l = s.ctx l := same.trans (kept.ctx l)
    obtain ⟨times, opts⟩ := timesCounted_congr here (sampler.trans (kept.sampler l)) (copies.trans kept.copies)
    exact ⟨v, here, times, opts, (ctx l).trans after⟩
  have other (l : Locker) (below : l.val < s.copies.lockerCount) (holding : (s.ctx l).life ≠ .holding)
      (collecting : (s.ctx l).life ≠ .collecting) :
      (settle (secondsTaken latchesFirst s)).ctx l = lockoutCounted (s.ctx l) := by
    obtain ⟨v, here, -, -, after⟩ := share l below
    rw [settle_ctx, after, secondLocker_ctx_of_other (by rwa [here]) (by rwa [here]), here]
  have absent (l : Locker) (above : s.copies.lockerCount ≤ l.val) :
      (settle (secondsTaken latchesFirst s)).ctx l = s.ctx l := by
    rw [settle_ctx, ctx l, lkeSeconds_ctx_of_absent (by rwa [kept.copies]), kept.ctx l]
  refine ⟨_, exec_secondsEvent runs, ?_, ?_, ?_, other, absent,
    fun l holding collecting free => ?_, outsideKept_settle (whole.outsideKept (by decide) (by decide)),
    (settle_sup _).trans (whole.sup (by decide))⟩
  · rw [settle_tmb, secondsTaken_tmb]
    rfl
  · rw [settle_tmb, secondsTaken_tmb]
    rfl
  · intro l below counted c calm
    obtain ⟨v, here, times, opts, after⟩ := share l below
    rw [settle_ctx, after, secondLocker_ctx_of_counted (by rwa [here]) (by rwa [here, times, holdReached, coldReached, opts]),
      times]
  · by_cases below : l.val < s.copies.lockerCount
    · rw [other l below holding collecting, lockoutCounted, if_pos free]
    · exact absent l (Nat.le_of_not_lt below)

end Sys2Proof.Machine
end

section
/-! PROOFS. EXPIRY: a locker's own share of a seconds event (R42, R44, R53, R62, R158). -/

-- One theorem after the other: a thread for each would ask for more stack space than a build may have.
set_option Elab.async false

namespace Sys2Proof.Machine

/-! ### The expiry that is judged (R53, R158) -/

/-- The counts as the statements write them (R33, R62). -/
theorem countsWord_eq (c : Context) :
    countsWord c = (BitVec.ofNat 16 c.cold ++ BitVec.ofNat 16 c.hold : BitVec 32) := by
  unfold countsWord fld
  generalize BitVec.ofNat 16 c.hold = low
  generalize BitVec.ofNat 16 c.cold = high
  refine BitVec.eq_of_getLsbD_eq fun i below => ?_
  rw [BitVec.getLsbD_append]
  by_cases inLow : i < 16
  · simp [inLow, below]
  · simp [inLow, below, BitVec.getLsbD_of_ge low i (by omega)]

/-- The expiry that a locker's counts give. -/
def reachedBy (s : State) (l : Locker) : ExpiryReason := if holdReached s l (timesCounted s l) then .holdLimit else .coldDwell

section
variable {s : State} {l : Locker}

theorem expiryOf_of_reached
    (reached : holdReached s l (timesCounted s l) ∨ coldReached s l (timesCounted s l)) :
    expiryOf (s.opts l) (timesCounted s l) = some (reachedBy s l) := by
  unfold expiryOf reachedBy
  by_cases hold : holdReached s l (timesCounted s l)
  · rw [if_pos hold, if_pos hold]
  · rw [if_neg hold, if_neg hold, if_pos (reached.resolve_left hold)]

theorem reachedBy_code : (reachedBy s l).reason.code = if holdReached s l (timesCounted s l) then 1 else 2 := by
  unfold reachedBy
  split <;> rfl

/-- EXPIRY counts the locker's times and takes the expiry that they give. -/
theorem exec_expiry (below : l.val < s.copies.lockerCount)
    (judged : (s.ctx l).life = .holding ∨ (s.ctx l).life = .collecting ∧ (s.ctx l).collExp = none)
    (reached : holdReached s l (timesCounted s l) ∨ coldReached s l (timesCounted s l)) :
    exec (.expiry l) s = .next (settle (takeExpiry l (reachedBy s l) (countLocker l s))) := by
  have counted : (s.ctx l).life = .holding ∨ (s.ctx l).life = .collecting := judged.imp_right And.left
  have ctx : (countLocker l s).ctx l = timesCounted s l := countLocker_ctx counted
  have opts : (countLocker l s).opts l = s.opts l := countLocker_opts
  have isJudged : ((countLocker l s).ctx l).judged = true := by
    rw [ctx]
    rcases judged with life | ⟨life, free⟩
    · simp [Context.judged, life]
    · simp [Context.judged, life, free]
  have some : expiryOf ((countLocker l s).opts l) ((countLocker l s).ctx l) = some (reachedBy s l) := by
    rw [opts, ctx, expiryOf_of_reached reached]
  rw [← judgeExpiry_of_some isJudged some]
  exact if_pos ⟨below, isJudged, by rw [some]; rfl⟩

end

/-! ### The report of an expiry (R62) -/

/-- The EXPIRED record of a locker that takes an expiry, marked when it is taken in collection. -/
def expiryRecord (s : State) (l : Locker) (mark : Nat) : Record :=
  recordOf s l .expired (BitVec.ofNat 16 ((if holdReached s l (timesCounted s l) then 1 else 2) + mark))
    (BitVec.ofNat 16 (timesCounted s l).cold ++ BitVec.ofNat 16 (timesCounted s l).hold : BitVec 32)

theorem expiredRecord_counted {s : State} {l : Locker}
    (counted : (s.ctx l).life = .holding ∨ (s.ctx l).life = .collecting) (inCollection : Bool) :
    expiredRecord (countLocker l s) l (reachedBy s l) inCollection
      = expiryRecord s l (if inCollection then 256 else 0) := by
  have seconds : (countLocker l s).tmb.seconds = s.tmb.seconds :=
    congrArg Tmb.seconds (countLocker_within_times.tmb (by decide))
  rw [expiredRecord, lockerRecord, countLocker_ctx counted, seconds, countsWord_eq, reachedBy_code]
  rfl

/-! ### EXPIRED, with a release withdrawn (R42, R44) -/

section
variable {s : State} {l : Locker}

/-- An expiry taken in HOLDING (R53). -/
theorem takeExpiry_of_holding {e : ExpiryReason} (life : (s.ctx l).life = .holding) : takeExpiry l e s
    = handRecord (expiredRecord s l e false) (enterHalting l ((s.ctx l).expiredBy e) s) := by
  simp only [takeExpiry, life]

/-- An expiry taken in COLLECTING while the collection stands (R53). -/
theorem takeExpiry_of_standing {e : ExpiryReason} (life : (s.ctx l).life = .collecting)
    (stands : (s.latch l .front).collectionStands = true) : takeExpiry l e s
    = handRecord (expiredRecord s l e true) (putCtx l { s.ctx l with collExp := some e } s) := by
  simp only [takeExpiry, life, stands, if_true]

/-- An expiry taken in COLLECTING otherwise (R44, R53). -/
theorem takeExpiry_of_withdrawn {e : ExpiryReason} (life : (s.ctx l).life = .collecting)
    (gone : (s.latch l .front).collectionStands = false) : takeExpiry l e s
    = withdraw l .expired (handRecord (expiredRecord s l e false) (enterHalting l ((s.ctx l).expiredBy e) s)) := by
  simp only [takeExpiry, life, gone]
  rfl

theorem withdrawHatch_of_still {i : Lifecycle} {h : Hatch}
    (still : (s.latch l h).st = .opened ∨ (s.latch l h).st = .latched ∨ (s.latch l h).st = .failed) :
    withdrawHatch l i s h = s := by
  rcases still with st | st | st <;> simp only [withdrawHatch, st]

theorem withdrawHatch_of_haltWait {i : Lifecycle} {h : Hatch} (st : (s.latch l h).st = .haltWait) :
    withdrawHatch l i s h = reportWithdrawn l h i (putLatch l h ((s.latch l h).rest .latched) s) := by
  simp only [withdrawHatch, st]

theorem withdrawHatch_of_releasing {i : Lifecycle} {h : Hatch}
    (st : (s.latch l h).st = .unlatchPending ∨ (s.latch l h).st = .openWait) : withdrawHatch l i s h
      = reportWithdrawn l h i (issueLatch l false false (putLatch l h ((s.latch l h).relatch .notOpened false) s)) := by
  rcases st with st | st <;> simp only [withdrawHatch, st]

theorem withdrawHatch_of_notOpened {i : Lifecycle} {h : Hatch} (st : (s.latch l h).st = .relatchPending)
    (kind : (s.latch l h).kind = .notOpened) : withdrawHatch l i s h = reportWithdrawn l h i s := by
  simp only [withdrawHatch, st, kind, if_true]

theorem withdrawHatch_latch_ne {i : Lifecycle} {h g : Hatch} (other : g ≠ h) (k : Locker) :
    (withdrawHatch l i s h).latch k g = s.latch k g := by
  have reported {u : State} : (reportWithdrawn l h i u).latch k g = u.latch k g := reportWithdrawn_within.latch k g
  unfold withdrawHatch
  dsimp only
  split
  · rw [reported, putLatch_latch, if_neg fun same => other same.2]
  · rw [reported, issueLatch_latch, putLatch_latch, if_neg fun same => other same.2]
  · rw [reported, issueLatch_latch, putLatch_latch, if_neg fun same => other same.2]
  · split
    · exact reported
    · rfl
  all_goals rfl

/-- With the rear latch LATCHED only the front hatch's release is withdrawn. -/
theorem withdraw_of_rear {i : Lifecycle} (rear : (s.latch l .rear).st = .latched) :
    withdraw l i s = withdrawHatch l i s .front := by
  have still : (withdrawHatch l i s .front).latch l .rear = s.latch l .rear := withdrawHatch_latch_ne (by decide) l
  rw [withdraw, withdrawHatch_of_still (.inr (.inl (by rw [still, rear])))]

theorem reportWithdrawn_handed {i : Lifecycle} {h : Hatch} {u : State} (unhanded : HandedAll [] s u)
    (ctx : u.ctx l = s.ctx l) (tmb : u.tmb = s.tmb) : HandedAll
      [recordOf s l .collectWithdrawn (BitVec.ofNat 16 i.code) (hatchWord h)] s (reportWithdrawn l h i u) := by
  have record : lockerRecord u .collectWithdrawn l i.code (BitVec.ofNat 32 (hatchCode h))
      = recordOf s l .collectWithdrawn (BitVec.ofNat 16 i.code) (hatchWord h) := by
    rw [lockerRecord, ctx, tmb, hatchCode_word]
  rw [reportWithdrawn, record]
  exact handedAll_trans unhanded (handRecord_handed _ _)

/-- A release under way is withdrawn with its report (R44, R62). -/
theorem withdrawHatch_handed {i : Lifecycle} {h : Hatch} (released : (s.latch l h).st = .haltWait
    ∨ ((s.latch l h).st = .unlatchPending ∨ (s.latch l h).st = .openWait)
    ∨ (s.latch l h).st = .relatchPending ∧ (s.latch l h).kind = .notOpened) : HandedAll
      [recordOf s l .collectWithdrawn (BitVec.ofNat 16 i.code) (hatchWord h)] s (withdrawHatch l i s h) := by
  rcases released with st | st | ⟨st, kind⟩
  · rw [withdrawHatch_of_haltWait st]
    exact reportWithdrawn_handed putLatch_within.unhanded (putLatch_ctx ..) (putLatch_tmb ..)
  · rw [withdrawHatch_of_releasing st]
    have issued (r : LatchRec) : Within [.ltc, .marks, .fast, .entries, .paths] s
        (issueLatch l false false (putLatch l h r s)) := putLatch_within.widen.next issueLatch_within
    exact reportWithdrawn_handed (issued _).unhanded ((issued _).ctx l) ((issued _).tmb (by decide))
  · rw [withdrawHatch_of_notOpened st kind]
    exact reportWithdrawn_handed ⟨rfl, rfl, rfl⟩ rfl rfl

end

/-! ### The state that EXPIRED is entered in (R42, R53) -/

/-- The state after the entry into EXPIRED and its record, with the locker's times counted. -/
def expiredEntered (l : Locker) (s : State) : State :=
  handRecord (expiryRecord s l 0) (enterHalting l ((timesCounted s l).expiredBy (reachedBy s l)) (countLocker l s))

section
variable {s : State} {l : Locker}

theorem takeExpiry_counted_of_holding (life : (s.ctx l).life = .holding) :
    takeExpiry l (reachedBy s l) (countLocker l s) = expiredEntered l s := by
  have ctx : (countLocker l s).ctx l = timesCounted s l := countLocker_ctx (.inl life)
  rw [takeExpiry_of_holding (by rw [ctx]; exact life), expiredRecord_counted (.inl life), ctx]
  rfl

theorem takeExpiry_counted_of_withdrawn (life : (s.ctx l).life = .collecting)
    (gone : (s.latch l .front).collectionStands = false) :
    takeExpiry l (reachedBy s l) (countLocker l s) = withdraw l .expired (expiredEntered l s) := by
  have ctx : (countLocker l s).ctx l = timesCounted s l := countLocker_ctx (.inr life)
  have latch : (countLocker l s).latch l .front = s.latch l .front := countLocker_within_times.latch l .front
  rw [takeExpiry_of_withdrawn (by rw [ctx]; exact life) (by rw [latch, gone]), expiredRecord_counted (.inr life), ctx]
  rfl

theorem expiredEntered_ctx : (expiredEntered l s).ctx l = (timesCounted s l).expiredBy (reachedBy s l) := by
  rw [expiredEntered, handRecord_ctx, enterHalting_ctx, if_pos rfl]

theorem expiredEntered_within (counted : (s.ctx l).life = .holding ∨ (s.ctx l).life = .collecting) :
    Within [.lke, .marks, .entries, .chans, .paths, .queue] s (expiredEntered l s) := by
  have free : ((countLocker l s).ctx l).life ≠ .quarantine := by
    rw [countLocker_ctx counted]
    rcases counted with life | life <;> simp [life]
  have entered : Within [.lke, .marks, .entries, .chans, .paths] (countLocker l s)
      (enterHalting l ((timesCounted s l).expiredBy (reachedBy s l)) (countLocker l s)) :=
    enterHalting_within_of_free free (by simp [Context.expiredBy])
  exact (countLocker_within_times.widen.next entered).next handRecord_within

theorem expiredEntered_handed : HandedAll [expiryRecord s l 0] s (expiredEntered l s) := by
  have unhanded : HandedAll ([] ++ []) s
      (enterHalting l ((timesCounted s l).expiredBy (reachedBy s l)) (countLocker l s)) :=
    handedAll_trans countLocker_within_times.unhanded enterHalting_unhanded
  exact handedAll_trans unhanded (handRecord_handed _ _)

theorem expiredEntered_others : OtherLockersKept l s (expiredEntered l s) := by
  have counted : OtherLockersKept l s (countLocker l s) := countLocker_others
  have entered : OtherLockersKept l (countLocker l s)
      (enterHalting l ((timesCounted s l).expiredBy (reachedBy s l)) (countLocker l s)) := enterHalting_others
  exact Others.trans (Others.trans counted entered) (handRecord_within.others rfl l)

theorem expiredEntered_latch (h : Hatch) : (expiredEntered l s).latch l h = s.latch l h := by
  rw [expiredEntered, handRecord_latch, enterHalting_latch, countLocker_within_times.latch l h]

theorem expiredEntered_latchPath : ((expiredEntered l s).paths l).latch = (s.paths l).latch := by
  rw [expiredEntered, handRecord_paths, enterHalting_latchPath, countLocker_within_times.pathsAt l]

theorem expiredEntered_energised (distinct : ChannelsDistinct s) (i : Chan) :
    ((expiredEntered l s).chan i).st.energised ≠ some l := by
  rw [expiredEntered, handRecord_chan]
  have still : Eases s (countLocker l s) := .of_chans fun j => countLocker_within_times.chan j
  exact enterHalting_energised (still.channelsDistinct distinct) i

theorem expiredEntered_hq (counted : (s.ctx l).life = .holding ∨ (s.ctx l).life = .collecting) :
    l ∉ (expiredEntered l s).hsc.hq := by
  have changed : ((countLocker l s).ctx l).life ≠ ((timesCounted s l).expiredBy (reachedBy s l)).life := by
    rw [countLocker_ctx counted]
    rcases counted with life | life <;> simp [Context.expiredBy, life]
  exact enterHalting_hq changed (by simp [Context.expiredBy])

end

section
variable {s : State} {l : Locker} {i : Lifecycle} {h : Hatch}

theorem withdrawHatch_latch_of_haltWait (st : (s.latch l h).st = .haltWait) :
    (withdrawHatch l i s h).latch l h = (s.latch l h).rest .latched := by
  rw [withdrawHatch_of_haltWait st, reportWithdrawn_within.latch l h, putLatch_latch, if_pos ⟨rfl, rfl⟩]

/-- A release that the latch has begun is re-engaged, not opened (R44, R96). -/
theorem withdrawHatch_latch_of_releasing (st : (s.latch l h).st = .unlatchPending ∨ (s.latch l h).st = .openWait) :
    (withdrawHatch l i s h).latch l h = (s.latch l h).relatch .notOpened false
      ∧ LatchCommanded l s (withdrawHatch l i s h) := by
  obtain ⟨front, rear, writing, seq, mark⟩ :=
    issueLatch_commanded l false false (putLatch l h ((s.latch l h).relatch .notOpened false) s)
  rw [putLatch_paths] at seq
  rw [withdrawHatch_of_releasing st, LatchCommanded, reportWithdrawn_within.latch l h, reportWithdrawn_within.pathsAt l,
    reportWithdrawn_within.marksAt l]
  refine ⟨?_, front, rear, writing, seq, mark⟩
  rw [issueLatch_latch, putLatch_latch, if_pos ⟨rfl, rfl⟩]

theorem withdrawHatch_latch_of_notOpened (st : (s.latch l h).st = .relatchPending)
    (kind : (s.latch l h).kind = .notOpened) : (withdrawHatch l i s h).latch l h = s.latch l h := by
  rw [withdrawHatch_of_notOpened st kind, reportWithdrawn_within.latch l h]

end

/-- The states of a front latch with which no collection stands. -/
theorem collectionStands_iff (r : LatchRec) :
    r.collectionStands = true ↔ r.st = .opened ∨ r.st = .relatchPending ∧ r.kind = .opened := by
  simp [LatchRec.collectionStands]

/-- The state after an expiry taken in a collection that stands. -/
def expiryNoted (l : Locker) (s : State) : State :=
  handRecord (expiryRecord s l 256)
    (putCtx l { timesCounted s l with collExp := some (reachedBy s l) } (countLocker l s))

section
variable {s : State} {l : Locker}

theorem takeExpiry_counted_of_standing (life : (s.ctx l).life = .collecting)
    (stands : (s.latch l .front).collectionStands = true) :
    takeExpiry l (reachedBy s l) (countLocker l s) = expiryNoted l s := by
  have ctx : (countLocker l s).ctx l = timesCounted s l := countLocker_ctx (.inr life)
  have latch : (countLocker l s).latch l .front = s.latch l .front := countLocker_within_times.latch l .front
  rw [takeExpiry_of_standing (by rw [ctx]; exact life) (by rw [latch, stands]), expiredRecord_counted (.inr life), ctx]
  rfl

theorem expiryNoted_within (life : (s.ctx l).life = .collecting) :
    Within [.lke, .marks, .queue] s (expiryNoted l s) := by
  have same : ({ timesCounted s l with collExp := some (reachedBy s l) } : Context).life
      = ((countLocker l s).ctx l).life := by rw [countLocker_ctx (.inr life)]
  exact (countLocker_within_times.next (putCtx_within_of_life same)).widen.next handRecord_within

theorem expiryNoted_handed : HandedAll [expiryRecord s l 256] s (expiryNoted l s) := by
  have unhanded : HandedAll ([] ++ []) s
      (putCtx l { timesCounted s l with collExp := some (reachedBy s l) } (countLocker l s)) :=
    handedAll_trans countLocker_within_times.unhanded putCtx_within.unhanded
  exact handedAll_trans unhanded (handRecord_handed _ _)

theorem expiryNoted_others : OtherLockersKept l s (expiryNoted l s) := by
  have counted : OtherLockersKept l s (countLocker l s) := countLocker_others
  have noted : OtherLockersKept l (countLocker l s)
      (putCtx l { timesCounted s l with collExp := some (reachedBy s l) } (countLocker l s)) := putCtx_others
  exact Others.trans (Others.trans counted noted) (handRecord_within.others rfl l)

/-- The report of a release withdrawn on the way into EXPIRED. -/
theorem withdrawn_handed {i : Lifecycle} {h : Hatch} {record : Record} {v : State} (handed : HandedAll [record] s v)
    (order : (v.ctx l).order = (s.ctx l).order) (tmb : v.tmb = s.tmb) (released : (v.latch l h).st = .haltWait
      ∨ ((v.latch l h).st = .unlatchPending ∨ (v.latch l h).st = .openWait)
      ∨ (v.latch l h).st = .relatchPending ∧ (v.latch l h).kind = .notOpened) : HandedAll
    [record, recordOf s l .collectWithdrawn (BitVec.ofNat 16 i.code) (hatchWord h)] s (withdrawHatch l i v h) := by
  have both := handedAll_trans handed (withdrawHatch_handed (i := i) released)
  rwa [recordOf, order, tmb] at both

end

/-- Settles O54: by the locker's state, and in COLLECTING by the front latch. -/
theorem expiryEndsHolding : Obligations.ExpiryEndsHolding := by
  intro s l below room distinct c e counts expired record withdrawn r reached
  refine ⟨fun life => ?_, fun life free stands => ?_, fun life free rear gone => ?_⟩
  · have ran := exec_expiry below (.inl life) reached
    rw [takeExpiry_counted_of_holding life] at ran
    have kept := expiredEntered_within (.inl life)
    refine ⟨_, ran, ?_, ?_, fun i => ?_, (settle_ltc _).trans (kept.ltc (by decide)),
      otherLockersKept_settle expiredEntered_others, handedAll_settle expiredEntered_handed (kept.ringFull.trans room),
      outsideKept_settle (kept.outsideKept (by decide) (by decide)),
      clockKept_settle (kept.clockKept (by decide) (by decide))⟩
    · rw [settle_ctx, expiredEntered_ctx]
      rfl
    · rw [settle_hsc]
      exact expiredEntered_hq (.inl life)
    · rw [settle_chan]
      exact expiredEntered_energised distinct i
  · have ran := exec_expiry below (.inr ⟨life, free⟩) reached
    rw [takeExpiry_counted_of_standing life ((collectionStands_iff _).mpr stands)] at ran
    have kept := expiryNoted_within life
    refine ⟨_, ran, ?_, (settle_ltc _).trans (kept.ltc (by decide)),
      heatKept_settle (kept.heatKept (by decide) (by decide) (by decide) (by decide)),
      otherLockersKept_settle expiryNoted_others, handedAll_settle expiryNoted_handed (kept.ringFull.trans room),
      outsideKept_settle (kept.outsideKept (by decide) (by decide)),
      clockKept_settle (kept.clockKept (by decide) (by decide))⟩
    rw [settle_ctx, expiryNoted, handRecord_ctx, putCtx_ctx, if_pos rfl]
    rfl
  · have ran := exec_expiry below (.inr ⟨life, free⟩) reached
    have latch := expiredEntered_latch (s := s) (l := l)
    have stands : (s.latch l .front).collectionStands = false := by
      rw [Bool.eq_false_iff, Ne, collectionStands_iff]
      exact gone
    rw [takeExpiry_counted_of_withdrawn life stands, withdraw_of_rear (by rw [latch, rear])] at ran
    have entered := expiredEntered_within (.inr life)
    have kept : Within [.lke, .ltc, .marks, .fast, .entries, .chans, .paths, .queue] s
        (withdrawHatch l .expired (expiredEntered l s) .front) := entered.widen.next withdrawHatch_within
    have ctx : (expiredEntered l s).ctx l = expired := expiredEntered_ctx
    have others : OtherLockersKept l s (withdrawHatch l .expired (expiredEntered l s) .front) :=
      Others.trans expiredEntered_others withdrawHatch_others
    have reported (released : r.st = .haltWait ∨ (r.st = .unlatchPending ∨ r.st = .openWait)
        ∨ r.st = .relatchPending ∧ r.kind = .notOpened) : HandedAll [record 0, withdrawn] s
          (settle (withdrawHatch l .expired (expiredEntered l s) .front)) := by
      refine handedAll_settle (withdrawn_handed (i := .expired) (h := .front) expiredEntered_handed (by rw [ctx])
        (entered.tmb (by decide)) ?_) (kept.ringFull.trans room)
      rw [latch]
      exact released
    refine ⟨_, ran, ?_, fun i => ?_, ?_, fun st => ⟨?_, reported (.inl st)⟩, fun st => ⟨?_, ?_, reported (.inr (.inl st))⟩,
      fun st kind => ⟨?_, reported (.inr (.inr ⟨st, kind⟩))⟩, fun st => ?_, otherLockersKept_settle others,
      outsideKept_settle (kept.outsideKept (by decide) (by decide)),
      clockKept_settle (kept.clockKept (by decide) (by decide))⟩
    · rw [settle_ctx, withdrawHatch_within.ctx l, ctx]
    · rw [settle_chan, withdrawHatch_within.chan i]
      exact expiredEntered_energised distinct i
    · rw [settle_latch, withdrawHatch_latch_ne (by decide), latch]
    · rw [settle_latch, withdrawHatch_latch_of_haltWait (by rw [latch]; exact st), latch]
      rfl
    · rw [settle_latch, (withdrawHatch_latch_of_releasing (by rw [latch]; exact st)).1, latch]
      rfl
    · obtain ⟨front, rear, writing, seq, mark⟩ := (withdrawHatch_latch_of_releasing (s := expiredEntered l s) (l := l)
        (i := .expired) (h := .front) (by rw [latch]; exact st)).2
      rw [expiredEntered_latchPath] at seq
      rw [LatchCommanded, settle_paths, settle_marks]
      exact ⟨front, rear, writing, seq, mark⟩
    · rw [settle_latch, withdrawHatch_latch_of_notOpened (by rw [latch]; exact st) (by rw [latch]; exact kind), latch]
    · have still : withdrawHatch l .expired (expiredEntered l s) .front = expiredEntered l s :=
        withdrawHatch_of_still (.inr (by rw [latch]; exact st))
      rw [still, settle_latch, latch]
      exact ⟨rfl, handedAll_settle expiredEntered_handed (entered.ringFull.trans room)⟩

end Sys2Proof.Machine
end

section
/-! PROOFS. The supply's transitions: dwell timers, capacity, and what a capacity handed over does to the channels (R102,
R105, R114, R118, R119, R164 to R168, R172). -/

-- One theorem after the other: a thread for each would ask for more stack space than a build may have.
set_option Elab.async false

namespace Sys2Proof.Machine

/-! ### The channel halted next (R102, R118) -/

section
variable {s : State}

/-- No channel of a list has a more recent grant than the most recent. -/
theorem mostRecent_grantAge {is : List Chan} {i j : Chan} (h : mostRecent s is = some i) (listed : j ∈ is) :
    s.grantAge i ≤ s.grantAge j := by
  induction is generalizing i j with
  | nil => cases listed
  | cons k rest ih =>
    unfold mostRecent at h
    split at h
    · next none =>
      cases h
      rw [mostRecent_eq_none none] at listed
      obtain rfl := List.mem_singleton.mp listed
      exact BitVec.le_refl _
    · next m found =>
      rcases List.mem_cons.mp listed with rfl | later
      · split at h
        · next younger => cases h; exact BitVec.le_of_lt younger
        · cases h; exact BitVec.le_refl _
      · have first := ih found later
        split at h
        · cases h; exact first
        · next older => cases h; exact BitVec.le_trans (BitVec.not_lt.mp older) first

theorem warmingChan_iff {i : Chan} : s.warmingChan i = true ↔ warming s i := by
  unfold State.warmingChan warming
  cases (s.chan i).st.energised <;> simp

/-- The channel halted next is ahead of every energised one, or not behind it. -/
theorem victim_ahead {v w : Chan} (h : s.victim = some v) (on : (s.chan w).st.energised.isSome = true) :
    HaltedAhead s v w := by
  rcases Option.or_eq_some_iff.mp h with warm | ⟨none, other⟩
  · have first : warming s v := warmingChan_iff.mp (List.mem_filter.mp (mostRecent_mem warm)).2
    by_cases second : warming s w
    · exact .inr ⟨iff_of_true first second,
        mostRecent_grantAge warm (List.mem_filter.mpr ⟨List.mem_finRange w, warmingChan_iff.mpr second⟩)⟩
    · exact .inl ⟨first, second⟩
  · have cold (i : Chan) : ¬ warming s i := fun warms => by
      have listed : i ∈ allChans.filter s.warmingChan :=
        List.mem_filter.mpr ⟨List.mem_finRange i, warmingChan_iff.mpr warms⟩
      rw [mostRecent_eq_none none] at listed
      cases listed
    exact .inr ⟨iff_of_false (cold v) (cold w),
      mostRecent_grantAge other (List.mem_filter.mpr ⟨List.mem_finRange w, on⟩)⟩

theorem putChan_grants (i : Chan) (c : Channel) (s : State) : (putChan i c s).hsc.grants = s.hsc.grants := by
  unfold putChan
  dsimp only
  split
  · rfl
  · rw [(markAttach_within.chans (by decide)).2, (markAttach_within.chans (by decide)).2]

theorem turnOff_grants (i : Chan) (s : State) : (turnOff i s).hsc.grants = s.hsc.grants := by
  unfold turnOff
  split
  · rw [(issueHeat_within.chans (by decide)).2, putChan_grants]
  · rfl

theorem turnOff_warming {i v : Chan} (ne : v ≠ i) : warming (turnOff i s) v ↔ warming s v := by
  simp only [warming, turnOff_chan_ne ne, turnOff_ctx]

end

/-! ### A capacity decrease (R118) -/

/-- What halting channels one at a time comes to. -/
structure Decreased (s t : State) : Prop where
  halted : ∀ v l, (s.chan v).st.energised = some l → t.chan v = s.chan v
    ∨ t.chan v = { s.chan v with st := .offPending l } ∧ HeatCommanded l false s t
      ∧ ∀ w, (t.chan w).st.energised.isSome = true → HaltedAhead s v w
  others : ∀ v : Chan, (s.chan v).st.energised = none → t.chan v = s.chan v
  paths : ∀ l : Locker, (∀ v : Chan, (s.chan v).st.energised ≠ some l) → t.paths l = s.paths l
  marks : MarksKept s t
  grants : t.hsc.grants = s.hsc.grants

section
variable {s u t : State}

theorem Decreased.refl : Decreased s s where
  halted := fun _ _ _ => .inl rfl
  others := fun _ _ => rfl
  paths := fun _ _ => rfl
  marks := .refl
  grants := rfl

/-- The first halt, of a channel that goes ahead of all, before the others. -/
theorem Decreased.step {i : Chan} (distinct : ChannelsDistinct s) (victim : s.victim = some i)
    (rest : Decreased (turnOff i s) t) : Decreased s t := by
  obtain ⟨l, energised⟩ := Option.isSome_iff_exists.mp (victim_energised victim)
  have self : t.chan i = { s.chan i with st := .offPending l } := by
    rw [rest.others i (by rw [turnOff_chan_self energised]; rfl), turnOff_chan_self energised]
  have still {v : Chan} (ne : v ≠ i) : (turnOff i s).chan v = s.chan v := turnOff_chan_ne ne
  have alone {v : Chan} (on : (s.chan v).st.energised = some l) : v = i :=
    distinct v i l (ChanState.attached_of_energised on) (ChanState.attached_of_energised energised)
  have path : t.paths l = (turnOff i s).paths l := rest.paths l fun v on => by
    by_cases same : v = i
    · subst same
      rw [turnOff_chan_self energised] at on
      cases on
    · rw [still same] at on
      exact same (alone on)
  constructor
  · intro v k on
    by_cases same : v = i
    · subst same
      obtain rfl : k = l := Option.some.inj (on.symm.trans energised)
      obtain ⟨off, writing, seq, mark⟩ := turnOff_commanded energised
      rw [← path] at off writing seq
      refine .inr ⟨self, ⟨off, writing, seq, rest.marks k .heat mark⟩, fun w left => ?_⟩
      by_cases again : w = v
      · subst again
        rw [self] at left
        cases left
      · refine victim_ahead victim ?_
        cases heated : (s.chan w).st.energised with
        | none =>
          rw [rest.others w (by rw [still again, heated]), still again, heated] at left
          cases left
        | some k => rfl
    · have other : k ≠ l := fun e => same (alone (e ▸ on))
      rcases rest.halted v k (by rw [still same, on]) with kept | ⟨off, ⟨cold, writing, seq, mark⟩, ahead⟩
      · exact .inl (kept.trans (still same))
      · rw [still same] at off
        rw [turnOff_paths_ne (by rw [energised]; exact fun e => other (Option.some.inj e).symm)] at seq
        refine .inr ⟨off, ⟨cold, writing, seq, mark⟩, fun w left => ?_⟩
        have ne : w ≠ i := by
          rintro rfl
          rw [self] at left
          cases left
        have before := ahead w left
        unfold HaltedAhead at before
        rwa [turnOff_warming same, turnOff_warming ne, turnOff_grants, still same, still ne] at before
  · intro v off
    have ne : v ≠ i := by
      rintro rfl
      rw [energised] at off
      cases off
    rw [rest.others v (by rw [still ne, off]), still ne]
  · intro k unheated
    rw [rest.paths k fun v on => ?_, turnOff_paths_ne (unheated i)]
    by_cases same : v = i
    · subst same
      rw [turnOff_chan_self energised] at on
      cases on
    · rw [still same] at on
      exact unheated v on
  · exact turnOff_marksKept.trans rest.marks
  · rw [rest.grants, turnOff_grants]

theorem decreaseLoop_decreased (n : Nat) (distinct : ChannelsDistinct s) : Decreased s (decreaseLoop n s) := by
  induction n generalizing s with
  | zero => exact .refl
  | succ n ih =>
    unfold decreaseLoop
    split
    · split
      · next i victim => exact .step distinct victim (ih (turnOff_eases.channelsDistinct distinct))
      · exact .refl
    · exact .refl

end

/-! ### A capacity increase (R114, R119) -/

/-- A late grant stays within the capacity. -/
theorem lateGrantLoop_count (n : Nat) {s : State} (room : s.energisedCount ≤ s.hsc.capacity) :
    (lateGrantLoop n s).energisedCount ≤ s.hsc.capacity := by
  induction n generalizing s with
  | zero => exact room
  | succ n ih =>
    unfold lateGrantLoop
    split
    · next below =>
      split
      · next i l free _ =>
        have fewer : (allocateChan i l s).energisedCount = s.energisedCount + 1 := by
          rw [← putChan_energisedCount_of_free (l := l) (g := s.hsc.grants + 1) (freeChan_free free)]
          simp only [State.energisedCount, allocateChan_chan, putChan_chan]
        have more := ih (s := allocateChan i l s) (by rw [allocateChan_capacity, fewer]; exact below)
        rwa [allocateChan_capacity] at more
      · exact room
    · exact room

theorem lateGrant_count {s : State} (room : s.energisedCount ≤ s.hsc.capacity) :
    (lateGrant s).energisedCount ≤ s.hsc.capacity := by
  unfold lateGrant
  split
  · exact lateGrantLoop_count 16 room
  · exact room

/-! ### The capacity handed over (R105, R118, R119) -/

/-- What a capacity handed to HSC makes of the channels. -/
structure CapacityTaken (c : Nat) (s t : State) : Prop where
  capacity : t.hsc.capacity = c
  count : t.energisedCount ≤ c
  lowered : c < s.hsc.capacity → ChannelsDistinct s →
    t.energisedCount = min s.energisedCount c ∧ Decreased s t
  raised : s.hsc.capacity < c → s.mode = .operating → QueuesDistinct s →
    LateGranted { s with hsc := { s.hsc with capacity := c } } t
  stood : c = s.hsc.capacity ∨ s.hsc.capacity < c ∧ s.mode ≠ .operating →
    t.hsc.chans = s.hsc.chans ∧ t.ahu.paths = s.ahu.paths ∧ t.hsc.grants = s.hsc.grants

/-- Two states agree in what the words about channels speak of. -/
structure SameHeat (s s' : State) : Prop where
  hsc : s'.hsc = s.hsc
  paths : s'.ahu.paths = s.ahu.paths
  marks : s'.mrw.marks = s.mrw.marks

section
variable {s s' t t' : State}

theorem Decreased.congr (chans : s'.hsc.chans = s.hsc.chans) (counter : s'.hsc.grants = s.hsc.grants)
    (ahu : s'.ahu.paths = s.ahu.paths) (mrw : s'.mrw.marks = s.mrw.marks) (lke : s'.lke = s.lke)
    (after : SameHeat t t') (d : Decreased s' t) : Decreased s t' := by
  have chan (i : Chan) : s'.chan i = s.chan i := chan_of_hsc chans i
  have path (l : Locker) : s'.paths l = s.paths l := paths_of_ahu ahu l
  have ctx (l : Locker) : s'.ctx l = s.ctx l := ctx_of_lke lke l
  have chan' (i : Chan) : t'.chan i = t.chan i := by simp only [State.chan, after.hsc]
  have path' (l : Locker) : t'.paths l = t.paths l := paths_of_ahu after.paths l
  have mark' (l : Locker) : t'.marks l = t.marks l := marks_of_mrw after.marks l
  obtain ⟨halted, others, paths, kept, grants⟩ := d
  simp only [chan, path, HaltedAhead, warming, ctx, counter, HeatCommanded, ← chan', ← path', ← mark',
    ← after.hsc] at halted others paths grants
  exact ⟨halted, others, paths,
    ((marksKept_of_mrw mrw).trans kept).trans (marksKept_of_mrw after.marks), grants⟩

theorem LateGranted.congr (hsc : s'.hsc = s.hsc) (seq : ∀ l, (s'.paths l).heat.seq = (s.paths l).heat.seq)
    (copies : s'.copies = s.copies) (after : SameHeat t t') (g : LateGranted s' t) : LateGranted s t' := by
  have chan (i : Chan) : s'.chan i = s.chan i := by simp only [State.chan, hsc]
  have chan' (i : Chan) : t'.chan i = t.chan i := by simp only [State.chan, after.hsc]
  have path' (l : Locker) : t'.paths l = t.paths l := paths_of_ahu after.paths l
  have mark' (l : Locker) : t'.marks l = t.marks l := marks_of_mrw after.marks l
  have free : freeChans s' = freeChans s := by simp only [freeChans, chan, copies]
  have unserved' : unserved s' = unserved s := by simp only [unserved, chan, hsc]
  have grants' : lateGrants s' = lateGrants s := by
    simp only [lateGrants, free, unserved', hsc, State.energisedCount, chan]
  obtain ⟨granted, others, grants, hq, wq⟩ := g
  constructor
  · simpa only [free, unserved', grants', HeatCommanded, seq, chan', path', mark', hsc] using granted
  · simpa only [free, grants', chan, chan'] using others
  · simpa only [grants', hsc, after.hsc] using grants
  · rw [after.hsc, hq, hsc]
  · rw [after.hsc, wq, hsc]

end

theorem setCapacity_taken {s : State} (capacity : Nat) (room : s.energisedCount ≤ s.hsc.capacity) :
    CapacityTaken capacity s (setCapacity capacity s) := by
  let u : State := { s with hsc := { s.hsc with capacity := capacity } }
  unfold setCapacity
  dsimp only
  rcases Nat.lt_trichotomy capacity s.hsc.capacity with less | same | more
  · rw [if_pos less]
    have count : (decreaseLoop 16 u).energisedCount = min u.energisedCount u.hsc.capacity :=
      decreaseLoop_energisedCount ((energisedCount_le_sixteen u).trans (Nat.le_add_right ..))
    refine ⟨(decreaseLoop_within.limit (by decide)).1, count.trans_le (Nat.min_le_right ..), fun _ distinct => ⟨count, ?_⟩,
      fun more => absurd more (by omega), fun stands => absurd stands (by omega)⟩
    exact Decreased.congr (s' := u) rfl rfl rfl rfl rfl ⟨rfl, rfl, rfl⟩ (decreaseLoop_decreased 16 distinct)
  · rw [if_neg (by omega), if_neg (by omega)]
    exact ⟨same.symm, by rw [same]; exact room, fun less => absurd less (by omega), fun more => absurd more (by omega),
      fun _ => ⟨rfl, rfl, rfl⟩⟩
  · rw [if_neg (by omega), if_pos more]
    have wide : u.energisedCount ≤ u.hsc.capacity := room.trans more.le
    refine ⟨(lateGrant_within.limit (by decide)).1, lateGrant_count wide, fun less => absurd less (by omega),
      fun _ mode distinct => (lateGrant_spec (s := u) mode distinct).1, fun stands => ?_⟩
    have calm : u.mode ≠ .operating := (stands.resolve_left (by omega)).2
    rw [lateGrant_idle calm]
    exact ⟨rfl, rfl, rfl⟩

theorem setCapacity_overrun (c : Nat) (s : State) : (setCapacity c s).hsc.overrun = s.hsc.overrun := by
  unfold setCapacity
  dsimp only
  split
  · exact (decreaseLoop_within.limit (by decide)).2
  · split
    · exact (lateGrant_within.limit (by decide)).2
    · rfl

theorem CapacityTaken.congr {c : Nat} {s s' t t' : State} (same : SameHeat s s') (lke : s'.lke = s.lke)
    (ops : s'.mode = s.mode ∧ s'.copies = s.copies) (after : SameHeat t t') (taken : CapacityTaken c s' t) :
    CapacityTaken c s t' := by
  have chan (i : Chan) : s'.chan i = s.chan i := by simp only [State.chan, same.hsc]
  have count : t'.energisedCount = t.energisedCount := by simp only [State.energisedCount, State.chan, after.hsc]
  have count' : s'.energisedCount = s.energisedCount := by simp only [State.energisedCount, State.chan, same.hsc]
  obtain ⟨capacity, within_, lowered, raised, stood⟩ := taken
  rw [same.hsc] at lowered raised stood
  rw [ops.1] at raised stood
  refine ⟨by rw [after.hsc, capacity], count.trans_le within_, fun less distinct => ?_, fun more mode distinct => ?_,
    fun stands => ?_⟩
  · obtain ⟨least, decreased⟩ := lowered less (by simpa only [ChannelsDistinct, chan] using distinct)
    exact ⟨by rw [count, least, count'],
      decreased.congr (by rw [same.hsc]) (by rw [same.hsc]) same.paths same.marks lke after⟩
  · have granted := raised more mode (by simpa only [QueuesDistinct, State.ranking, same.hsc] using distinct)
    exact LateGranted.congr (s' := { s' with mode := s.mode, hsc := { s.hsc with capacity := c } }) rfl
      (fun l => congrArg (·.heat.seq) (paths_of_ahu same.paths l)) ops.2 after granted
  · obtain ⟨chans, paths, grants⟩ := stood stands
    exact ⟨by rw [after.hsc, chans], after.paths.trans (paths.trans same.paths), by rw [after.hsc, grants]⟩

/-! ### Transitions (R164 to R168) -/

/-- The timers set for the state entered, some ms after SUP's last event. -/
def timersTaken (entered : Supply) (d : Nat) (s : State) : State :=
  setTimers entered { s with sup := s.sup.advance d }

section
variable {s : State} {entered : Supply} {d : Nat}

theorem timersTaken_within : Within [.sup] s (timersTaken entered d s) := by
  have advanced : Within [.sup] s { s with sup := s.sup.advance d } := by constructor <;> simp
  exact advanced.next setTimers_within

theorem timersTaken_sup : (timersTaken entered d s).sup = timersOf entered s.feed d s.copies s.sup :=
  setTimers_advanced entered s.feed d s

theorem supplyTo_eq : supplyTo entered d s
    = handRecord (supplyRecord (timersTaken entered d s) s.sup.st entered)
        (setCapacity (s.capacityOf entered) (timersTaken entered d s)) := by
  cases entered <;> rfl

/-- A field of 16 bits with one of few bits above it, as a number. -/
theorem fld_or_fld (a b : Nat) (few : b < 256) : fld 0 16 a ||| fld 16 8 b = BitVec.ofNat 32 (a % 65536 + 65536 * b) := by
  have low : (fld 0 16 a).toNat = a % 65536 := by simp [fld]; omega
  have high : (fld 16 8 b).toNat = 65536 * b := by simp [fld, Nat.shiftLeft_eq]; omega
  have below : a % 65536 < 2 ^ 16 := by omega
  have sum := Nat.two_pow_add_eq_or_of_lt below b
  apply BitVec.eq_of_toNat_eq
  rw [BitVec.toNat_or, low, high, Nat.lor_comm, ← show 2 ^ 16 * b = 65536 * b from rfl, ← sum, BitVec.toNat_ofNat]
  omega

/-- The SUPPLY_STATE record, in the statement's words. -/
theorem supplyRecord_eq {left : Supply} : supplyRecord (timersTaken entered d s) left entered
    = { kind := .supplyState, locker := 255, detail := BitVec.ofNat 16 entered.code, order := 0, time := s.tmb.seconds,
        data := BitVec.ofNat 32 (s.capacityOf entered % 65536 + 65536 * left.code) } := by
  have few : left.code < 256 := by cases left <;> decide
  have capacity : (timersTaken entered d s).capacityOf entered = s.capacityOf entered := by cases entered <;> rfl
  rw [supplyRecord, capacity, fld_or_fld _ _ few]
  rfl

theorem supplyTo_taken (room : s.energisedCount ≤ s.hsc.capacity) :
    CapacityTaken (s.capacityOf entered) s (settle (supplyTo entered d s)) := by
  have timers : Within [.sup] s (timersTaken entered d s) := timersTaken_within
  have hsc : (timersTaken entered d s).hsc = s.hsc := timers.hsc_eq (by decide) (by decide) (by decide)
  have taken := setCapacity_taken (s := timersTaken entered d s) (s.capacityOf entered)
    (by simpa only [State.energisedCount, State.chan, hsc] using room)
  refine taken.congr ⟨hsc, timers.paths (by decide), timers.marks (by decide)⟩ (timers.lke (by decide))
    ⟨timers.mode, timers.copies⟩ ⟨?_, ?_, ?_⟩
  · rw [settle_hsc, supplyTo_eq]; rfl
  · rw [settle_ahu_paths, supplyTo_eq]; rfl
  · rw [settle_mrw_marks, supplyTo_eq]; rfl

end

/-- The row that completes a timer in a supply state, with the state entered (R165; log 19). -/
theorem exec_completion {s : State} {c : Instr} {left entered : Supply} {capacity : Nat} (st : s.sup.st = left)
    (which : c = .shedTrip ∧ left = .normal ∧ entered = .shed ∧ capacity = s.copies.cshed
        ∧ (∃ e, s.sup.shedTrip = some e ∧ ∀ k, s.sup.cutTrip = some k → k < e)
      ∨ (c = .shedTrip ∨ c = .cutTrip) ∧ left = .normal ∧ entered = .cut ∧ capacity = 0
        ∧ (∃ e k, s.sup.shedTrip = some e ∧ s.sup.cutTrip = some k ∧ e ≤ k)
      ∨ c = .cutTrip ∧ left = .shed ∧ entered = .cut ∧ capacity = 0 ∧ s.sup.cutTrip ≠ none
      ∨ c = .shedRelease ∧ left = .shed ∧ entered = .normal ∧ capacity = s.copies.cmax ∧ s.sup.shedRelease ≠ none
      ∨ c = .cutRelease ∧ left = .cut ∧ entered = .shed ∧ capacity = s.copies.cshed ∧ s.sup.cutRelease ≠ none) :
    exec c s = .next (settle (supplyTo entered (dwellLeft c s.sup) s)) ∧ s.capacityOf entered = capacity := by
  rcases which with ⟨rfl, rfl, rfl, rfl, e, shed, first⟩ | ⟨row, rfl, rfl, rfl, e, k, shed, cut, order⟩
    | ⟨rfl, rfl, rfl, rfl, runs⟩ | ⟨rfl, rfl, rfl, rfl, runs⟩ | ⟨rfl, rfl, rfl, rfl, runs⟩
  · have later : s.sup.cutFirst = false := by
      cases cut : s.sup.cutTrip with
      | none => simp [Sup.cutFirst, shed, cut]
      | some k => simpa [Sup.cutFirst, shed, cut] using first k cut
    refine ⟨?_, rfl⟩
    simp [exec, execShedTrip, st, shed, later, done, dwellLeft]
    rfl
  · have both : s.sup.cutFirst = true := by simpa [Sup.cutFirst, shed, cut] using order
    refine ⟨?_, rfl⟩
    rcases row with rfl | rfl
    · simp [exec, execShedTrip, st, shed, both, done, dwellLeft]
      rfl
    · simp [exec, execCutTrip, st, cut, both, done, dwellLeft]
      rfl
  · obtain ⟨k, cut⟩ := Option.ne_none_iff_exists'.mp runs
    refine ⟨?_, rfl⟩
    simp [exec, execCutTrip, st, cut, done, dwellLeft]
    rfl
  · obtain ⟨e, shed⟩ := Option.ne_none_iff_exists'.mp runs
    refine ⟨?_, rfl⟩
    simp [exec, execShedRelease, st, shed, done, dwellLeft]
    rfl
  · obtain ⟨e, cut⟩ := Option.ne_none_iff_exists'.mp runs
    refine ⟨?_, rfl⟩
    simp [exec, execCutRelease, st, cut, done, dwellLeft]
    rfl

/-- Settles O57: the five completions are one transition each, and a clear timer completes nothing. -/
theorem completionsChangeSupply : Obligations.CompletionsChangeSupply := by
  refine ⟨fun s c left entered capacity room count st which => ?_, fun s => ⟨fun clear => ?_, fun clear => ?_,
    fun clear => ?_, fun clear => ?_⟩⟩
  · obtain ⟨ran, handed⟩ := exec_completion st which
    clear which
    subst handed
    generalize dwellLeft c s.sup = d at ran ⊢
    let u : State := timersTaken entered d s
    let v : State := setCapacity (s.capacityOf entered) u
    have kept : Within [.sup, .chans, .paths, .marks, .limit, .queue] s (supplyTo entered d s) := by
      rw [supplyTo_eq]
      exact (timersTaken_within.widen.next setCapacity_within).next handRecord_within
    have unhanded : HandedAll ([] ++ []) s v :=
      handedAll_trans (timersTaken_within.unhanded) (setCapacity_within.unhanded)
    have record : HandedAll [supplyRecord u s.sup.st entered] s (supplyTo entered d s) := by
      rw [supplyTo_eq]
      exact handedAll_trans unhanded (handRecord_handed _ _)
    rw [supplyRecord_eq, st] at record
    obtain ⟨capacity, within_, lowered, raised, stood⟩ := supplyTo_taken (entered := entered) (d := d) count
    obtain ⟨hq, wq⟩ := kept.entries (by decide)
    refine ⟨_, ran, ?_, capacity, within_, handedAll_settle record (kept.ringFull.trans room), ?_, ?_, ?_,
      lockersKept_settle (kept.lockersKept (by decide) (by decide)), (settle_tmb _).trans (kept.tmb (by decide)),
      outsideKept_settle (kept.outsideKept (by decide) (by decide)), fun less distinct => ?_,
      fun more mode _ distinct => raised more mode distinct, stood⟩
    · rw [settle_sup, supplyTo_eq, ← timersTaken_sup]
      exact setCapacity_within.sup (by decide)
    · rw [settle_hsc, hq]
    · rw [settle_hsc, wq]
    · rw [settle_hsc, supplyTo_eq]
      exact setCapacity_overrun _ _
    · obtain ⟨least, decreased⟩ := lowered less distinct
      exact ⟨least, decreased.grants, decreased.halted, decreased.others⟩
  · simp [exec, execShedTrip, clear]
  · simp [exec, execCutTrip, clear]
  · simp [exec, execShedRelease, clear]
  · simp [exec, execCutRelease, clear]

end Sys2Proof.Machine
end

section
/-! PROOFS. A probe's answer on one path, and the acknowledgement of a latch command (R87, R91, R97, R99, R133, R134). -/

-- One theorem after the other: a thread for each would ask for more stack space than a build may have.
set_option Elab.async false

namespace Sys2Proof.Machine

/-! ### A probe of one path (R133) -/

/-- The state in which a probe's answer is judged. -/
def probeRead (p : List PortWrite) (s : State) : State :=
  { s with mpi := { s.mpi with port := none }, mem := s.mem.port2 p }

section
variable {s : State} {l : Locker} {x : Txn} {p : List PortWrite} {fault : Bool} {w : Word}

theorem probeRead_within : Within [.mpi, .mem] s (probeRead p s) := readBack_within

theorem probeRead_mem : (probeRead p s).mem = s.mem.port2 p := rfl

/-- The word that a probe hands on: none where its beat has a parity fault. -/
abbrev answerWord (fault : Bool) (w : Word) : Option Word := if fault then none else some w

/-- With the latch path alone in PROBING a probe judges that path. -/
theorem exec_probe_latch (probe : ProbeOf l .latch w x p s) : exec (.probeComplete p fault) s
    = .next (settle (judgePath l (answerWord fault w) (probeRead p s) .latch)) := by
  obtain ⟨port, word, -, others⟩ := probe
  have heat : (((probeRead p s).paths l).get .heat).st ≠ .probing := others .heat (by decide)
  rw [exec_probeComplete p fault port, word]
  change Host.Outcome.next (settle (judgePath l _ (judgePath l _ (probeRead p s) .heat) .latch)) = _
  rw [judgePath_of_still heat]
  rfl

/-- With the heat path alone in PROBING a probe judges that path, and nothing that follows has the latch path probing. -/
theorem exec_probe_heat (probe : ProbeOf l .heat w x p s)
    (still : (((judgePath l (answerWord fault w) (probeRead p s) .heat).paths l).get .latch).st ≠ .probing) :
    exec (.probeComplete p fault) s = .next (settle (judgePath l (answerWord fault w) (probeRead p s) .heat)) := by
  obtain ⟨port, word, -, -⟩ := probe
  rw [exec_probeComplete p fault port, word]
  change Host.Outcome.next (settle (judgePath l (answerWord fault w)
    (judgePath l (answerWord fault w) (probeRead p s) .heat) .latch)) = _
  rw [judgePath_of_still still]

end

/-! ### Answers (R133, R134) -/

/-- A path whose command is acknowledged. -/
def PathRec.acked (r : PathRec) : PathRec :=
  { r with st := .idle, probes := 0, naks := 0, fin := 0, errs := if r.errs < 3 then 0 else r.errs }

section
variable {s : State} {l : Locker} {k : PathKind} {w : Word}

theorem judgePath_of_ack (probing : ((s.paths l).get k).st = .probing) (seq : ackSeq k w = ((s.paths l).get k).seq)
    (code : ackCode k w = .ack) :
    judgePath l (some w) s k = pathAcked l k (putPath l k ((s.paths l).get k).acked s) := by
  unfold judgePath
  simp only [probing, seq, code, if_true]
  rfl

end

/-! ### One hatch of an acknowledged latch command (R87, R91) -/

/-- What LTC hands LKE at the end of a sequence, by the relatch kind; a relatch of the restore ends none. -/
def relatchEnd (l : Locker) (h : Hatch) (r : LatchRec) (s : State) : State :=
  match r.kind with
  | .opened => relatchOutcome l h (.opened r.tray) s
  | .notOpened => relatchOutcome l h .notOpened s
  | .restore | .none => s

section
variable {s : State} {l : Locker} {h : Hatch}

theorem ackHatch_of_unlatchPending (st : (s.latch l h).st = .unlatchPending) : ackHatch l s h
    = putLatch l h { s.latch l h with st := .openWait, openWait := s.copies.openWait } s := by
  simp only [ackHatch, st]

theorem ackHatch_of_relatchPending (st : (s.latch l h).st = .relatchPending) :
    ackHatch l s h = relatchEnd l h (s.latch l h) (putLatch l h ((s.latch l h).rest .latched) s) := by
  simp only [ackHatch, st]
  rfl

theorem ackHatch_of_other (unlatch : (s.latch l h).st ≠ .unlatchPending) (relatch : (s.latch l h).st ≠ .relatchPending) :
    ackHatch l s h = s := by
  unfold ackHatch
  dsimp only
  split <;> simp_all

/-- Of two latches of which one alone takes the acknowledgement, that one does. -/
theorem ltcAck_of_one (before : ∀ g, g ≠ h → (s.latch l g).st ≠ .unlatchPending ∧ (s.latch l g).st ≠ .relatchPending)
    (after : ∀ g, g ≠ h → (ackHatch l s h).latch l g = s.latch l g) : ltcAck l s = ackHatch l s h := by
  cases h with
  | front =>
    obtain ⟨unlatch, relatch⟩ := before .rear (by decide)
    rw [← after .rear (by decide)] at unlatch relatch
    rw [ltcAck, ackHatch_of_other unlatch relatch]
  | rear =>
    obtain ⟨unlatch, relatch⟩ := before .front (by decide)
    rw [ltcAck, ackHatch_of_other unlatch relatch]

theorem putLatch_latch_ne {r : LatchRec} {g : Hatch} (other : g ≠ h) : (putLatch l h r s).latch l g = s.latch l g := by
  rw [putLatch_latch, if_neg fun same => other same.2]

theorem putLatch_latch_self {r : LatchRec} : (putLatch l h r s).latch l h = r := by
  rw [putLatch_latch, if_pos ⟨rfl, rfl⟩]

end

/-! ### Acknowledgements that end no sequence (R87, R91, R97, R99) -/

/-- The state in which an acknowledgement of the latch command reaches LTC. -/
def latchAcked (l : Locker) (p : List PortWrite) (s : State) : State :=
  putPath l .latch (s.paths l).latch.acked (probeRead p s)

section
variable {s : State} {l : Locker} {h : Hatch} {x : Txn} {p : List PortWrite} {w : Word}

theorem latchAcked_within : Within [.mpi, .mem, .paths, .marks] s (latchAcked l p s) :=
  probeRead_within.widen.next putPath_within

theorem latchAcked_paths (k : Locker) : (latchAcked l p s).paths k
    = if k = l then { s.paths l with latch := (s.paths l).latch.acked } else s.paths k := putPath_paths ..

theorem latchAcked_mem : (latchAcked l p s).mem = s.mem.port2 p :=
  putPath_within.mem (by decide)

theorem exec_latchAck (probe : ProbeOf l .latch w x p s) (seq : ackSeq .latch w = (s.paths l).latch.seq)
    (code : ackCode .latch w = .ack) :
    exec (.probeComplete p false) s = .next (settle (ltcAck l (latchAcked l p s))) := by
  have probing : (((probeRead p s).paths l).get .latch).st = .probing := probe.2.2.1
  have same : ackSeq .latch w = (((probeRead p s).paths l).get .latch).seq := seq
  rw [exec_probe_latch probe]
  change Host.Outcome.next (settle (judgePath l (some w) (probeRead p s) .latch)) = _
  rw [judgePath_of_ack probing same code]
  rfl

/-- The words about an acknowledged command, where the latches alone take it. -/
theorem latchAcked_of {after : State → Prop}
    (kept : ∀ p, Within [.ltc, .marks, .fast, .entries] (latchAcked l p s) (ltcAck l (latchAcked l p s)))
    (latches : ∀ p k, k ≠ l → (ltcAck l (latchAcked l p s)).latches k = s.latches k)
    (ends : ∀ p, after (settle (ltcAck l (latchAcked l p s)))) : LatchAcked l s after := by
  intro x p w probe seq code room
  have whole : Within [.mpi, .mem, .paths, .marks, .ltc, .fast, .entries] s (ltcAck l (latchAcked l p s)) :=
    latchAcked_within.widen.next (kept p)
  have paths (k : Locker) : (settle (ltcAck l (latchAcked l p s))).paths k
      = if k = l then { s.paths l with latch := (s.paths l).latch.acked } else s.paths k := by
    rw [settle_paths, (kept p).pathsAt k, latchAcked_paths]
  refine ⟨_, exec_latchAck probe seq code, ?_, fun k other => ⟨?_, ?_⟩, (settle_lke _).trans (whole.lke (by decide)),
    ?_, queue_of_unhanded (handedAll_settle whole.unhanded (whole.ringFull.trans room)), ?_, ends p⟩
  · rw [paths, if_pos rfl]
    rfl
  · rw [paths, if_neg other]
  · rw [settle_latches, latches p k other]
  · rw [settle_hsc]
    exact (whole.chans (by decide)).1
  · rw [settle_mem, (kept p).mem (by decide), latchAcked_mem]

theorem latchAcked_latch (g : Hatch) : (latchAcked l p s).latch l g = s.latch l g := latchAcked_within.latch l g

end

theorem releaseAcked : ReleaseAcked := by
  intro s l h st others
  have acked (p : List PortWrite) : ltcAck l (latchAcked l p s) = putLatch l h
      { s.latch l h with st := .openWait, openWait := s.copies.openWait } (latchAcked l p s) := by
    have one : ackHatch l (latchAcked l p s) h = _ := ackHatch_of_unlatchPending (by rw [latchAcked_latch, st])
    rw [latchAcked_latch, latchAcked_within.copies] at one
    rw [ltcAck_of_one (h := h) (fun g ne => by rw [latchAcked_latch]; exact others g ne)
      (fun g ne => by rw [one, putLatch_latch_ne ne]), one]
  refine latchAcked_of (fun p => ?_) (fun p k other => ?_) fun p => ?_
  · rw [acked]
    exact putLatch_within
  · rw [acked, putLatch_latches, if_neg other, latchAcked_within.latches k]
  · rw [settle_latch, settle_fastPoll, acked]
    refine ⟨putLatch_latch_self, fun g ne => ?_, ?_⟩
    · rw [settle_latch, putLatch_latch_ne ne, latchAcked_latch]
    · rw [putLatch_fastPoll, if_pos rfl, LatchPair.inSeq_set rfl]

theorem overtakenAck : OvertakenAck := by
  intro s l still
  have acked (p : List PortWrite) : ltcAck l (latchAcked l p s) = latchAcked l p s := by
    have other (g : Hatch) : ackHatch l (latchAcked l p s) g = latchAcked l p s :=
      ackHatch_of_other (by rw [latchAcked_latch]; exact (still g).1) (by rw [latchAcked_latch]; exact (still g).2)
    rw [ltcAck, other, other]
  refine latchAcked_of (fun p => ?_) (fun p k _ => ?_) fun p => ?_
  · rw [acked]
    exact .refl
  · rw [acked, latchAcked_within.latches k]
  · rw [settle_ltc, settle_fastPoll, acked]
    exact ⟨latchAcked_within.ltc (by decide), (latchAcked_within.fast (by decide)).1⟩

/-- A relatch of the restore hands LKE nothing. -/
theorem ackHatch_of_restore {s : State} {l : Locker} {h : Hatch} (st : (s.latch l h).st = .relatchPending)
    (kind : (s.latch l h).kind = .restore) : ackHatch l s h = putLatch l h ((s.latch l h).rest .latched) s := by
  rw [ackHatch_of_relatchPending st, relatchEnd, kind]

theorem restoreRelatchAcked : RestoreRelatchAcked := by
  intro s l _ pending
  have acked (p : List PortWrite) : ltcAck l (latchAcked l p s)
      = putLatch l .rear ((s.latch l .rear).rest .latched)
          (putLatch l .front ((s.latch l .front).rest .latched) (latchAcked l p s)) := by
    have front : ackHatch l (latchAcked l p s) .front = _ := ackHatch_of_restore
      (by rw [latchAcked_latch, (pending .front).1]) (by rw [latchAcked_latch, (pending .front).2])
    rw [latchAcked_latch] at front
    have rear : (ackHatch l (latchAcked l p s) .front).latch l .rear = s.latch l .rear := by
      rw [front, putLatch_latch_ne (by decide), latchAcked_latch]
    rw [ltcAck, ackHatch_of_restore (by rw [rear, (pending .rear).1]) (by rw [rear, (pending .rear).2]), rear, front]
  refine latchAcked_of (fun p => ?_) (fun p k other => ?_) fun p => ⟨fun h => ?_, ?_⟩
  · rw [acked]
    exact putLatch_within.next putLatch_within
  · rw [acked, putLatch_latches, if_neg other, putLatch_latches, if_neg other, latchAcked_within.latches k]
  · rw [settle_latch, acked]
    cases h with
    | front =>
      rw [putLatch_latch_ne (by decide), putLatch_latch_self]
      rfl
    | rear =>
      rw [putLatch_latch_self]
      rfl
  · rw [settle_fastPoll, acked, putLatch_fastPoll, if_pos rfl, putLatch_latches, if_pos rfl]
    rfl

end Sys2Proof.Machine
end

section
/-! PROOFS. What the end of a sequence does to its locker: the relatch outcomes (R41, R45, R50, R52, R57, R61, R62, R91). -/

-- One theorem after the other: a thread for each would ask for more stack space than a build may have.
set_option Elab.async false

namespace Sys2Proof.Machine

/-! ### Outcomes with both latches LATCHED (R44, R45, R50, R52, R57) -/

/-- What a relatch outcome can touch where no release is left to withdraw. -/
def outcomeParts : List Part := [.lke, .marks, .counts, .entries, .chans, .paths, .recs, .sweep, .queue]

section
variable {s : State} {l : Locker} {h : Hatch}

/-- With both latches LATCHED there is nothing to withdraw. -/
theorem withdraw_of_latched {i : Lifecycle} (latched : ∀ g, (s.latch l g).st = .latched) : withdraw l i s = s := by
  have front : withdrawHatch l i s .front = s := withdrawHatch_of_still (.inr (.inl (latched .front)))
  rw [withdraw, front, withdrawHatch_of_still (.inr (.inl (latched .rear)))]

theorem quarantine_of_latched {r : Reason} (latched : ∀ g, (s.latch l g).st = .latched) : quarantine l r s
    = handRecord (lockerRecord s .quarantined l r.code (BitVec.ofNat 32 (s.ctx l).life.code))
        (enterHalting l ((s.ctx l).quarantined r) s) := by
  unfold quarantine
  dsimp only
  rw [withdraw_of_latched fun g => by rw [handRecord_latch, enterHalting_latch, latched g]]

/-- With both latches LATCHED a relatch outcome is one change of context with its record, or nothing. -/
theorem relatchOutcome_forms {o : RelatchOutcome} {P : State → Prop} (latched : ∀ g, (s.latch l g).st = .latched)
    (still : P s) (changed : ∀ c r, P (handRecord r (putCtx l c s)))
    (halted : ∀ c r, P (handRecord r (enterHalting l c s))) (vacated : ∀ r, P (handRecord r (enterVacant l s))) :
    P (relatchOutcome l h o s) := by
  unfold relatchOutcome
  split
  · unfold relatchLoading
    dsimp only
    split <;> exact changed _ _
  · unfold relatchCollecting
    dsimp only
    split
    · exact vacated _
    · split
      · exact changed _ _
      · exact halted _ _
    · exact changed _ _
  · unfold relatchClearing
    dsimp only
    split
    · exact vacated _
    · rw [quarantine_of_latched latched]
      exact halted _ _
    · unfold returnFromClearing
      dsimp only
      split
      · exact changed _ _
      · exact halted _ _
  all_goals exact still

theorem relatchEnd_forms {r : LatchRec} {P : State → Prop} (latched : ∀ g, (s.latch l g).st = .latched)
    (still : P s) (changed : ∀ c r, P (handRecord r (putCtx l c s)))
    (halted : ∀ c r, P (handRecord r (enterHalting l c s))) (vacated : ∀ r, P (handRecord r (enterVacant l s))) :
    P (relatchEnd l h r s) := by
  unfold relatchEnd
  split
  · exact relatchOutcome_forms latched still changed halted vacated
  · exact relatchOutcome_forms latched still changed halted vacated
  all_goals exact still

theorem relatchEnd_within_of_latched {r : LatchRec} (latched : ∀ g, (s.latch l g).st = .latched) :
    Within outcomeParts s (relatchEnd l h r s) :=
  relatchEnd_forms latched .refl (fun _ _ => putCtx_within.widen.next handRecord_within)
    (fun _ _ => enterHalting_within.widen.next handRecord_within)
    fun _ => (enterHalting_within.widen.next enterVacant_tail).next handRecord_within

theorem relatchEnd_others {r : LatchRec} (latched : ∀ g, (s.latch l g).st = .latched) :
    OtherLockersKept l s (relatchEnd l h r s) :=
  relatchEnd_forms latched Others.refl (fun _ _ => Others.trans putCtx_others (handRecord_within.others rfl l))
    (fun _ _ => Others.trans enterHalting_others (handRecord_within.others rfl l))
    fun _ => Others.trans enterVacant_others (handRecord_within.others rfl l)

theorem enterVacant_latchStage : ((enterVacant l s).paths l).latch.st = (s.paths l).latch.st := by
  rw [enterVacant_eq, leaveSweep_paths, putSampler_paths, zeroErrors_paths, enterHalting_latchPath]

/-- No outcome moves the latch command. -/
theorem relatchEnd_latchStage {r : LatchRec} (latched : ∀ g, (s.latch l g).st = .latched) :
    ((relatchEnd l h r s).paths l).latch.st = (s.paths l).latch.st :=
  relatchEnd_forms (P := fun t => (t.paths l).latch.st = (s.paths l).latch.st) latched rfl
    (fun _ _ => by rw [handRecord_paths, putCtx_paths])
    (fun _ _ => by rw [handRecord_paths, enterHalting_latchPath])
    fun _ => by rw [handRecord_paths, enterVacant_latchStage]

end

/-! ### An acknowledgement that relatches (R87, R91, R97) -/

/-- The parts that an acknowledged relatch reaches ahead of its outcome. -/
def relatchParts : List Part := [.mpi, .mem, .paths, .marks, .ltc, .fast, .entries]

/-- The state that a relatch leaves, before its outcome. -/
def relatched (l : Locker) (h : Hatch) (p : List PortWrite) (s : State) : State :=
  putLatch l h ((s.latch l h).rest .latched) (latchAcked l p s)

section
variable {s : State} {l : Locker} {h : Hatch} {p : List PortWrite}

theorem relatched_within : Within relatchParts s (relatched l h p s) := latchAcked_within.widen.next putLatch_within

theorem relatched_latch_self : (relatched l h p s).latch l h = (s.latch l h).rest .latched := putLatch_latch_self

theorem relatched_latch_ne {g : Hatch} (ne : g ≠ h) : (relatched l h p s).latch l g = s.latch l g := by
  rw [relatched, putLatch_latch_ne ne, latchAcked_latch]

theorem relatched_latched (others : ∀ g, g ≠ h → (s.latch l g).st = .latched) (g : Hatch) :
    ((relatched l h p s).latch l g).st = .latched := by
  by_cases same : g = h
  · subst same
    rw [relatched_latch_self]
    rfl
  · rw [relatched_latch_ne same, others g same]

theorem relatched_others : OtherLockersKept l s (relatched l h p s) :=
  Others.trans (latchAcked_within.others rfl l) putLatch_others

theorem relatched_fastPoll (others : ∀ g, g ≠ h → (s.latch l g).st = .latched) :
    (relatched l h p s).smp.fastPoll[l.val] = false := by
  rw [relatched, putLatch_fastPoll, if_pos rfl, latchAcked_within.latches l]
  cases h with
  | front =>
    have rear : (s.latches l).rear.st = .latched := others .rear (by decide)
    simp [LatchPair.inSeq, LatchPair.set, rear, LatchRec.rest, LatchState.inSeq]
  | rear =>
    have front : (s.latches l).front.st = .latched := others .front (by decide)
    simp [LatchPair.inSeq, LatchPair.set, front, LatchRec.rest, LatchState.inSeq]

theorem relatched_latchStage : ((relatched l h p s).paths l).latch.st = .idle := by
  rw [relatched, putLatch_paths, latchAcked_paths, if_pos rfl]
  rfl

end

/-- The words about a relatch, from what its outcome does to the state that the relatch leaves. -/
theorem relatches_of_outcome {l : Locker} {h : Hatch} {s : State} {after : State → Prop}
    (outcome : ∀ u, Within relatchParts s u → (∀ g, (u.latch l g).st = .latched) → s.ringFull = false →
      after (settle (relatchEnd l h (s.latch l h) u))) : Relatches l h s after := by
  intro x p w _ probe seq code st others room
  let u : State := relatched l h p s
  have before : Within relatchParts s u := relatched_within
  have latched : ∀ g, (u.latch l g).st = .latched := relatched_latched others
  have one : ackHatch l (latchAcked l p s) h = relatchEnd l h (s.latch l h) u := by
    rw [ackHatch_of_relatchPending (by rw [latchAcked_latch, st]), latchAcked_latch]
    rfl
  have ends : Within outcomeParts u (relatchEnd l h (s.latch l h) u) := relatchEnd_within_of_latched latched
  have acked : ltcAck l (latchAcked l p s) = relatchEnd l h (s.latch l h) u := by
    rw [ltcAck_of_one (h := h) (fun g ne => ?_) (fun g ne => ?_), one]
    · rw [latchAcked_latch, others g ne]
      decide
    · rw [one, ends.latch l g, relatched_latch_ne ne, latchAcked_latch]
  have ran := exec_latchAck probe seq code
  rw [acked] at ran
  have elsewhere : OtherLockersKept l s (relatchEnd l h (s.latch l h) u) :=
    Others.trans relatched_others (relatchEnd_others latched)
  refine ⟨_, ran, ?_, fun g ne => ?_, ?_, ?_, otherLockersKept_settle elsewhere, outcome u before latched room⟩
  · rw [settle_latch, ends.latch l h, relatched_latch_self]
    rfl
  · rw [settle_latch, ends.latch l g, relatched_latch_ne ne]
  · rw [settle_paths, relatchEnd_latchStage latched, relatched_latchStage]
  · rw [settle_fastPoll, ends.fastPoll, relatched_fastPoll others]

/-! ### What each outcome leaves (R50, R52, R57, R62) -/

/-- What one change of context can touch. -/
def changeParts : List Part := [.lke, .marks, .counts, .entries, .chans, .paths, .recs, .sweep]

section
variable {s u : State} {l : Locker} {h : Hatch}

theorem putCtx_change {c : Context} : Within changeParts u (putCtx l c u) := putCtx_within.widen

theorem enterHalting_change {c : Context} : Within changeParts u (enterHalting l c u) := enterHalting_within.widen

theorem enterVacant_change : Within changeParts u (enterVacant l u) := enterHalting_within.widen.next enterVacant_tail

/-- A record about a locker, of a state whose context and clock are those of another. -/
theorem lockerRecord_of {v : State} (order : (v.ctx l).order = (s.ctx l).order) (tmb : v.tmb = s.tmb) (k : ReportKind)
    (detail : Nat) (data : Word) : lockerRecord v k l detail data = recordOf s l k (BitVec.ofNat 16 detail) data := by
  rw [lockerRecord, order, tmb]

/-- The record of an outcome, of which the context is one change after a relatch. -/
theorem outcome_handed {v w : State} (before : Within relatchParts s u) (change : Within changeParts u v)
    (room : s.ringFull = false) (order : (w.ctx l).order = (s.ctx l).order) (tmb : w.tmb = u.tmb) (k : ReportKind)
    (detail : Nat) (data : Word) : Handed (recordOf s l k (BitVec.ofNat 16 detail) data) s
      (settle (handRecord (lockerRecord w k l detail data) v)) := by
  have whole : Within (relatchParts ++ changeParts) s v := before.widen.next change
  have full : (handRecord (lockerRecord w k l detail data) v).ringFull = false :=
    (handRecord_within.ringFull.trans whole.ringFull).trans room
  rw [lockerRecord_of order (tmb.trans (before.tmb (by decide)))] at full ⊢
  exact handedAll_settle (handedAll_trans whole.unhanded (handRecord_handed _ _)) full

theorem settle_handed_ctx {r : Record} {v : State} : (settle (handRecord r v)).ctx l = v.ctx l := by
  rw [settle_ctx, handRecord_ctx]

theorem putCtx_ctx_self {c : Context} : (putCtx l c u).ctx l = c := by rw [putCtx_ctx, if_pos rfl]

theorem enterHalting_ctx_self {c : Context} : (enterHalting l c u).ctx l = c := by rw [enterHalting_ctx, if_pos rfl]

end

section
variable {u : State} {l : Locker}

/-- The context of a locker that is HOLDING again after a collection. -/
abbrev Context.holdingAgain (c : Context) : Context :=
  { c with life := .holding, reason := .none, ret := .none, collExp := none }

theorem relatchCollecting_taken : relatchCollecting l (.opened false) u
    = handRecord (lockerRecord u .collected l 0 (countsWord (u.ctx l))) (enterVacant l u) := rfl

theorem relatchCollecting_left (free : (u.ctx l).collExp = none) : relatchCollecting l (.opened true) u
    = handRecord (lockerRecord u .notTaken l 4 (countsWord (u.ctx l))) (putCtx l (u.ctx l).holdingAgain u) := by
  simp only [relatchCollecting, free]
  rfl

theorem relatchCollecting_expired {e : ExpiryReason} (expired : (u.ctx l).collExp = some e) :
    relatchCollecting l (.opened true) u = handRecord (lockerRecord u .notTaken l 6 (countsWord (u.ctx l)))
      (enterHalting l ((u.ctx l).expiredBy e) u) := by
  simp only [relatchCollecting, expired]
  rfl

theorem relatchCollecting_notOpened : relatchCollecting l .notOpened u
    = handRecord (lockerRecord (putCtx l (u.ctx l).holdingAgain u) .openTimeout l 4 0)
        (putCtx l (u.ctx l).holdingAgain u) := rfl

/-- The context of a locker that is LOADABLE again after a loading. -/
abbrev Context.loadableAgain (c : Context) : Context := { c with life := .loadable, reason := .none, ret := .none }

theorem relatchLoading_loaded : relatchLoading l (.opened true) u = handRecord (lockerRecord u .loaded l (u.ctx l).cls.val 0)
    (putCtx l { u.ctx l with life := .holding, reason := .none, hold := 0, cold := 0, collExp := none, ret := .none } u) :=
  rfl

theorem relatchLoading_empty : relatchLoading l (.opened false) u
    = handRecord (lockerRecord u .loadEmpty l 2 0) (putCtx l (u.ctx l).loadableAgain u) := rfl

theorem relatchLoading_notOpened : relatchLoading l .notOpened u
    = handRecord (lockerRecord (putCtx l (u.ctx l).loadableAgain u) .openTimeout l 2 1)
        (putCtx l (u.ctx l).loadableAgain u) := rfl

theorem relatchClearing_cleared : relatchClearing l (.opened false) u
    = handRecord (lockerRecord u .cleared l (u.ctx l).ret.life.code 0) (enterVacant l u) := rfl

/-- The state in which a CLEARING locker returns to where it came from. -/
def returned (l : Locker) (u : State) : State :=
  let c : Context := { u.ctx l with life := (u.ctx l).ret.life, ret := .none }
  if (u.ctx l).ret.life = .holding then putCtx l c u else enterHalting l c u

theorem relatchClearing_notOpened : relatchClearing l .notOpened u
    = handRecord (lockerRecord (returned l u) .openTimeout l (u.ctx l).ret.life.code 1) (returned l u) := rfl

theorem returned_change : Within changeParts u (returned l u) := by
  unfold returned
  dsimp only
  split
  · exact putCtx_change
  · exact enterHalting_change

theorem returned_ctx : (returned l u).ctx l = { u.ctx l with life := (u.ctx l).ret.life, ret := .none } := by
  unfold returned
  dsimp only
  split
  · exact putCtx_ctx_self
  · exact enterHalting_ctx_self

end

theorem collectionOutcomes : CollectionOutcomes := by
  intro s l life c r counts held
  refine relatches_of_outcome fun u before latched room => ?_
  have ctx : u.ctx l = s.ctx l := before.ctx l
  have word : countsWord (u.ctx l) = counts := by rw [ctx, countsWord_eq]
  have outcome (o : RelatchOutcome) : relatchOutcome l .front o u = relatchCollecting l o u := by
    simp only [relatchOutcome, ctx, life]
  refine ⟨fun kind tray => ?_, fun kind tray free => ?_, fun e kind tray expired => ?_, fun kind => ?_⟩
  · have ends : relatchEnd l .front r u = relatchCollecting l (.opened false) u := by
      rw [relatchEnd, kind, tray, ← outcome]
    rw [ends, relatchCollecting_taken, word, settle_handed_ctx, settle_sampler, handRecord_sampler, enterVacant_sampler,
      enterVacant_ctx, if_pos rfl, ctx]
    exact ⟨rfl, rfl, outcome_handed before enterVacant_change room (by rw [ctx]) rfl ..⟩
  · have ends : relatchEnd l .front r u = relatchCollecting l (.opened true) u := by
      rw [relatchEnd, kind, tray, ← outcome]
    rw [ends, relatchCollecting_left (by rw [ctx]; exact free), word, settle_handed_ctx, putCtx_ctx_self, ctx]
    exact ⟨rfl, outcome_handed before putCtx_change room (by rw [ctx]) rfl ..⟩
  · have ends : relatchEnd l .front r u = relatchCollecting l (.opened true) u := by
      rw [relatchEnd, kind, tray, ← outcome]
    rw [ends, relatchCollecting_expired (by rw [ctx]; exact expired), word, settle_handed_ctx, enterHalting_ctx_self, ctx]
    exact ⟨rfl, outcome_handed before enterHalting_change room (by rw [ctx]) rfl ..⟩
  · have ends : relatchEnd l .front r u = relatchCollecting l .notOpened u := by
      rw [relatchEnd, kind, ← outcome]
    rw [ends, relatchCollecting_notOpened, settle_handed_ctx, putCtx_ctx_self, ctx]
    exact ⟨rfl, outcome_handed before putCtx_change room (by rw [putCtx_ctx_self]) (putCtx_tmb ..) ..⟩

theorem loadingOutcomes : LoadingOutcomes := by
  intro s l life c r empty
  refine relatches_of_outcome fun u before latched room => ?_
  have ctx : u.ctx l = s.ctx l := before.ctx l
  have outcome (o : RelatchOutcome) : relatchOutcome l .rear o u = relatchLoading l o u := by
    simp only [relatchOutcome, ctx, life]
  refine ⟨fun kind tray => ?_, fun kind tray => ?_, fun kind => ?_⟩
  · have ends : relatchEnd l .rear r u = relatchLoading l (.opened true) u := by
      rw [relatchEnd, kind, tray, ← outcome]
    rw [ends, relatchLoading_loaded, settle_handed_ctx, putCtx_ctx_self, ctx]
    exact ⟨rfl, outcome_handed before putCtx_change room (by rw [ctx]) rfl ..⟩
  · have ends : relatchEnd l .rear r u = relatchLoading l (.opened false) u := by
      rw [relatchEnd, kind, tray, ← outcome]
    rw [ends, relatchLoading_empty, settle_handed_ctx, putCtx_ctx_self, ctx]
    exact ⟨rfl, outcome_handed before putCtx_change room (by rw [ctx]) rfl ..⟩
  · have ends : relatchEnd l .rear r u = relatchLoading l .notOpened u := by
      rw [relatchEnd, kind, ← outcome]
    rw [ends, relatchLoading_notOpened, settle_handed_ctx, putCtx_ctx_self, ctx]
    exact ⟨rfl, outcome_handed before putCtx_change room (by rw [putCtx_ctx_self]) (putCtx_tmb ..) ..⟩

theorem clearingOutcomes : ClearingOutcomes := by
  intro s l life c r into
  refine relatches_of_outcome fun u before latched room => ?_
  have ctx : u.ctx l = s.ctx l := before.ctx l
  have outcome (o : RelatchOutcome) : relatchOutcome l .rear o u = relatchClearing l o u := by
    simp only [relatchOutcome, ctx, life]
  have other : (s.ctx l).life ≠ .quarantine := by simp [life]
  refine ⟨fun kind tray => ?_, fun kind tray => ?_, fun kind => ?_⟩
  · have ends : relatchEnd l .rear r u = relatchClearing l (.opened false) u := by
      rw [relatchEnd, kind, tray, ← outcome]
    rw [ends, relatchClearing_cleared, settle_handed_ctx, settle_sampler, handRecord_sampler, enterVacant_sampler,
      enterVacant_ctx, if_pos rfl, ctx]
    exact ⟨rfl, rfl, outcome_handed before enterVacant_change room (by rw [ctx]) rfl ..⟩
  · have ends : relatchEnd l .rear r u = quarantine l .notCleared u := by
      rw [relatchEnd, kind, tray, outcome]
      rfl
    rw [ends, quarantine_of_latched latched, QuarantinedBy, quarantinedRecords, if_neg other, if_neg other,
      settle_handed_ctx, enterHalting_ctx_self, ctx]
    exact ⟨rfl, outcome_handed before enterHalting_change room (by rw [ctx]) rfl ..⟩
  · have ends : relatchEnd l .rear r u = relatchClearing l .notOpened u := by
      rw [relatchEnd, kind, ← outcome]
    rw [ends, relatchClearing_notOpened, settle_handed_ctx, returned_ctx, ctx]
    exact ⟨rfl, outcome_handed before returned_change room (by rw [returned_ctx, ctx]) (returned_change.tmb (by decide)) ..⟩

theorem idleOutcomes : IdleOutcomes := by
  intro s l h loading collecting clearing
  refine relatches_of_outcome fun u before latched room => ?_
  have ctx : u.ctx l = s.ctx l := before.ctx l
  have outcome (o : RelatchOutcome) : relatchOutcome l h o u = u := by
    unfold relatchOutcome
    rw [ctx]
    split
    · next life => exact absurd life loading
    · next life => exact absurd life collecting
    · next life => exact absurd life clearing
    all_goals rfl
  have ends : relatchEnd l h (s.latch l h) u = u := by
    unfold relatchEnd
    split
    · exact outcome _
    · exact outcome _
    all_goals rfl
  rw [ends, settle_ctx, ctx]
  exact ⟨rfl, queue_of_unhanded (handedAll_settle before.unhanded (before.ringFull.trans room))⟩

/-- Settles O46: by the latch's state, and for a relatch in OPERATING by the locker's. -/
theorem relatchEndsCollection : Obligations.RelatchEndsCollection :=
  ⟨releaseAcked, overtakenAck, restoreRelatchAcked, collectionOutcomes, loadingOutcomes, clearingOutcomes, idleOutcomes⟩

end Sys2Proof.Machine
end

section
/-! PROOFS. The acknowledgement of a heat command: the channel's step, the release that waited for it and the late grant
(R86, R102, R104, R114, R134). -/

-- One theorem after the other: a thread for each would ask for more stack space than a build may have.
set_option Elab.async false

namespace Sys2Proof.Machine

/-! ### Channels and marks (R102) -/

section
variable {s : State} {i : Chan} {c : Channel} {l : Locker}

theorem markAttach_mark (l : Locker) (s : State) : ((markAttach (some l) s).marks l).state = true := by
  have := putMark_has l l .state .state true s
  rwa [if_pos ⟨rfl, rfl⟩] at this

/-- A channel detached leaves the STATE mark of its locker. -/
theorem putChan_mark_of_detached (attached : (s.chan i).st.attached = some l) (free : c.st.attached = none) :
    ((putChan i c s).marks l).state = true := by
  unfold putChan
  dsimp only
  rw [if_neg (by rw [attached, free]; exact nofun), free, attached]
  exact markAttach_mark l _

theorem putChan_hsc (i : Chan) (c : Channel) (s : State) :
    (putChan i c s).hsc = { s.hsc with chans := s.hsc.chans.set i.val c } := by
  have marked (o : Option Locker) (u : State) : (markAttach o u).hsc = u.hsc := by cases o <;> rfl
  unfold putChan
  dsimp only
  split
  · rfl
  · rw [marked, marked]

/-! ### A release that waited for its channel (R86) -/

theorem filter_ne_of_absent {q : List Locker} (absent : l ∉ q) : q.filter (· ≠ l) = q :=
  List.filter_eq_self.mpr fun k listed => by simpa using fun same : k = l => absent (same ▸ listed)

/-- A notice about a locker without an entry changes nothing at HSC. -/
theorem hscNotice_hsc_of_absent (absent : l ∉ s.ranking) : (hscNotice l s).hsc = s.hsc := by
  have noHq : l ∉ s.hsc.hq := fun listed => absent (List.mem_append_left _ listed)
  have noWq : l ∉ s.hsc.wq := fun listed => absent (List.mem_append_right _ listed)
  have hq : (dropHq l s).hsc = s.hsc := by simp only [dropHq, filter_ne_of_absent noHq]
  unfold hscNotice
  dsimp only
  split <;> split
  · rfl
  · simp only [dropWq, filter_ne_of_absent noWq]
  · exact hq
  · simp only [dropWq, hq, filter_ne_of_absent noWq]

theorem putLatch_hsc_of_absent {h : Hatch} {r : LatchRec} (absent : l ∉ s.ranking) :
    (putLatch l h r s).hsc = s.hsc := by
  have marked (q : Bool) (u : State) : (markIf q l .state u).hsc = u.hsc := by cases q <;> rfl
  unfold putLatch
  dsimp only
  split
  · rw [hscNotice_hsc_of_absent]
    · exact marked ..
    · simpa only [State.ranking, setFastPoll, marked] using absent
  · exact marked ..

end

section
variable {s : State} {l : Locker} {h : Hatch}

theorem freeNotice_of_haltWait (waits : (s.latch l h).st = .haltWait) : freeNotice l s h
    = issueLatch l (h = .front) (h = .rear) (putLatch l h { s.latch l h with st := .unlatchPending } s) := if_pos waits

theorem freeNotice_of_other (other : (s.latch l h).st ≠ .haltWait) : freeNotice l s h = s := if_neg other

theorem freeNotice_hsc (absent : (s.latch l h).st = .haltWait → l ∉ s.ranking) : (freeNotice l s h).hsc = s.hsc := by
  by_cases waits : (s.latch l h).st = .haltWait
  · rw [freeNotice_of_haltWait waits, issueLatch_within.hsc_eq (by decide) (by decide) (by decide), putLatch_hsc_of_absent (absent waits)]
  · rw [freeNotice_of_other waits]

theorem freeNotice_marksKept : MarksKept s (freeNotice l s h) := by
  by_cases waits : (s.latch l h).st = .haltWait
  · rw [freeNotice_of_haltWait waits]
    exact putLatch_marksKept.trans issueLatch_marksKept
  · rw [freeNotice_of_other waits]
    exact .refl

theorem freeNotice_heat (k : Locker) : ((freeNotice l s h).paths k).heat = (s.paths k).heat
    ∧ ((freeNotice l s h).paths k).heatOn = (s.paths k).heatOn := by
  by_cases waits : (s.latch l h).st = .haltWait
  · rw [freeNotice_of_haltWait waits, issueLatch_paths, putLatch_paths, putLatch_paths]
    split
    · next same => subst same; exact ⟨rfl, rfl⟩
    · exact ⟨rfl, rfl⟩
  · rw [freeNotice_of_other waits]
    exact ⟨rfl, rfl⟩

/-- A release command issued is to be written; a latch path that does not probe does not begin to. -/
theorem freeNotice_still (still : (s.paths l).latch.st ≠ .probing) :
    ((freeNotice l s h).paths l).latch.st ≠ .probing := by
  by_cases waits : (s.latch l h).st = .haltWait
  · rw [freeNotice_of_haltWait waits, issueLatch_paths, if_pos rfl]
    exact nofun
  · rwa [freeNotice_of_other waits]

theorem freeNotice_latch_ne {g : Hatch} (other : g ≠ h) : (freeNotice l s h).latch l g = s.latch l g := by
  by_cases waits : (s.latch l h).st = .haltWait
  · rw [freeNotice_of_haltWait waits, issueLatch_latch, putLatch_latch_ne other]
  · rw [freeNotice_of_other waits]

/-- Of two latches of which one alone waits in HALT_WAIT, that one takes the notice. -/
theorem ltcFree_of_one (others : ∀ g, g ≠ h → (s.latch l g).st ≠ .haltWait) : ltcFree l s = freeNotice l s h := by
  cases h with
  | front =>
    refine freeNotice_of_other ?_
    rw [freeNotice_latch_ne (by decide)]
    exact others .rear (by decide)
  | rear => rw [ltcFree, freeNotice_of_other (others .front (by decide))]

theorem ltcFree_of_none (none : ∀ h, (s.latch l h).st ≠ .haltWait) : ltcFree l s = s := by
  rw [ltcFree_of_one (h := .front) fun g _ => none g, freeNotice_of_other (none .front)]

theorem ltcFree_hsc (absent : ∀ h, (s.latch l h).st = .haltWait → l ∉ s.ranking) : (ltcFree l s).hsc = s.hsc := by
  have first : (freeNotice l s .front).hsc = s.hsc := freeNotice_hsc (absent .front)
  refine Eq.trans (freeNotice_hsc fun waits => ?_) first
  rw [State.ranking, first]
  rw [freeNotice_latch_ne (by decide)] at waits
  exact absent .rear waits

theorem ltcFree_marksKept : MarksKept s (ltcFree l s) := freeNotice_marksKept.trans freeNotice_marksKept

theorem ltcFree_heat (k : Locker) : ((ltcFree l s).paths k).heat = (s.paths k).heat
    ∧ ((ltcFree l s).paths k).heatOn = (s.paths k).heatOn := by
  obtain ⟨heat, on⟩ := freeNotice_heat (s := s) (l := l) (h := .front) k
  obtain ⟨heat', on'⟩ := freeNotice_heat (s := freeNotice l s .front) (l := l) (h := .rear) k
  exact ⟨heat'.trans heat, on'.trans on⟩

end

/-! ### Late grants (R114) -/

theorem lateGrantLoop_latchPathsKept (n : Nat) {s : State} : LatchPathsKept s (lateGrantLoop n s) := by
  induction n generalizing s with
  | zero => exact fun _ => rfl
  | succ n ih =>
    unfold lateGrantLoop
    split
    · split
      · exact allocateChan_latchPathsKept.trans ih
      · exact fun _ => rfl
    · exact fun _ => rfl

theorem lateGrant_latchPathsKept {s : State} : LatchPathsKept s (lateGrant s) := by
  unfold lateGrant
  split
  · exact lateGrantLoop_latchPathsKept 16
  · exact fun _ => rfl

section
variable {s : State}

theorem allocateChan_marksKept {i : Chan} {l : Locker} : MarksKept s (allocateChan i l s) := by
  have granted (n : BitVec 32) : MarksKept s { s with hsc := { s.hsc with grants := n } } := marksKept_of_mrw rfl
  exact ((granted _).trans putChan_marksKept).trans issueHeat_marksKept

theorem lateGrantLoop_marksKept (n : Nat) : MarksKept s (lateGrantLoop n s) := by
  induction n generalizing s with
  | zero => exact .refl
  | succ n ih =>
    unfold lateGrantLoop
    split
    · split
      · exact allocateChan_marksKept.trans ih
      · exact .refl
    · exact .refl

theorem lateGrant_marksKept : MarksKept s (lateGrant s) := by
  unfold lateGrant
  split
  · exact lateGrantLoop_marksKept 16
  · exact .refl

/-- A locker without an entry is granted nothing. -/
theorem lateGrant_paths_of_absent {l : Locker} (distinct : QueuesDistinct s) (absent : l ∉ s.ranking) :
    (lateGrant s).paths l = s.paths l := by
  by_cases mode : s.mode = .operating
  · obtain ⟨-, -, paths⟩ := lateGrant_spec mode distinct
    exact paths l fun listed => absent (List.mem_of_mem_filter (List.mem_of_mem_take listed))
  · rw [lateGrant_idle mode]

theorem lateGrant_chan_of_empty (hq : s.hsc.hq = []) (wq : s.hsc.wq = []) (i : Chan) :
    (lateGrant s).chan i = s.chan i := by
  by_cases mode : s.mode = .operating
  · have distinct : QueuesDistinct s := by simp [QueuesDistinct, State.ranking, hq, wq]
    obtain ⟨⟨-, others, -⟩, -⟩ := lateGrant_spec mode distinct
    refine others i ?_
    simp [unserved, hq, wq]
  · rw [lateGrant_idle mode]

end

/-! ### An acknowledged heat command at HSC (R104) -/

/-- The state in which a late grant follows a freed channel: the channel FREE, the release that waited for it issued. -/
def chanFreed (l : Locker) (i : Chan) (s : State) : State := ltcFree l (putChan i { s.chan i with st := .free } s)

section
variable {s : State} {l : Locker} {i : Chan}

theorem hscAck_of_onPending (distinct : ChannelsDistinct s) (pending : (s.chan i).st = .onPending l) :
    hscAck l s = putChan i { s.chan i with st := .on l } s := by
  have attached : s.attachedChan l = some i := attachedChan_eq_some distinct (by rw [pending]; rfl)
  simp only [hscAck, attached, pending]

theorem hscAck_of_offPending (distinct : ChannelsDistinct s) (pending : (s.chan i).st = .offPending l) :
    hscAck l s = lateGrant (chanFreed l i s) := by
  have attached : s.attachedChan l = some i := attachedChan_eq_some distinct (by rw [pending]; rfl)
  simp only [hscAck, attached, pending]
  rfl

/-- What an acknowledged heat command brings about sets no latch path probing. -/
theorem hscAck_still (still : (s.paths l).latch.st ≠ .probing) : ((hscAck l s).paths l).latch.st ≠ .probing := by
  unfold hscAck
  split
  · next i _ =>
    split
    · rwa [putChan_within.pathsAt l]
    · rw [lateGrant_latchPathsKept l]
      refine freeNotice_still (freeNotice_still ?_)
      rwa [putChan_within.pathsAt l]
    all_goals exact still
  · exact still

theorem chanFreed_hsc (absent : ∀ h, (s.latch l h).st = .haltWait → l ∉ s.ranking) : (chanFreed l i s).hsc
    = { s.hsc with chans := s.hsc.chans.set i.val { s.chan i with st := .free } } := by
  rw [chanFreed, ltcFree_hsc, putChan_hsc]
  intro h waits
  rw [State.ranking, putChan_hsc]
  rw [putChan_within.latch l h] at waits
  exact absent h waits

theorem chanFreed_heat (k : Locker) : ((chanFreed l i s).paths k).heat = (s.paths k).heat
    ∧ ((chanFreed l i s).paths k).heatOn = (s.paths k).heatOn := by
  obtain ⟨heat, on⟩ := ltcFree_heat (s := putChan i { s.chan i with st := .free } s) (l := l) k
  rw [putChan_within.pathsAt k] at heat on
  exact ⟨heat, on⟩

theorem chanFreed_within : Within [.chans, .paths, .marks, .ltc, .fast, .entries] s (chanFreed l i s) := by
  have noticed (h : Hatch) (u : State) :
      Within [.chans, .paths, .marks, .ltc, .fast, .entries] u (freeNotice l u h) := by
    unfold freeNotice
    dsimp only
    split
    · exact putLatch_within.widen.next issueLatch_within
    · exact .refl
  exact (putChan_within.widen.next (noticed ..)).next (noticed ..)

theorem chanFreed_mark (pending : (s.chan i).st = .offPending l) : ((chanFreed l i s).marks l).state = true :=
  ltcFree_marksKept l .state (putChan_mark_of_detached (by rw [pending]; rfl) rfl)

theorem chanFreed_ltc_of_none (none : ∀ h, (s.latch l h).st ≠ .haltWait) : (chanFreed l i s).ltc = s.ltc := by
  rw [chanFreed, ltcFree_of_none fun h => by rw [putChan_within.latch l h]; exact none h]
  exact putChan_within.ltc (by decide)

/-- The release that waited for the channel alone is issued. -/
theorem chanFreed_of_haltWait {h : Hatch} (waits : (s.latch l h).st = .haltWait)
    (others : ∀ g, g ≠ h → (s.latch l g).st ≠ .haltWait) :
    chanFreed l i s = issueLatch l (h = .front) (h = .rear)
      (putLatch l h { s.latch l h with st := .unlatchPending } (putChan i { s.chan i with st := .free } s)) := by
  have latch (g : Hatch) : (putChan i { s.chan i with st := .free } s).latch l g = s.latch l g :=
    putChan_within.latch l g
  rw [chanFreed, ltcFree_of_one (h := h) fun g other => by rw [latch]; exact others g other,
    freeNotice_of_haltWait (by rw [latch, waits]), latch]

end

/-! ### A probe of the heat path that finds the ACK (R133, R134) -/

/-- The state in which an acknowledgement of the heat command reaches HSC. -/
def heatAcked (l : Locker) (p : List PortWrite) (s : State) : State :=
  putPath l .heat (s.paths l).heat.acked (probeRead p s)

section
variable {s : State} {l : Locker} {i : Chan} {x : Txn} {p : List PortWrite} {w : Word}

theorem heatAcked_within : Within [.mpi, .mem, .paths, .marks] s (heatAcked l p s) :=
  probeRead_within.widen.next putPath_within

theorem heatAcked_paths (k : Locker) : (heatAcked l p s).paths k
    = if k = l then { s.paths l with heat := (s.paths l).heat.acked } else s.paths k := putPath_paths ..

theorem heatAcked_seq (k : Locker) : ((heatAcked l p s).paths k).heat.seq = (s.paths k).heat.seq := by
  rw [heatAcked_paths]
  split
  · next same => subst same; rfl
  · rfl

theorem heatAcked_mem : (heatAcked l p s).mem = s.mem.port2 p := putPath_within.mem (by decide)

theorem heatAcked_hsc : (heatAcked l p s).hsc = s.hsc :=
  heatAcked_within.hsc_eq (by decide) (by decide) (by decide)

theorem exec_heatAck (probe : ProbeOf l .heat w x p s) (seq : ackSeq .heat w = (s.paths l).heat.seq)
    (code : ackCode .heat w = .ack) :
    exec (.probeComplete p false) s = .next (settle (hscAck l (heatAcked l p s))) := by
  have probing : (((probeRead p s).paths l).get .heat).st = .probing := probe.2.2.1
  have same : ackSeq .heat w = (((probeRead p s).paths l).get .heat).seq := seq
  have judged : judgePath l (answerWord false w) (probeRead p s) .heat = hscAck l (heatAcked l p s) :=
    judgePath_of_ack probing same code
  have still : ((heatAcked l p s).paths l).latch.st ≠ .probing := by
    rw [heatAcked_paths, if_pos rfl]
    exact probe.2.2.2 .latch (by decide)
  rw [exec_probe_heat probe (by rw [judged]; exact hscAck_still still), judged]

end

/-! ### The channel's step (R104, R114) -/

/-- The state in which the late grant of an acknowledged off command is made. -/
abbrev offAcked (l : Locker) (i : Chan) (p : List PortWrite) (s : State) : State := chanFreed l i (heatAcked l p s)

section
variable {s : State} {l : Locker} {i : Chan} {p : List PortWrite}

theorem offAcked_within : Within [.mpi, .mem, .paths, .marks, .chans, .ltc, .fast, .entries] s (offAcked l i p s) :=
  heatAcked_within.widen.next chanFreed_within

theorem offAcked_hsc (absent : ∀ h, (s.latch l h).st = .haltWait → l ∉ s.ranking) : (offAcked l i p s).hsc
    = { s.hsc with chans := s.hsc.chans.set i.val { s.chan i with st := .free } } := by
  have chan : (heatAcked l p s).chan i = s.chan i := by simp only [State.chan, heatAcked_hsc]
  rw [offAcked, chanFreed_hsc, heatAcked_hsc, chan]
  intro h waits
  rw [State.ranking, heatAcked_hsc]
  rw [heatAcked_within.latch l h] at waits
  exact absent h waits

theorem offAcked_ranking (absent : ∀ h, (s.latch l h).st = .haltWait → l ∉ s.ranking) :
    (offAcked l i p s).ranking = s.ranking := by
  simp only [State.ranking, offAcked_hsc absent]

/-- After an off command the late grant starts from the channel FREE, whatever the paths. -/
theorem offAcked_lateGranted (absent : ∀ h, (s.latch l h).st = .haltWait → l ∉ s.ranking)
    (distinct : QueuesDistinct s) (mode : s.mode = .operating) :
    LateGranted { s with hsc := { s.hsc with chans := s.hsc.chans.set i.val { s.chan i with st := .free } } }
      (settle (lateGrant (offAcked l i p s))) := by
  have runs : (offAcked l i p s).mode = .operating := offAcked_within.mode.trans mode
  have apart : QueuesDistinct (offAcked l i p s) := by
    rw [QueuesDistinct, offAcked_ranking absent]
    exact distinct
  obtain ⟨granted, -⟩ := lateGrant_spec runs apart
  refine LateGranted.congr (offAcked_hsc absent) (fun k => ?_) offAcked_within.copies
    ⟨settle_hsc _, settle_ahu_paths _, settle_mrw_marks _⟩ granted
  rw [(chanFreed_heat k).1, heatAcked_seq]
  rfl

/-- The release that waited for the channel alone, at the late grant. -/
theorem offAcked_released {h : Hatch} (waits : (s.latch l h).st = .haltWait)
    (others : ∀ g, g ≠ h → (s.latch l g).st ≠ .haltWait) :
    let t := offAcked l i p s
    t.latch l h = { s.latch l h with st := .unlatchPending } ∧ (∀ g, g ≠ h → t.latch l g = s.latch l g)
      ∧ (t.paths l).relFront = decide (h = .front) ∧ (t.paths l).relRear = decide (h = .rear)
      ∧ (t.paths l).latch.st = .writing ∧ (t.paths l).latch.seq = (s.paths l).latch.seq + 1
      ∧ (t.marks l).latch = true := by
  let a : State := heatAcked l p s
  have latch (g : Hatch) : a.latch l g = s.latch l g := heatAcked_within.latch l g
  have released : offAcked l i p s = issueLatch l (h = .front) (h = .rear)
      (putLatch l h { a.latch l h with st := .unlatchPending } (putChan i { a.chan i with st := .free } a)) :=
    chanFreed_of_haltWait (by rw [latch, waits]) fun g other => by rw [latch]; exact others g other
  obtain ⟨front, rear, writing, seq, mark⟩ := issueLatch_commanded l (decide (h = .front)) (decide (h = .rear))
    (putLatch l h { a.latch l h with st := .unlatchPending } (putChan i { a.chan i with st := .free } a))
  rw [← released] at front rear writing seq mark
  refine ⟨?_, fun g other => ?_, front, rear, writing, ?_, mark⟩
  · rw [released, issueLatch_latch, putLatch_latch_self, latch]
  · rw [released, issueLatch_latch, putLatch_latch_ne other, putChan_within.latch l g, latch]
  · rw [seq, putLatch_paths, putChan_within.pathsAt l, heatAcked_paths, if_pos rfl]

theorem offAcked_mark (pending : (s.chan i).st = .offPending l) :
    ((lateGrant (offAcked l i p s)).marks l).state = true := by
  refine lateGrant_marksKept l .state (chanFreed_mark ?_)
  rw [heatAcked_within.chan i, pending]

end

/-- Settles O45: the acknowledgement is followed through the channel's step, the release and the late grant. -/
theorem heatAckMovesChannel : Obligations.HeatAckMovesChannel := by
  intro s x l i p w probe seq code distinct queues absent pending
  let a : State := heatAcked l p s
  have apart : ChannelsDistinct a := by
    simpa only [ChannelsDistinct, State.chan, a, heatAcked_hsc] using distinct
  have chan : a.chan i = s.chan i := heatAcked_within.chan i
  have acked : (a.paths l).heat = (s.paths l).heat.acked ∧ (a.paths l).heatOn = (s.paths l).heatOn := by
    simp only [a, heatAcked_paths, if_true, and_self]
  refine ⟨_, exec_heatAck probe seq code, ?_⟩
  rcases pending with on | off
  · have taken : hscAck l a = putChan i { s.chan i with st := .on l } a := by
      rw [hscAck_of_onPending apart (by rw [chan, on]), chan]
    have whole : Within [.mpi, .mem, .paths, .marks, .chans] s (hscAck l a) := by
      rw [taken]
      exact heatAcked_within.widen.next putChan_within
    have hsc : (settle (hscAck l a)).hsc
        = { s.hsc with chans := s.hsc.chans.set i.val { s.chan i with st := .on l } } := by
      rw [settle_hsc, taken, putChan_hsc, heatAcked_hsc]
    have after (j : Chan) : (settle (hscAck l a)).chan j = if j = i then { s.chan i with st := .on l } else s.chan j := by
      rw [settle_chan, taken, putChan_chan, heatAcked_within.chan j]
    refine ⟨fun _ => ?_, fun _ => ⟨by rw [after, if_pos rfl], fun j other => by rw [after, if_neg other], ?_, ?_, ?_, ?_⟩,
      fun off => ?_, ?_⟩
    · rw [settle_paths, taken, putChan_within.pathsAt l]
      exact ⟨acked.2, acked.1⟩
    · exact lockersKept_settle (whole.lockersKept (by decide) (by decide))
    · rw [hsc]
    · rw [hsc]
    · rw [hsc]
    · rw [on] at off
      cases off
    · rw [settle_mem, taken, putChan_within.mem (by decide), heatAcked_mem]
  · have taken : hscAck l a = lateGrant (offAcked l i p s) := hscAck_of_offPending apart (by rw [chan, off])
    have hsc := offAcked_hsc (p := p) (i := i) absent
    have ranking := offAcked_ranking (p := p) (i := i) absent
    have free : QueuesDistinct (offAcked l i p s) := by
      rw [QueuesDistinct, ranking]
      exact queues
    have ready : (offAcked l i p s).mode = s.mode := offAcked_within.mode
    change _ ∧ _ ∧ _ ∧ (settle (hscAck l a)).mem = _
    rw [taken]
    have path (none : l ∉ s.ranking) : (settle (lateGrant (offAcked l i p s))).paths l = (offAcked l i p s).paths l := by
      rw [settle_paths, lateGrant_paths_of_absent free (by rwa [ranking])]
    refine ⟨fun cases => ?_, fun on => ?_, fun _ => ⟨fun mode => ?_, fun mode => ?_, fun hq wq => ?_, fun h waits others => ?_,
      fun none => ?_, ?_, ?_⟩, ?_⟩
    · have none : l ∉ s.ranking := cases.resolve_left (by rw [off]; exact nofun)
      rw [path none, (chanFreed_heat l).1, (chanFreed_heat l).2]
      exact ⟨acked.2, acked.1⟩
    · rw [off] at on
      cases on
    · exact offAcked_lateGranted absent queues mode
    · rw [settle_hsc, lateGrant_idle (by rwa [ready]), hsc]
    · have after (j : Chan) : (settle (lateGrant (offAcked l i p s))).chan j
          = if j = i then { s.chan i with st := .free } else s.chan j := by
        rw [settle_chan, lateGrant_chan_of_empty (by rw [hsc]; exact hq) (by rw [hsc]; exact wq)]
        simp only [State.chan, hsc, Vector.getElem_set]
        grind
      exact ⟨by rw [after, if_pos rfl], fun j other => by rw [after, if_neg other]⟩
    · obtain ⟨self, other, front, rear, writing, seq, mark⟩ := offAcked_released (p := p) (i := i) waits others
      rw [path (absent h waits)]
      refine ⟨?_, fun g ne => ?_, front, rear, writing, seq, ?_⟩
      · rw [settle_latch, lateGrant_latch, self]
      · rw [settle_latch, lateGrant_latch, other g ne]
      · rw [settle_marks]
        exact lateGrant_marksKept l .latch mark
    · rw [settle_ltc, lateGrant_within.ltc (by decide), chanFreed_ltc_of_none, heatAcked_within.ltc (by decide)]
      intro h
      rw [heatAcked_within.latch l h]
      exact none h
    · rw [settle_marks]
      exact offAcked_mark off
    · rw [settle_lke, lateGrant_within.lke (by decide), offAcked_within.lke (by decide)]
    · rw [settle_mem, lateGrant_within.mem (by decide), chanFreed_within.mem (by decide), heatAcked_mem]

end Sys2Proof.Machine
end

section
/-! PROOFS. A probe without an ACK: the counts, the errors and the re-issued command (R133, R135 to R137). -/

-- One theorem after the other: a thread for each would ask for more stack space than a build may have.
set_option Elab.async false

namespace Sys2Proof.Machine

/-! ### Answers that are no ACK (R133) -/

section
variable {s : State} {l : Locker} {k : PathKind} {fault : Bool} {w : Word} {limit : Nat} {r : PathRec}

theorem not_answersNone_of_nak (nak : AnswersNak k fault w r) : ¬ AnswersNone k fault w r := by
  obtain ⟨sound, seq, code⟩ := nak
  simp [AnswersNone, sound, seq, code]

theorem not_answersError_of_nak (nak : AnswersNak k fault w r) (few : r.naks + 1 < 32) :
    ¬ AnswersError limit k fault w r := by
  rintro (⟨-, many⟩ | ⟨none, -⟩)
  · omega
  · exact not_answersNone_of_nak nak none

theorem not_answersError_of_none (none : AnswersNone k fault w r) (few : r.probes + 1 < limit) :
    ¬ AnswersError limit k fault w r := by
  rintro (⟨nak, -⟩ | ⟨-, many⟩)
  · exact not_answersNone_of_nak nak none
  · omega

/-- An error is no answer below its limit. -/
theorem error_excludes (error : AnswersError limit k fault w r) :
    (AnswersNak k fault w r → ¬ r.naks + 1 < 32) ∧ (AnswersNone k fault w r → ¬ r.probes + 1 < limit) :=
  ⟨fun nak few => not_answersError_of_nak nak few error, fun none few => not_answersError_of_none none few error⟩

theorem judgePath_of_nak (probing : ((s.paths l).get k).st = .probing)
    (nak : AnswersNak k fault w ((s.paths l).get k)) :
    judgePath l (answerWord fault w) s k = pathNak l k ((s.paths l).get k) s := by
  obtain ⟨rfl, seq, code⟩ := nak
  change judgePath l (some w) s k = _
  simp only [judgePath, probing, seq, code, if_true]

theorem judgePath_of_fault (probing : ((s.paths l).get k).st = .probing)
    (answer : AnswersFault k fault w ((s.paths l).get k)) :
    judgePath l (answerWord fault w) s k = commandFailed l k ((s.paths l).get k) s := by
  obtain ⟨rfl, seq, code⟩ := answer
  change judgePath l (some w) s k = _
  simp only [judgePath, probing, seq, code, if_true]
  rfl

theorem judgePath_of_noAnswer (probing : ((s.paths l).get k).st = .probing)
    (none : AnswersNone k fault w ((s.paths l).get k)) :
    judgePath l (answerWord fault w) s k = pathNoAnswer l k ((s.paths l).get k) s := by
  rcases fault with _ | _
  · change judgePath l (some w) s k = _
    rcases none with broken | other | silent
    · cases broken
    · simp only [judgePath, probing, other, if_true, if_false]
    · simp only [judgePath, probing, silent, if_true, ite_self]
  · change judgePath l .none s k = _
    simp only [judgePath, probing, if_true]

/-! ### Errors (R135 to R138) -/

/-- Below three errors, at the third, and at three errors by the final attempts (R137). -/
theorem pathError_of_third (two : r.errs = 2) : pathError l k r s = commandFailed l k r s := by
  rw [pathError, if_pos (by rw [two]; decide), if_pos (by rw [two]; rfl)]
  rfl

theorem pathError_of_high (high : 3 ≤ r.errs) : pathError l k r s
    = if 3 ≤ r.fin + 1 then commandFailed l k r s else commandReissued l k { r with fin := r.fin + 1 } s :=
  if_neg (Nat.not_lt.mpr high)

/-- An error is judged by the error and final-attempt counts alone; what counted it is cleared (R135, R136). -/
theorem judgePath_of_error (probing : ((s.paths l).get k).st = .probing)
    (error : AnswersError s.copies.ackLimit k fault w ((s.paths l).get k)) : ∃ n m,
      judgePath l (answerWord fault w) s k = pathError l k { (s.paths l).get k with naks := n, probes := m } s := by
  rcases error with ⟨nak, many⟩ | ⟨none, many⟩
  · rw [judgePath_of_nak probing nak]
    exact ⟨_, _, if_pos many⟩
  · rw [judgePath_of_noAnswer probing none]
    exact ⟨_, _, if_pos many⟩

theorem judgePath_of_lowError (probing : ((s.paths l).get k).st = .probing)
    (error : AnswersError s.copies.ackLimit k fault w ((s.paths l).get k)) (low : ((s.paths l).get k).errs + 1 < 3) :
    judgePath l (answerWord fault w) s k
      = commandReissued l k { (s.paths l).get k with errs := ((s.paths l).get k).errs + 1 } s := by
  obtain ⟨n, m, judged⟩ := judgePath_of_error probing error
  rw [judged]
  exact pathError_of_low (r := { (s.paths l).get k with naks := n, probes := m }) low

theorem judgePath_of_finError (probing : ((s.paths l).get k).st = .probing)
    (error : AnswersError s.copies.ackLimit k fault w ((s.paths l).get k)) (high : 3 ≤ ((s.paths l).get k).errs)
    (few : ((s.paths l).get k).fin + 1 < 3) : judgePath l (answerWord fault w) s k
      = commandReissued l k { (s.paths l).get k with fin := ((s.paths l).get k).fin + 1 } s := by
  obtain ⟨n, m, judged⟩ := judgePath_of_error probing error
  rw [judged]
  exact (pathError_of_high (r := { (s.paths l).get k with naks := n, probes := m }) high).trans (if_neg (Nat.not_le.mpr few))

/-- A FAULT and the error that reaches a limit tell the owner (R137). -/
theorem judgePath_of_failure (probing : ((s.paths l).get k).st = .probing)
    (fails : FailsCommand s.copies.ackLimit k fault w ((s.paths l).get k)) : judgePath l (answerWord fault w) s k
      = pathFailed l k (putPath l k (failedPath ((s.paths l).get k)) s) := by
  rcases fails with answer | ⟨error, third | ⟨high, last⟩⟩
  · rw [judgePath_of_fault probing answer]
    rfl
  · obtain ⟨n, m, judged⟩ := judgePath_of_error probing error
    rw [judged]
    exact pathError_of_third (r := { (s.paths l).get k with naks := n, probes := m }) third
  · obtain ⟨n, m, judged⟩ := judgePath_of_error probing error
    rw [judged]
    exact (pathError_of_high (r := { (s.paths l).get k with naks := n, probes := m }) high).trans (if_pos last)

end

/-! ### Probes below the limits (R133, R135 to R137) -/

section
variable {s : State} {l : Locker} {k : PathKind} {x : Txn} {p : List PortWrite} {fault : Bool} {w : Word}

/-- A probe of one path judges that path alone, where nothing that follows has the latch path probing. -/
theorem exec_probe {t : State} (probe : ProbeOf l k w x p s)
    (judged : judgePath l (answerWord fault w) (probeRead p s) k = t)
    (still : k = .heat → (t.paths l).latch.st ≠ .probing) :
    exec (.probeComplete p fault) s = .next (settle t) := by
  cases k with
  | heat => rw [exec_probe_heat probe (by rw [judged]; exact still rfl), judged]
  | latch => rw [exec_probe_latch probe, judged]

/-- A probe that only changes the record of its path, and the marks. -/
theorem probed_of {r : PathRec} {t : State} {P : State → Prop} (probe : ProbeOf l k w x p s)
    (judged : judgePath l (answerWord fault w) (probeRead p s) k = t)
    (within_ : Within [.paths, .marks] (probeRead p s) t)
    (paths : ∀ j, t.paths j = if j = l then (s.paths l).set k r else s.paths j)
    (claims : (settle t).paths l = (s.paths l).set k r → (∀ j, (settle t).marks j = t.marks j) → P (settle t)) :
    Completes (.probeComplete p fault) s fun t => P t
      ∧ (∀ j : Locker, j ≠ l → t.paths j = s.paths j) ∧ LockersKept s t ∧ t.hsc = s.hsc
      ∧ t.mem = s.mem.port2 p ∧ RingKept s t := by
  have whole : Within [.mpi, .mem, .paths, .marks] s t := probeRead_within.widen.next within_
  refine ⟨_, exec_probe probe judged fun heat => ?_, claims ?_ fun j => settle_marks .., fun j other => ?_,
    lockersKept_settle (whole.lockersKept (by decide) (by decide)), ?_, ?_,
    ringKept_settle (whole.ringKept (by decide) (by decide))⟩
  · subst heat
    rw [paths, if_pos rfl]
    exact probe.2.2.2 .latch (by decide)
  · rw [settle_paths, paths, if_pos rfl]
  · rw [settle_paths, paths, if_neg other]
  · rw [settle_hsc, whole.hsc_eq (by decide) (by decide) (by decide)]
  · rw [settle_mem, within_.mem (by decide), probeRead_mem]

end

theorem probeBelowTheLimits : ProbeBelowTheLimits := by
  intro s x l k p fault w probe r limit below
  have probing : (((probeRead p s).paths l).get k).st = .probing := probe.2.2.1
  have reissued (again : PathRec) (j : Locker) : (commandReissued l k again (probeRead p s)).paths j
      = if j = l then (s.paths l).set k again.reissue else s.paths j := commandReissued_paths ..
  rcases below with ⟨nak, few⟩ | ⟨none, few⟩ | ⟨error, low | ⟨high, few⟩⟩
  · have judged : judgePath l (answerWord fault w) (probeRead p s) k
        = putPath l k { r with naks := r.naks + 1, probes := 0 } (probeRead p s) :=
      (judgePath_of_nak probing nak).trans (if_neg (Nat.not_le.mpr few))
    obtain ⟨t, ran, paths, rest⟩ := probed_of (P := fun t => t.paths l = _) probe judged putPath_within.widen
      (fun _ => putPath_paths ..) fun paths _ => paths
    have noError := not_answersError_of_nak (limit := limit) nak few
    exact ⟨t, ran, fun _ _ => paths, fun none _ => absurd none (not_answersNone_of_nak nak),
      fun error _ => absurd error noError, fun error _ => absurd error noError, rest⟩
  · have judged : judgePath l (answerWord fault w) (probeRead p s) k
        = putPath l k { r with probes := r.probes + 1 } (probeRead p s) :=
      (judgePath_of_noAnswer probing none).trans (if_neg (Nat.not_le.mpr few))
    obtain ⟨t, ran, paths, rest⟩ := probed_of (P := fun t => t.paths l = _) probe judged putPath_within.widen
      (fun _ => putPath_paths ..) fun paths _ => paths
    have noError := not_answersError_of_none none few
    exact ⟨t, ran, fun nak _ => absurd none (not_answersNone_of_nak nak), fun _ _ => paths,
      fun error _ => absurd error noError, fun error _ => absurd error noError, rest⟩
  · have judged : judgePath l (answerWord fault w) (probeRead p s) k
        = commandReissued l k { r with errs := r.errs + 1 } (probeRead p s) := judgePath_of_lowError probing error low
    obtain ⟨t, ran, claims, rest⟩ := probed_of
      (P := fun t => t.paths l = _ ∧ (t.marks l).has (pathMark k) = true ∧ (t.marks l).state = true)
      probe judged commandReissued_within (reissued _) fun paths marks => by
        rw [marks]
        exact ⟨paths, commandReissued_mark .., commandReissued_stateMark (Nat.succ_ne_self r.errs).symm⟩
    obtain ⟨noNak, noNone⟩ := error_excludes error
    exact ⟨t, ran, fun nak few => absurd few (noNak nak), fun none few => absurd few (noNone none),
      fun _ _ => claims, fun _ high => absurd low (by omega), rest⟩
  · have judged : judgePath l (answerWord fault w) (probeRead p s) k
        = commandReissued l k { r with fin := r.fin + 1 } (probeRead p s) := judgePath_of_finError probing error high few
    obtain ⟨t, ran, claims, rest⟩ := probed_of (P := fun t => t.paths l = _ ∧ (t.marks l).has (pathMark k) = true)
      probe judged commandReissued_within (reissued _) fun paths marks => by
        rw [marks]
        exact ⟨paths, commandReissued_mark ..⟩
    obtain ⟨noNak, noNone⟩ := error_excludes error
    exact ⟨t, ran, fun nak few => absurd few (noNak nak), fun none few => absurd few (noNone none),
      fun _ low => absurd high (by omega), fun _ _ => claims, rest⟩

end Sys2Proof.Machine
end

section
/-! PROOFS. What a quarantine cause comes to in OPERATING, where no release of the locker stands (R41, R42, R45, R59, R62). -/

-- One theorem after the other: a thread for each would ask for more stack space than a build may have.
set_option Elab.async false

namespace Sys2Proof.Machine

/-! ### Halts (R116) -/

section
variable {s : State} {l : Locker} {i : Chan}

theorem State.attachedChan_attached (found : s.attachedChan l = some i) : (s.chan i).st.attached = some l := by
  simpa using List.find?_some found

theorem haltLocker_of_energised (distinct : ChannelsDistinct s) (on : (s.chan i).st.energised = some l) :
    haltLocker l s = turnOff i s := haltLocker_of_attached distinct (ChanState.attached_of_energised on)

/-- A halt of a locker with no energised channel has nothing to do. -/
theorem haltLocker_of_cold (cold : ∀ i : Chan, (s.chan i).st.energised ≠ some l) : haltLocker l s = s := by
  unfold haltLocker
  split
  · next i found =>
    refine turnOff_of_idle ?_
    have attached := State.attachedChan_attached found
    have off := cold i
    revert attached off
    cases (s.chan i).st <;> simp [ChanState.attached, ChanState.energised]
  · rfl

/-- A halt of a locker leaves the channels that it does not energise. -/
theorem haltLocker_chan_of_cold (distinct : ChannelsDistinct s) (cold : (s.chan i).st.energised ≠ some l) :
    (haltLocker l s).chan i = s.chan i := by
  by_cases heated : ∃ j : Chan, (s.chan j).st.energised = some l
  · obtain ⟨j, on⟩ := heated
    have ne : i ≠ j := fun same => cold (same ▸ on)
    rw [haltLocker_of_energised distinct on, turnOff_chan_ne ne]
  · rw [haltLocker_of_cold fun j on => heated ⟨j, on⟩]

end

/-! ### Causes taken (R45) -/

theorem putCtx_marksKept {l : Locker} {c : Context} {s : State} : MarksKept s (putCtx l c s) := by
  have counted (a b : Lifecycle) (u : State) : MarksKept u (countQuarantine a b u) :=
    marksKept_of_mrw (countQuarantine_within.marks (by decide))
  have noticed (p : Prop) [Decidable p] (u : State) : MarksKept u (if p then hscNotice l u else u) := by
    split
    · exact marksKept_of_mrw (hscNotice_within.marks (by decide))
    · exact .refl
  have put : MarksKept s { s with lke := s.lke.set l.val c } := marksKept_of_mrw rfl
  unfold putCtx
  dsimp only
  exact (((put.trans markIf_marksKept).trans markIf_marksKept).trans (counted _ _ _)).trans (noticed _ _)

/-- No release of a locker stands that a cause would withdraw (R44). -/
def NoRelease (l : Locker) (s : State) : Prop :=
  ∀ h : Hatch, (s.latch l h).st = .opened ∨ (s.latch l h).st = .latched ∨ (s.latch l h).st = .failed

/-- The state after an entry into QUARANTINE with its record. -/
def quarantined (l : Locker) (r : Reason) (s : State) : State :=
  handRecord (recordOf s l .quarantined (BitVec.ofNat 16 r.code) (BitVec.ofNat 32 (s.ctx l).life.code))
    (enterHalting l ((s.ctx l).quarantined r) s)

/-- What a quarantine cause in OPERATING makes of a locker without a release. -/
structure CauseTaken (r : Reason) (l : Locker) (s t : State) : Prop where
  ctx : QuarantinedBy r l s t
  handed : HandedAll (quarantinedRecords r l s) s t
  entries : (s.ctx l).life ≠ .quarantine → l ∉ t.hsc.hq ∧ l ∉ t.hsc.wq
  off : ChannelsDistinct s → (s.ctx l).life ≠ .quarantine → ∀ i : Chan, (t.chan i).st.energised ≠ some l
  shrunk : EntriesShrunk s t
  kept : Within [.lke, .marks, .counts, .entries, .chans, .paths, .queue, .recs] s t
  others : OtherLockersKept l s t
  latchPath : LatchPathsKept s t
  marks : MarksKept s t
  cold : (∀ i : Chan, (s.chan i).st.energised ≠ some l) →
    t.hsc.chans = s.hsc.chans ∧ t.hsc.grants = s.hsc.grants ∧ t.ahu.paths = s.ahu.paths
  lost : t.rpw.lostChannels = s.rpw.lostChannels
  heat : ∀ i : Chan, (s.chan i).st.energised = some l → ChannelsDistinct s →
    t.chan i = { s.chan i with st := .offPending l } ∧ HeatCommanded l false s t
      ∨ t.chan i = s.chan i ∧ t.paths l = s.paths l
  eases : Eases s t

section
variable {s : State} {l : Locker} {r : Reason}

theorem withdraw_of_noRelease {i : Lifecycle} (still : NoRelease l s) : withdraw l i s = s := by
  rw [withdraw, withdrawHatch_of_still (still .front), withdrawHatch_of_still (still .rear)]

theorem quarantine_eq : quarantine l r s = withdraw l .quarantine (quarantined l r s) := rfl

theorem quarantine_of_noRelease (still : NoRelease l s) : quarantine l r s = quarantined l r s := by
  have stands : NoRelease l (quarantined l r s) := fun h => by
    rw [quarantined, handRecord_latch, enterHalting_latch]
    exact still h
  exact withdraw_of_noRelease stands

theorem quarantineCause_of_quarantine (mode : s.mode = .operating) (life : (s.ctx l).life = .quarantine) :
    quarantineCause l r s = s := by
  simp [quarantineCause, mode, life]

theorem quarantineCause_of_taken (mode : s.mode = .operating) (life : (s.ctx l).life ≠ .quarantine)
    (taken : r.ofActuator = true ∨ (s.ctx l).life ≠ .vacant) : quarantineCause l r s = quarantine l r s := by
  unfold quarantineCause
  dsimp only
  rw [if_neg (by rw [mode]; decide), if_neg life, if_neg]
  rcases taken with actuator | used
  · simp [actuator]
  · simp [used]

theorem quarantined_taken (life : (s.ctx l).life ≠ .quarantine) : CauseTaken r l s (quarantined l r s) := by
  have entered : Within [.lke, .marks, .counts, .entries, .chans, .paths] s
      (enterHalting l ((s.ctx l).quarantined r) s) := enterHalting_within
  have chan (i : Chan) : (quarantined l r s).chan i = (enterHalting l ((s.ctx l).quarantined r) s).chan i :=
    handRecord_within.chan i
  constructor
  · rw [QuarantinedBy, if_neg life, quarantined, handRecord_ctx, enterHalting_ctx, if_pos rfl]
    rfl
  · rw [quarantinedRecords, if_neg life]
    exact handedAll_trans entered.unhanded (handRecord_handed _ _)
  · intro _
    exact ⟨enterHalting_hq life nofun, enterHalting_wq life ⟨nofun, nofun⟩⟩
  · intro distinct _ i
    rw [chan]
    exact enterHalting_energised distinct i
  · exact enterHalting_entriesShrunk.trans handRecord_within.entriesShrunk
  · exact entered.widen.next handRecord_within
  · exact Others.trans enterHalting_others (handRecord_within.others rfl l)
  · intro k
    rw [quarantined, handRecord_paths, enterHalting_latchPath]
  · exact (putCtx_marksKept.trans haltLocker_marksKept).trans (marksKept_of_mrw (handRecord_within.marks (by decide)))
  · intro cold
    have put : enterHalting l ((s.ctx l).quarantined r) s = putCtx l ((s.ctx l).quarantined r) s :=
      haltLocker_of_cold fun i => by rw [putCtx_chan]; exact cold i
    have whole : Within [.lke, .marks, .counts, .entries, .queue] s (quarantined l r s) := by
      rw [quarantined, put]
      exact putCtx_within.widen.next handRecord_within
    obtain ⟨chans, grants⟩ := whole.chans (by decide)
    exact ⟨chans, grants, whole.paths (by decide)⟩
  · have counted (a b : Lifecycle) : (countQuarantine a b s).rpw.lostChannels = s.rpw.lostChannels := by
      unfold countQuarantine
      split
      · rfl
      · split <;> rfl
    rw [quarantined, (handRecord_within.counts (by decide)).2, enterHalting, (haltLocker_within.counts (by decide)).2,
      putCtx_rpw, counted]
  · intro i on distinct
    have put : ChannelsDistinct (putCtx l ((s.ctx l).quarantined r) s) := by
      simpa only [ChannelsDistinct, putCtx_chan] using distinct
    have energised : ((putCtx l ((s.ctx l).quarantined r) s).chan i).st.energised = some l := by rw [putCtx_chan, on]
    obtain ⟨off, writing, seq, mark⟩ := turnOff_commanded energised
    rw [putCtx_paths] at seq
    refine .inl ⟨?_, ?_⟩
    · rw [chan, enterHalting, haltLocker_of_energised put energised, turnOff_chan_self energised, putCtx_chan]
    · rw [HeatCommanded, quarantined, handRecord_paths, handRecord_within.marksAt l, enterHalting,
        haltLocker_of_energised put energised]
      exact ⟨off, writing, seq, mark⟩
  · exact enterHalting_eases.trans (.of_chans fun i => handRecord_within.chan i)

/-- A cause that finds the locker QUARANTINE changes nothing. -/
theorem CauseTaken.refl (life : (s.ctx l).life = .quarantine) : CauseTaken r l s s where
  ctx := (if_pos life).symm
  handed := by
    rw [quarantinedRecords, if_pos life]
    exact ⟨rfl, rfl, rfl⟩
  entries := fun other => absurd life other
  off := fun _ other => absurd life other
  shrunk := .refl
  kept := .refl
  others := Others.refl
  latchPath := fun _ => rfl
  marks := .refl
  cold := fun _ => ⟨rfl, rfl, rfl⟩
  lost := rfl
  heat := fun _ _ _ => .inr ⟨rfl, rfl⟩
  eases := .of_chans fun _ => rfl

/-- A cause in OPERATING at a locker without a release. -/
theorem quarantineCause_taken (mode : s.mode = .operating) (taken : r.ofActuator = true ∨ (s.ctx l).life ≠ .vacant)
    (still : NoRelease l s) : CauseTaken r l s (quarantineCause l r s) := by
  by_cases life : (s.ctx l).life = .quarantine
  · rw [quarantineCause_of_quarantine mode life]
    exact .refl life
  · rw [quarantineCause_of_taken mode life taken, quarantine_of_noRelease still]
    exact quarantined_taken life

/-- A cause taken after changes that leave the locker's context and the clock. -/
theorem CauseTaken.after {v t : State} {recs : List Record} (ctx : v.ctx l = s.ctx l) (tmb : v.tmb = s.tmb)
    (before : HandedAll recs s v) (c : CauseTaken r l v t) :
    QuarantinedBy r l s t ∧ HandedAll (recs ++ quarantinedRecords r l s) s t := by
  obtain ⟨by_, handed, -⟩ := c
  rw [QuarantinedBy, ctx] at by_
  rw [quarantinedRecords, recordOf, ctx, tmb] at handed
  exact ⟨by_, handedAll_trans before handed⟩

end

end Sys2Proof.Machine
end

section
/-! PROOFS. A probe that fails its command: what the channel, the latches and the locker become (R40, R44, R45, R59, R97 to
R99, R121, R122, R124, R125, R137, R139, R179). -/

-- One theorem after the other: a thread for each would ask for more stack space than a build may have.
set_option Elab.async false

namespace Sys2Proof.Machine

/-! ### A failed command (R137) -/

/-- The state in which a failed command reaches its owner. -/
def failedProbe (l : Locker) (k : PathKind) (p : List PortWrite) (s : State) : State :=
  putPath l k (failedPath ((s.paths l).get k)) (probeRead p s)

theorem NoRelease.of_latches {s t : State} {l : Locker} (latches : t.latches l = s.latches l) (still : NoRelease l s) :
    NoRelease l t := fun h => by
  have latch : t.latch l h = s.latch l h := by rw [State.latch, latches]; rfl
  rw [latch]
  exact still h

/-- A locker whose latches are both at rest leaves the fast-poll set (R97). -/
theorem putLatch_fastPoll_rest {s : State} {l : Locker} {h : Hatch} {r : LatchRec} (rest : r.st.inSeq = false)
    (others : ∀ g, g ≠ h → (s.latch l g).st.inSeq = false) : (putLatch l h r s).smp.fastPoll[l.val] = false := by
  rw [putLatch_fastPoll, if_pos rfl]
  cases h with
  | front => exact Bool.or_eq_false_iff.mpr ⟨rest, others .rear (by decide)⟩
  | rear => exact Bool.or_eq_false_iff.mpr ⟨others .front (by decide), rest⟩

theorem NoRelease.of_bothLatched {s : State} {l : Locker} (both : s.bothLatched l = true) : NoRelease l s := by
  obtain ⟨front, rear⟩ := (State.bothLatched_iff s l).mp both
  intro h
  cases h
  · exact .inr (.inl front)
  · exact .inr (.inl rear)

section
variable {s t : State} {l : Locker} {k : PathKind} {x : Txn} {p : List PortWrite} {fault : Bool} {w : Word}

theorem failedProbe_within : Within [.mpi, .mem, .paths, .marks] s (failedProbe l k p s) :=
  probeRead_within.widen.next putPath_within

theorem failedProbe_paths (j : Locker) : (failedProbe l k p s).paths j
    = if j = l then (s.paths l).set k (failedPath ((s.paths l).get k)) else s.paths j := putPath_paths ..

theorem failedProbe_mem : (failedProbe l k p s).mem = s.mem.port2 p := putPath_within.mem (by decide)

theorem exec_failure (probe : ProbeOf l k w x p s) (fails : FailsCommand s.copies.ackLimit k fault w ((s.paths l).get k))
    (taken : pathFailed l k (failedProbe l k p s) = t) (still : k = .heat → (t.paths l).latch.st ≠ .probing) :
    exec (.probeComplete p fault) s = .next (settle t) := by
  have probing : (((probeRead p s).paths l).get k).st = .probing := probe.2.2.1
  have judged : judgePath l (answerWord fault w) (probeRead p s) k = pathFailed l k (failedProbe l k p s) :=
    judgePath_of_failure probing fails
  exact exec_probe probe (judged.trans taken) still

/-- The latch path does not probe after a failed heat command that leaves it. -/
theorem still_of_kept (probe : ProbeOf l .heat w x p s) (kept : (t.paths l).latch = ((failedProbe l .heat p s).paths l).latch) :
    (t.paths l).latch.st ≠ .probing := by
  rw [kept, failedProbe_paths, if_pos rfl]
  exact probe.2.2.2 .latch (by decide)

end

/-! ### A failed on command (R121) -/

section
variable {s : State} {l : Locker} {i : Chan}

theorem hscOnFailed_of_attached (distinct : ChannelsDistinct s) (attached : (s.chan i).st.attached = some l) :
    hscOnFailed l s = quarantineCause l .heatActuator (turnOff i s) := by
  simp only [hscOnFailed, attachedChan_eq_some distinct attached]

/-- A locker whose one channel is turned off has no energised channel. -/
theorem turnOff_cold (distinct : ChannelsDistinct s) (on : (s.chan i).st.energised = some l) (j : Chan) :
    ((turnOff i s).chan j).st.energised ≠ some l := by
  have halted := haltLocker_energised (l := l) distinct j
  rwa [haltLocker_of_energised distinct on] at halted

end

theorem failedOnCommand : FailedOnCommand := by
  intro s x l i p fault w probe fails mode on pending distinct both room
  let f : State := failedProbe l .heat p s
  let u : State := turnOff i f
  have read : Within [.mpi, .mem, .paths, .marks] s f := failedProbe_within
  have chan (j : Chan) : f.chan j = s.chan j := read.chan j
  have apart : ChannelsDistinct f := by simpa only [ChannelsDistinct, chan] using distinct
  have energised : (f.chan i).st.energised = some l := by rw [chan, pending]; rfl
  have off : Within [.mpi, .mem, .paths, .marks, .chans] s u := read.widen.next turnOff_within
  have path : u.paths l = { s.paths l with heatOn := false, heat := (failedPath (s.paths l).heat).issue } := by
    have put : (putChan i { f.chan i with st := .offPending l } f).paths l = f.paths l := putChan_within.pathsAt l
    rw [show u = _ from turnOff_of_energised energised, issueHeat_paths, if_pos rfl, put, failedProbe_paths, if_pos rfl]
    rfl
  have taken : CauseTaken .heatActuator l u (quarantineCause l .heatActuator u) :=
    quarantineCause_taken (off.mode.trans mode) (.inl rfl)
      (.of_latches (off.latches l) (.of_bothLatched both))
  have failed : pathFailed l .heat f = quarantineCause l .heatActuator u := by
    have calm : f.mode ≠ .restoring := by rw [read.mode, mode]; decide
    have commanded : (f.paths l).heatOn = true := by rw [failedProbe_paths, if_pos rfl]; exact on
    rw [← hscOnFailed_of_attached apart (ChanState.attached_of_energised energised)]
    simp only [pathFailed, heatFailed, if_neg calm, if_pos commanded]
  obtain ⟨by_, handed⟩ := taken.after (off.ctx l) (off.tmb (by decide)) off.unhanded
  obtain ⟨chans, -, paths⟩ := taken.cold (turnOff_cold apart energised)
  have after (j : Chan) : (settle (quarantineCause l .heatActuator u)).chan j = u.chan j := by
    rw [settle_chan, chan_of_hsc chans]
  have pathAfter : (settle (quarantineCause l .heatActuator u)).paths l = u.paths l := by
    rw [settle_paths, paths_of_ahu paths]
  have mark : ((settle (quarantineCause l .heatActuator u)).marks l).heat = true := by
    rw [settle_marks]
    exact taken.marks l .heat (turnOff_commanded energised).2.2.2
  have whole : Within (lockerParts ++ [.mpi, .mem]) s (quarantineCause l .heatActuator u) :=
    off.widen.next taken.kept
  refine ⟨_, exec_failure probe fails failed fun _ => still_of_kept probe ?_, ?_, fun j other => ?_, ⟨?_, ?_, ?_, mark⟩, ?_, ?_,
    ?_, ?_, fun life => ?_, handedAll_settle handed ?_, ?_, ?_⟩
  · rw [taken.latchPath l, turnOff_latchPathsKept l]
  · rw [after, turnOff_chan_self energised, chan]
  · rw [after, turnOff_chan_ne other, chan]
  · rw [pathAfter, path]
  · rw [pathAfter, path]; rfl
  · rw [pathAfter, path]; rfl
  · rw [pathAfter, path]; rfl
  · rw [pathAfter, path]
  · rw [QuarantinedBy, settle_ctx]
    exact by_
  · rw [settle_ltc, taken.kept.ltc (by decide), off.ltc (by decide)]
  · rw [settle_hsc]
    exact taken.entries (by rwa [off.ctx l])
  · rw [whole.ringFull, room]
  · exact otherLockersKept_settle (Others.trans (off.others rfl l) taken.others)
  · rw [settle_mem, taken.kept.mem (by decide), turnOff_within.mem (by decide), failedProbe_mem]

/-! ### A failed off command (R122, R123, R125) -/

/-- The state after a channel is LOST, with its record. -/
def channelLost (l : Locker) (i : Chan) (s : State) : State :=
  let t := putChan i { s.chan i with st := .lost } s
  handRecord (recordOf s l .channelLost (BitVec.ofNat 16 i.val) (BitVec.ofNat 32 (s.ctx l).life.code))
    { t with rpw := { t.rpw with lostChannels := t.rpw.lostChannels + 1 } }

section
variable {s : State} {l : Locker} {i : Chan}

theorem hscOffFailed_of_attached (distinct : ChannelsDistinct s) (attached : (s.chan i).st.attached = some l) :
    hscOffFailed l s = quarantineCause l .channelLost (channelLost l i s) := by
  simp only [hscOffFailed, attachedChan_eq_some distinct attached]
  rfl

theorem channelLost_within : Within [.chans, .marks, .counts, .queue] s (channelLost l i s) := by
  have put : Within [.chans, .marks, .counts, .queue] s (putChan i { s.chan i with st := .lost } s) := putChan_within.widen
  have counted (t : State) : Within [.chans, .marks, .counts, .queue] t
      { t with rpw := { t.rpw with lostChannels := t.rpw.lostChannels + 1 } } := by constructor <;> simp
  exact (put.next (counted _)).next handRecord_within

theorem channelLost_chan (j : Chan) :
    (channelLost l i s).chan j = if j = i then { s.chan i with st := .lost } else s.chan j := by
  rw [channelLost, handRecord_chan]
  exact putChan_chan ..

theorem channelLost_grants : (channelLost l i s).hsc.grants = s.hsc.grants := by
  rw [channelLost, (handRecord_within.chans (by decide)).2]
  exact putChan_grants ..

theorem channelLost_count : (channelLost l i s).rpw.lostChannels = s.rpw.lostChannels + 1 := by
  rw [channelLost, (handRecord_within.counts (by decide)).2]
  exact congrArg (· + 1) (putChan_within.counts (by decide)).2

theorem channelLost_handed : HandedAll
    [recordOf s l .channelLost (BitVec.ofNat 16 i.val) (BitVec.ofNat 32 (s.ctx l).life.code)] s (channelLost l i s) := by
  let t := putChan i { s.chan i with st := .lost } s
  have put : HandedAll [] s t := putChan_within.unhanded
  have counted : HandedAll [] s { t with rpw := { t.rpw with lostChannels := t.rpw.lostChannels + 1 } } := put
  exact handedAll_trans counted (handRecord_handed _ _)

theorem channelLost_mark (attached : (s.chan i).st.attached = some l) : ((channelLost l i s).marks l).state = true := by
  rw [channelLost, handRecord_within.marksAt l]
  exact putChan_mark_of_detached attached rfl

/-- A LOST channel was its locker's only one. -/
theorem channelLost_cold (distinct : ChannelsDistinct s) (attached : (s.chan i).st.attached = some l) (j : Chan) :
    ((channelLost l i s).chan j).st.energised ≠ some l := by
  rw [channelLost_chan]
  split
  · exact nofun
  · next other => exact fun on => other (distinct j i l (ChanState.attached_of_energised on) attached)

end

/-- The state in which the loss of a channel reaches LKE. -/
def lostProbe (l : Locker) (i : Chan) (p : List PortWrite) (s : State) : State :=
  channelLost l i (failedProbe l .heat p s)

section
variable {s : State} {l : Locker} {i : Chan} {x : Txn} {p : List PortWrite} {fault : Bool} {w : Word}

theorem lostProbe_within : Within [.mpi, .mem, .paths, .marks, .chans, .counts, .queue] s (lostProbe l i p s) :=
  failedProbe_within.widen.next channelLost_within

theorem lostProbe_chan (j : Chan) :
    (lostProbe l i p s).chan j = if j = i then { s.chan i with st := .lost } else s.chan j := by
  have read (j : Chan) : (failedProbe l .heat p s).chan j = s.chan j := failedProbe_within.chan j
  rw [lostProbe, channelLost_chan, read, read]

theorem lostProbe_paths : (lostProbe l i p s).paths l = { s.paths l with heat := failedPath (s.paths l).heat } := by
  rw [lostProbe, channelLost_within.pathsAt l, failedProbe_paths, if_pos rfl]
  rfl

theorem lostProbe_grants : (lostProbe l i p s).hsc.grants = s.hsc.grants := by
  rw [lostProbe, channelLost_grants, (failedProbe_within.chans (by decide)).2]

theorem lostProbe_count : (lostProbe l i p s).rpw.lostChannels = s.rpw.lostChannels + 1 := by
  rw [lostProbe, channelLost_count, (failedProbe_within.counts (by decide)).2]

theorem lostProbe_handed : HandedAll
    [recordOf s l .channelLost (BitVec.ofNat 16 i.val) (BitVec.ofNat 32 (s.ctx l).life.code)] s (lostProbe l i p s) := by
  have read : Within [.mpi, .mem, .paths, .marks] s (failedProbe l .heat p s) := failedProbe_within
  have handed : HandedAll _ (failedProbe l .heat p s) (lostProbe l i p s) := channelLost_handed
  rw [recordOf, read.ctx l, read.tmb (by decide)] at handed
  exact handedAll_trans read.unhanded handed

theorem lostProbe_cold (distinct : ChannelsDistinct s) (attached : (s.chan i).st.attached = some l) (j : Chan) :
    ((lostProbe l i p s).chan j).st.energised ≠ some l := by
  have chan (j : Chan) : (failedProbe l .heat p s).chan j = s.chan j := failedProbe_within.chan j
  exact channelLost_cold (by simpa only [ChannelsDistinct, chan] using distinct) (by rw [chan, attached]) j

/-- A probe that fails an off command in OPERATING hands LKE the loss. -/
theorem exec_offFailure (probe : ProbeOf l .heat w x p s)
    (fails : FailsCommand s.copies.ackLimit .heat fault w (s.paths l).heat) (mode : s.mode = .operating)
    (off : (s.paths l).heatOn = false) (distinct : ChannelsDistinct s) (attached : (s.chan i).st.attached = some l)
    (kept : ((quarantineCause l .channelLost (lostProbe l i p s)).paths l).latch = ((lostProbe l i p s).paths l).latch) :
    exec (.probeComplete p fault) s = .next (settle (quarantineCause l .channelLost (lostProbe l i p s))) := by
  let f : State := failedProbe l .heat p s
  have read : Within [.mpi, .mem, .paths, .marks] s f := failedProbe_within
  have chan (j : Chan) : f.chan j = s.chan j := read.chan j
  have failed : pathFailed l .heat f = quarantineCause l .channelLost (lostProbe l i p s) := by
    have calm : f.mode ≠ .restoring := by rw [read.mode, mode]; decide
    have uncommanded : ¬ (f.paths l).heatOn = true := by
      rw [failedProbe_paths, if_pos rfl]
      exact Bool.eq_false_iff.mp off
    have apart : ChannelsDistinct f := by simpa only [ChannelsDistinct, chan] using distinct
    have stands : (f.chan i).st.attached = some l := by rw [chan, attached]
    rw [lostProbe, ← hscOffFailed_of_attached apart stands]
    simp only [pathFailed, heatFailed, if_neg calm, if_neg uncommanded]
  refine exec_failure probe fails failed fun _ => still_of_kept probe (kept.trans ?_)
  rw [lostProbe, channelLost_within.pathsAt l]

end

/-- A probe that fails an off command, with no release of the locker under way. -/
theorem failedOffCommand_of_latched {s : State} {x : Txn} {l : Locker} {i : Chan} {p : List PortWrite} {fault : Bool}
    {w : Word} (probe : ProbeOf l .heat w x p s) (fails : FailsCommand s.copies.ackLimit .heat fault w (s.paths l).heat)
    (mode : s.mode = .operating) (off : (s.paths l).heatOn = false) (pending : (s.chan i).st = .offPending l)
    (distinct : ChannelsDistinct s) (room : s.ringFull = false) (both : s.bothLatched l = true) :
    Completes (.probeComplete p fault) s fun t =>
      t.chan i = { s.chan i with st := .lost } ∧ (∀ j : Chan, j ≠ i → t.chan j = s.chan j)
      ∧ t.rpw.lostChannels = s.rpw.lostChannels + 1 ∧ (t.marks l).state = true
      ∧ t.paths l = { s.paths l with heat := failedPath (s.paths l).heat }
      ∧ QuarantinedBy .channelLost l s t ∧ t.ltc = s.ltc
      ∧ HandedAll (recordOf s l .channelLost (BitVec.ofNat 16 i.val) (BitVec.ofNat 32 (s.ctx l).life.code)
          :: quarantinedRecords .channelLost l s) s t ∧ OtherLockersKept l s t
      ∧ t.hsc.grants = s.hsc.grants := by
  let v : State := lostProbe l i p s
  let t : State := quarantineCause l .channelLost v
  have attached : (s.chan i).st.attached = some l := by rw [pending]; rfl
  have lost : Within [.mpi, .mem, .paths, .marks, .chans, .counts, .queue] s v := lostProbe_within
  have taken : CauseTaken .channelLost l v t := quarantineCause_taken (lost.mode.trans mode) (.inl rfl)
    (.of_latches (lost.latches l) (.of_bothLatched both))
  have whole : Within (lockerParts ++ [.mpi, .mem]) s t := lost.widen.next taken.kept
  obtain ⟨by_, handed⟩ := taken.after (lost.ctx l) (lost.tmb (by decide)) lostProbe_handed
  obtain ⟨chans, grants, paths⟩ := taken.cold (lostProbe_cold distinct attached)
  have after (j : Chan) : (settle t).chan j = if j = i then { s.chan i with st := .lost } else s.chan j := by
    rw [settle_chan, chan_of_hsc chans, lostProbe_chan]
  refine ⟨_, exec_offFailure probe fails mode off distinct attached (taken.latchPath l), ?_, fun j other => ?_, ?_, ?_, ?_,
    ?_, ?_, handedAll_settle handed (by rw [whole.ringFull, room]), otherLockersKept_settle ?_, ?_⟩
  · rw [after, if_pos rfl]
  · rw [after, if_neg other]
  · rw [settle_lostChannels, taken.lost, lostProbe_count]
  · rw [settle_marks]
    refine taken.marks l .state (channelLost_mark ?_)
    rw [failedProbe_within.chan i, attached]
  · rw [settle_paths, paths_of_ahu paths, lostProbe_paths]
  · rw [QuarantinedBy, settle_ctx]
    exact by_
  · rw [settle_ltc, taken.kept.ltc (by decide), lost.ltc (by decide)]
  · exact Others.trans (lost.others rfl l) taken.others
  · rw [settle_hsc, grants, lostProbe_grants]

/-- Of two latches of which the other is LATCHED, only the one hatch's release is withdrawn. -/
theorem withdraw_of_one {s : State} {l : Locker} {i : Lifecycle} {h : Hatch}
    (others : ∀ g, g ≠ h → (s.latch l g).st = .latched) : withdraw l i s = withdrawHatch l i s h := by
  cases h with
  | front => exact withdraw_of_rear (others .rear (by decide))
  | rear => rw [withdraw, withdrawHatch_of_still (.inr (.inl (others .front (by decide))))]

/-- A probe that fails an off command for which a release waited: the release is withdrawn with its own record. -/
theorem failedOffCommand_of_haltWait {s : State} {x : Txn} {l : Locker} {i : Chan} {p : List PortWrite} {fault : Bool}
    {w : Word} {h : Hatch} (probe : ProbeOf l .heat w x p s)
    (fails : FailsCommand s.copies.ackLimit .heat fault w (s.paths l).heat)
    (mode : s.mode = .operating) (off : (s.paths l).heatOn = false) (pending : (s.chan i).st = .offPending l)
    (distinct : ChannelsDistinct s) (room : s.ringFull = false) (waits : (s.latch l h).st = .haltWait)
    (latched : ∀ g : Hatch, g ≠ h → (s.latch l g).st = .latched) (life : (s.ctx l).life ≠ .quarantine) :
    Completes (.probeComplete p fault) s fun t =>
      t.chan i = { s.chan i with st := .lost } ∧ (∀ j : Chan, j ≠ i → t.chan j = s.chan j)
      ∧ t.rpw.lostChannels = s.rpw.lostChannels + 1
      ∧ t.paths l = { s.paths l with heat := failedPath (s.paths l).heat }
      ∧ QuarantinedBy .channelLost l s t
      ∧ t.latch l h = { s.latch l h with st := .latched, kind := .none, tray := false, openWait := 0, hatchHeld := 0 }
      ∧ (∀ g : Hatch, g ≠ h → t.latch l g = s.latch l g) ∧ t.smp.fastPoll[l.val] = false
      ∧ HandedAll (recordOf s l .channelLost (BitVec.ofNat 16 i.val) (BitVec.ofNat 32 (s.ctx l).life.code)
          :: quarantinedRecords .channelLost l s ++ [recordOf s l .collectWithdrawn 8 (hatchWord h)]) s t
      ∧ OtherLockersKept l s t ∧ t.hsc.grants = s.hsc.grants := by
  let v : State := lostProbe l i p s
  let u : State := quarantined l .channelLost v
  have attached : (s.chan i).st.attached = some l := by rw [pending]; rfl
  have lost : Within [.mpi, .mem, .paths, .marks, .chans, .counts, .queue] s v := lostProbe_within
  have taken : CauseTaken .channelLost l v u := quarantined_taken (by rwa [lost.ctx l])
  have both : Within (lockerParts ++ [.mpi, .mem]) s u := lost.widen.next taken.kept
  have latch (g : Hatch) : u.latch l g = s.latch l g := by rw [taken.kept.latch l g, lost.latch l g]
  have waits' : (u.latch l h).st = .haltWait := by rw [latch, waits]
  have ended : quarantineCause l .channelLost v = withdrawHatch l .quarantine u h := by
    rw [quarantineCause_of_taken (lost.mode.trans mode) (by rwa [lost.ctx l]) (.inl rfl), quarantine_eq]
    exact withdraw_of_one fun g other => by rw [latch, latched g other]
  have small : Within [.ltc, .marks, .fast, .entries, .queue] u (withdrawHatch l .quarantine u h) := by
    rw [withdrawHatch_of_haltWait waits']
    exact putLatch_within.widen.next reportWithdrawn_within
  have whole : Within (lockerParts ++ [.mpi, .mem]) s (withdrawHatch l .quarantine u h) := both.next small
  obtain ⟨by_, handed⟩ := taken.after (lost.ctx l) (lost.tmb (by decide)) lostProbe_handed
  obtain ⟨chans, grants, paths⟩ := taken.cold (lostProbe_cold distinct attached)
  have after (j : Chan) : (settle (withdrawHatch l .quarantine u h)).chan j
      = if j = i then { s.chan i with st := .lost } else s.chan j := by
    rw [settle_chan, small.chan j, chan_of_hsc chans, lostProbe_chan]
  have order : (u.ctx l).order = (s.ctx l).order := by
    rw [show u.ctx l = _ from by_, if_neg life]
  have report : HandedAll _ u (withdrawHatch l .quarantine u h) := withdrawHatch_handed (.inl waits')
  rw [recordOf, order, both.tmb (by decide)] at report
  have reports := handedAll_trans handed report
  have ran := exec_offFailure probe fails mode off distinct attached
    (by rw [ended, small.pathsAt l]; exact taken.latchPath l)
  rw [ended] at ran
  refine ⟨_, ran, ?_, fun j other => ?_, ?_, ?_, ?_, ?_, fun g other => ?_, ?_,
    handedAll_settle reports (by rw [whole.ringFull, room]), otherLockersKept_settle ?_, ?_⟩
  · rw [after, if_pos rfl]
  · rw [after, if_neg other]
  · rw [settle_lostChannels, (small.counts (by decide)).2, taken.lost, lostProbe_count]
  · rw [settle_paths, small.pathsAt l, paths_of_ahu paths, lostProbe_paths]
  · rw [QuarantinedBy, settle_ctx, small.ctx l]
    exact by_
  · rw [settle_latch, withdrawHatch_latch_of_haltWait waits', latch]
    rfl
  · rw [settle_latch, withdrawHatch_latch_ne other, latch]
  · rw [settle_fastPoll, withdrawHatch_of_haltWait waits', reportWithdrawn_within.fastPollAt l, putLatch_fastPoll_rest rfl]
    intro g other
    rw [latch, latched g other]
    rfl
  · refine Others.trans (Others.trans (lost.others rfl l) taken.others) withdrawHatch_others
  · rw [settle_hsc, (small.chans (by decide)).2, grants, lostProbe_grants]

theorem failedOffCommand : FailedOffCommand := by
  intro s x l i p fault w probe fails mode off pending distinct room lost
  exact ⟨failedOffCommand_of_latched probe fails mode off pending distinct room,
    fun h waits latched life => failedOffCommand_of_haltWait probe fails mode off pending distinct room waits latched life⟩

end Sys2Proof.Machine
end

section
/-! PROOFS. A failed command in the restore, a failed latch command, and the whole of a probe without an ACK (R40, R45, R59,
R97 to R99, R124, R137, R139). -/

-- One theorem after the other: a thread for each would ask for more stack space than a build may have.
set_option Elab.async false

namespace Sys2Proof.Machine

/-! ### Causes in RESTORING (R40, R59) -/

theorem quarantineCause_of_restoring {s : State} {l : Locker} {r : Reason} (mode : s.mode = .restoring) :
    quarantineCause l r s = enterHalting l ((s.ctx l).quarantined r) s := if_pos mode

theorem failedRestoreHeatCommand : FailedRestoreHeatCommand := by
  intro s x l p fault w probe fails mode free room
  let f : State := failedProbe l .heat p s
  let t : State := putCtx l ((s.ctx l).quarantined .heatActuator) f
  have read : Within [.mpi, .mem, .paths, .marks] s f := failedProbe_within
  have failed : pathFailed l .heat f = t := by
    have none : (putCtx l ((f.ctx l).quarantined .heatActuator) f).attachedChan l = none :=
      attachedChan_eq_none_iff.mpr fun i => by
        rw [putCtx_chan, read.chan i, free i]
        exact nofun
    have calm : f.mode = .restoring := read.mode.trans mode
    simp only [pathFailed, heatFailed, if_pos calm]
    rw [quarantineCause_of_restoring calm, enterHalting, haltLocker_of_none none, read.ctx l]
  have whole : Within [.mpi, .mem, .paths, .marks, .lke, .counts, .entries] s t := read.widen.next putCtx_within
  have path : t.paths l = { s.paths l with heat := failedPath (s.paths l).heat } := by
    rw [putCtx_paths, failedProbe_paths, if_pos rfl]
    rfl
  refine ⟨_, exec_failure probe fails failed fun _ => still_of_kept probe (congrArg (·.latch) (putCtx_paths ..)), ?_, ?_, ?_, ?_, ?_,
    otherLockersKept_settle ?_⟩
  · rw [settle_ctx, putCtx_ctx_self]
    rfl
  · rw [settle_paths, path]
  · rw [settle_hsc, (whole.chans (by decide)).1]
  · rw [settle_ltc, whole.ltc (by decide)]
  · exact queue_of_unhanded (handedAll_settle whole.unhanded (whole.ringFull.trans room))
  · exact Others.trans (read.others rfl l) putCtx_others

/-! ### A failed latch command (R98, R99) -/

/-- Both latches of a locker after its latch command has failed. -/
def failBoth (l : Locker) (s : State) : State := failHatch l (failHatch l s .front) .rear

section
variable {s : State} {l : Locker} {h : Hatch}

/-- A latch that has a command outstanding (R98). -/
abbrev CommandOut (st : LatchState) : Prop := st = .unlatchPending ∨ st = .opened ∨ st = .relatchPending

theorem failHatch_of_commandOut (out : CommandOut (s.latch l h).st) :
    failHatch l s h = putLatch l h ((s.latch l h).rest .failed) s := by
  rcases out with st | st | st <;> simp only [failHatch, st]

theorem failHatch_of_rest (rest : (s.latch l h).st = .latched ∨ (s.latch l h).st = .failed) : failHatch l s h = s := by
  rcases rest with st | st <;> simp only [failHatch, st]

theorem failHatch_within_latches : Within [.ltc, .marks, .fast, .entries] s (failHatch l s h) := by
  unfold failHatch
  dsimp only
  split
  · exact putLatch_within
  · exact putLatch_within
  · exact putLatch_within
  all_goals exact .refl

theorem failHatch_others : OtherLockersKept l s (failHatch l s h) := by
  unfold failHatch
  dsimp only
  split
  · exact putLatch_others
  · exact putLatch_others
  · exact putLatch_others
  all_goals exact Others.refl

theorem failBoth_within : Within [.ltc, .marks, .fast, .entries] s (failBoth l s) :=
  failHatch_within_latches.next failHatch_within_latches

theorem failBoth_others : OtherLockersKept l s (failBoth l s) := Others.trans failHatch_others failHatch_others

theorem failBoth_latch (h : Hatch) : (failBoth l s).latch l h = (s.latch l h).fail := by
  cases h <;> simp [failBoth, failHatch_latch]

theorem fail_of_commandOut {r : LatchRec} (out : CommandOut r.st) : r.fail = r.rest .failed := by
  rcases out with st | st | st <;> simp only [LatchRec.fail, st]

theorem fail_of_rest {r : LatchRec} (rest : r.st = .latched ∨ r.st = .failed) : r.fail = r := by
  rcases rest with st | st
  · exact LatchRec.fail_latched st
  · exact LatchRec.fail_failed st

variable (each : ∀ h, CommandOut (s.latch l h).st ∨ (s.latch l h).st = .latched ∨ (s.latch l h).st = .failed)
include each

theorem fail_atRest (h : Hatch) : (s.latch l h).fail.st = .latched ∨ (s.latch l h).fail.st = .failed := by
  rcases each h with out | rest
  · rw [fail_of_commandOut out]
    exact .inr rfl
  · rw [fail_of_rest rest]
    exact rest

theorem failBoth_noRelease : NoRelease l (failBoth l s) := fun h => by
  rw [failBoth_latch]
  exact .inr (fail_atRest each h)

/-- With no sequence left the locker leaves the fast-poll set. -/
theorem failBoth_fastPoll (some_ : ∃ h, CommandOut (s.latch l h).st) :
    (failBoth l s).smp.fastPoll[l.val] = false := by
  have rest (h : Hatch) : (s.latch l h).fail.st.inSeq = false := by
    rcases fail_atRest each h with st | st <;> rw [st] <;> rfl
  have front : (failHatch l s .front).latch l .front = (s.latch l .front).fail := by simp [failHatch_latch]
  have rear : (failHatch l s .front).latch l .rear = s.latch l .rear := by simp [failHatch_latch]
  rcases each .rear with out | still
  · rw [failBoth, failHatch_of_commandOut (by rw [rear]; exact out)]
    refine putLatch_fastPoll_rest rfl fun g other => ?_
    obtain rfl : g = .front := by cases g <;> simp_all
    rw [front, rest]
  · have out : CommandOut (s.latch l .front).st := by
      obtain ⟨h, out⟩ := some_
      cases h with
      | front => exact out
      | rear => rcases still with st | st <;> rw [st] at out <;> rcases out with e | e | e <;> cases e
    rw [failBoth, failHatch_of_rest (by rw [rear]; exact still), failHatch_of_commandOut out]
    refine putLatch_fastPoll_rest rfl fun g other => ?_
    obtain rfl : g = .rear := by cases g <;> simp_all
    rw [← fail_of_rest still]
    exact rest .rear

end

/-- A cause from an actuator, in OPERATING or RESTORING, at a locker without a release. -/
theorem actuatorCause_kept {s : State} {l : Locker} {r : Reason} (actuator : r.ofActuator = true)
    (mode : s.mode = .operating ∨ s.mode = .restoring) (still : NoRelease l s) :
    let t := quarantineCause l r s
    Within [.lke, .marks, .counts, .entries, .chans, .paths, .queue, .recs] s t ∧ LatchPathsKept s t ∧ OtherLockersKept l s t
      ∧ (ChannelsDistinct s → (s.ctx l).life ≠ .quarantine → ∀ i : Chan, (t.chan i).st.energised ≠ some l) := by
  rcases mode with operating | restoring
  · have taken := quarantineCause_taken operating (.inl actuator) still
    exact ⟨taken.kept, taken.latchPath, taken.others, taken.off⟩
  · dsimp only
    rw [quarantineCause_of_restoring restoring]
    exact ⟨enterHalting_within.widen, fun k => enterHalting_latchPath .., enterHalting_others,
      fun distinct _ => enterHalting_energised distinct⟩

theorem failedLatchCommand : FailedLatchCommand := by
  intro s x l p fault w commanded probe fails mode distinct room out each
  let f : State := failedProbe l .latch p s
  let g : State := failBoth l f
  let t : State := quarantineCause l .latchActuator g
  have read : Within [.mpi, .mem, .paths, .marks] s f := failedProbe_within
  have latch (h : Hatch) : f.latch l h = s.latch l h := read.latch l h
  have each' (h : Hatch) : CommandOut (f.latch l h).st ∨ (f.latch l h).st = .latched ∨ (f.latch l h).st = .failed := by
    rw [latch]
    exact each h
  have down : Within [.mpi, .mem, .paths, .marks, .ltc, .fast, .entries] s g := read.widen.next failBoth_within
  have still : NoRelease l g := failBoth_noRelease each'
  have apart : ChannelsDistinct g := by simpa only [ChannelsDistinct, down.chan] using distinct
  obtain ⟨kept, latchPath, others, off⟩ := actuatorCause_kept (r := .latchActuator) (s := g) rfl
    (by rwa [down.mode]) still
  have whole : Within (lockerParts ++ [.mpi, .mem]) s t := down.widen.next kept
  have after (h : Hatch) : (settle t).latch l h = (s.latch l h).fail := by
    rw [settle_latch, kept.latch l h, failBoth_latch, latch]
  refine ⟨_, exec_failure (t := t) probe fails rfl nofun, fun h => ⟨fun out => ?_, fun rest => ?_⟩, ?_, ?_,
    fun operating => ?_, fun restoring => ⟨?_, ?_⟩, fun life i => ?_, otherLockersKept_settle ?_, ?_⟩
  · rw [after, fail_of_commandOut out]
    rfl
  · rw [after, fail_of_rest rest]
  · rw [settle_paths, latchPath l, failBoth_within.pathsAt l, failedProbe_paths, if_pos rfl]
    rfl
  · rw [settle_fastPoll, kept.fastPollAt l]
    obtain ⟨h, out⟩ := out
    exact failBoth_fastPoll each' ⟨h, by rw [latch]; exact out⟩
  · have taken : CauseTaken .latchActuator l g t := quarantineCause_taken (down.mode.trans operating) (.inl rfl) still
    obtain ⟨by_, handed⟩ := taken.after (down.ctx l) (down.tmb (by decide)) down.unhanded
    refine ⟨?_, handedAll_settle handed (whole.ringFull.trans room)⟩
    rw [QuarantinedBy, settle_ctx]
    exact by_
  · rw [settle_ctx, show t = _ from quarantineCause_of_restoring (down.mode.trans restoring), enterHalting_ctx_self, down.ctx l]
    rfl
  · have entered : HandedAll [] g t := by
      rw [show t = _ from quarantineCause_of_restoring (down.mode.trans restoring)]
      exact enterHalting_unhanded
    exact queue_of_unhanded (handedAll_settle (handedAll_trans down.unhanded entered) (whole.ringFull.trans room))
  · rw [settle_chan]
    exact off apart (by rwa [down.ctx l]) i
  · exact Others.trans (Others.trans (read.others rfl l) failBoth_others) others
  · rw [settle_mem, kept.mem (by decide), failBoth_within.mem (by decide), failedProbe_mem]

/-- Settles O43: below the limits, and by the path and the image at a failure. -/
theorem probeWithoutAckCounts : Obligations.ProbeWithoutAckCounts :=
  ⟨probeBelowTheLimits, failedOnCommand, failedOffCommand, failedRestoreHeatCommand, failedLatchCommand⟩

end Sys2Proof.Machine
end

section
/-! PROOFS. The judgement of a poll result: the sampler record and the first cause handed on (R149 to R153). -/

-- One theorem after the other: a thread for each would ask for more stack space than a build may have.
set_option Elab.async false

namespace Sys2Proof.Machine

/-! ### Sampler records (R146) -/

section
variable {s t v : State} {l : Locker} {q r : SamplerRec}

theorem putSampler_sampler (l : Locker) (r : SamplerRec) (s : State) : (putSampler l r s).sampler l = r := by
  simp [State.sampler, putSampler]

theorem putSampler_putSampler (l : Locker) (q r : SamplerRec) (s : State) :
    putSampler l r (putSampler l q s) = putSampler l r s := by
  simp [putSampler]

theorem putSampler_self (l : Locker) (s : State) : putSampler l (s.sampler l) s = s := by
  simp [putSampler, State.sampler]

end

/-! ### Causes between the records (R150) -/

/-- A cause handed on where a step finds one. -/
def causeIf (p : Prop) [Decidable p] (l : Locker) (r : Reason) (s : State) : State :=
  if p then quarantineCause l r s else s

section
variable {s t v : State} {l : Locker} {r : Reason}

theorem causeIf_pos {p : Prop} [Decidable p] (h : p) : causeIf p l r s = quarantineCause l r s := if_pos h

theorem causeIf_neg {p : Prop} [Decidable p] (h : ¬ p) : causeIf p l r s = s := if_neg h

/-- A cause reads and leaves no sampler record. -/
theorem CauseTaken.of_recs (before : Within [.recs] s v) (c : CauseTaken r l v t) : CauseTaken r l s t := by
  obtain ⟨ctx, handed, entries, off, shrunk, kept, others, latchPath, marks, cold, lost, heat, eases⟩ := c
  have same : v.ctx l = s.ctx l := before.ctx l
  have chan (i : Chan) : v.chan i = s.chan i := before.chan i
  have path (k : Locker) : v.paths k = s.paths k := before.pathsAt k
  obtain ⟨chans, grants⟩ := before.chans (by decide)
  obtain ⟨by_, reports⟩ : QuarantinedBy r l s t ∧ HandedAll ([] ++ quarantinedRecords r l s) s t := by
    refine ⟨?_, handedAll_trans before.unhanded ?_⟩
    · rwa [QuarantinedBy, same] at ctx
    · rwa [quarantinedRecords, recordOf, same, before.tmb (by decide)] at handed
  rw [same] at entries off
  refine ⟨by_, reports, entries, fun distinct => off (by simpa only [ChannelsDistinct, chan] using distinct),
    before.entriesShrunk.trans shrunk, before.widen.next kept, Others.trans (before.others rfl l) others,
    fun k => (latchPath k).trans (by rw [path]), (marksKept_of_mrw (before.marks (by decide))).trans marks, fun cold' => ?_,
    lost.trans (before.counts (by decide)).2, fun i on distinct => ?_, .trans (.of_chans chan) eases⟩
  · obtain ⟨a, b, c⟩ := cold fun i => by rw [chan]; exact cold' i
    exact ⟨a.trans chans, b.trans grants, c.trans (before.paths (by decide))⟩
  · rw [← chan] at on
    have cases := heat i on (by simpa only [ChannelsDistinct, chan] using distinct)
    rwa [HeatCommanded, chan, path] at cases

theorem CauseTaken.then_recs (c : CauseTaken r l s v) (after : Within [.recs] v t) : CauseTaken r l s t := by
  obtain ⟨ctx, handed, entries, off, shrunk, kept, others, latchPath, marks, cold, lost, heat, eases⟩ := c
  have chan (i : Chan) : t.chan i = v.chan i := after.chan i
  have path (k : Locker) : t.paths k = v.paths k := after.pathsAt k
  obtain ⟨chans, grants⟩ := after.chans (by decide)
  obtain ⟨hq, wq⟩ := after.entries (by decide)
  refine ⟨(after.ctx l).trans ctx, by simpa using handedAll_trans handed after.unhanded, ?_, ?_,
    shrunk.trans after.entriesShrunk, kept.next after, Others.trans others (after.others rfl l),
    fun k => by rw [path, latchPath k], marks.trans (marksKept_of_mrw (after.marks (by decide))), fun cold' => ?_,
    (after.counts (by decide)).2.trans lost, fun i on distinct => ?_, .trans eases (.of_chans chan)⟩
  · rw [hq, wq]
    exact entries
  · simpa only [chan] using off
  · obtain ⟨a, b, c⟩ := cold cold'
    exact ⟨chans.trans a, grants.trans b, (after.paths (by decide)).trans c⟩
  · rw [HeatCommanded, chan, path, after.marksAt l]
    exact heat i on distinct

/-- A locker that a cause has made QUARANTINE takes no other. -/
theorem CauseTaken.quarantine (c : CauseTaken r l s t) : (t.ctx l).life = .quarantine := by
  have by_ : t.ctx l = _ := c.ctx
  rw [by_]
  split
  · next life => exact life
  · rfl

theorem CauseTaken.last {q : Reason} (c : CauseTaken r l s t) (mode : s.mode = .operating) :
    quarantineCause l q t = t := quarantineCause_of_quarantine (c.kept.mode.trans mode) c.quarantine

theorem quarantineCause_sampler (mode : s.mode = .operating) (taken : r.ofActuator = true ∨ (s.ctx l).life ≠ .vacant)
    (still : NoRelease l s) (k : Locker) : (quarantineCause l r s).sampler k = s.sampler k := by
  by_cases life : (s.ctx l).life = .quarantine
  · rw [quarantineCause_of_quarantine mode life]
  · rw [quarantineCause_of_taken mode life taken, quarantine_of_noRelease still, quarantined, handRecord_sampler,
      enterHalting_sampler]

end

/-! ### The steps of a result (R150 to R153) -/

/-- A result up to its causes: the steps before the upper limit. -/
def pollJudged (k : PollKind) (l : Locker) (x : Sense) (s : State) : State :=
  if plausible x.temp then overtempStep l x.temp (staleStep k l x.seq (plausibleResult k l x.temp s))
  else staleStep k l x.seq (implausibleResult k l s)

/-- A result before its reading. -/
def pollActed (k : PollKind) (l : Locker) (x : Sense) (s : State) : State :=
  if plausible x.temp then sampleStep l x.temp (upperStep l x.temp (pollJudged k l x s)) else pollJudged k l x s

/-- The record of a frame poll's sequence (R152). -/
abbrev sequenced (limit : Nat) (r : SamplerRec) (seq : BitVec 8) : SamplerRec :=
  { r with lastSeq := some seq, stale := if r.lastSeq = some seq then min limit (r.stale + 1) else 0 }

section
variable {s : State} {l : Locker} {k : PollKind} {x : Sense}

theorem plausible_iff {t : Int} : plausible t = true ↔ plausibleTemp t := by
  rw [plausible, Bool.and_eq_true]
  exact and_congr decide_eq_true_iff decide_eq_true_iff

theorem pollResult_of_reading {w : Word} (used : (s.ctx l).life ≠ .vacant) :
    pollResult k l (some w) s = ltcReading l (senseOf w) (pollActed k l (senseOf w) s) := by
  have other : s.isVacant l = false := by simpa [State.isVacant] using used
  unfold pollResult pollActed pollJudged
  simp only [other, Bool.false_eq_true, if_false]
  split <;> rfl

theorem staleStep_frame (seq : BitVec 8) (s : State) : staleStep .frame l seq s
    = causeIf ((s.sampler l).lastSeq = some seq ∧ s.copies.staleLimit ≤ (s.sampler l).stale + 1) l .stale
        (putSampler l (sequenced s.copies.staleLimit (s.sampler l) seq) s) := by
  unfold staleStep causeIf
  dsimp only
  by_cases same : (s.sampler l).lastSeq = some seq
  · have reached : min s.copies.staleLimit ((s.sampler l).stale + 1) = s.copies.staleLimit
        ↔ s.copies.staleLimit ≤ (s.sampler l).stale + 1 := by omega
    have record : sequenced s.copies.staleLimit (s.sampler l) seq
        = { s.sampler l with stale := min s.copies.staleLimit ((s.sampler l).stale + 1) } := by simp [sequenced, same]
    rw [if_pos same, record]
    exact if_congr (reached.trans ⟨fun due => ⟨same, due⟩, And.right⟩) rfl rfl
  · have record : sequenced s.copies.staleLimit (s.sampler l) seq = { s.sampler l with lastSeq := some seq, stale := 0 } := by
      simp [sequenced, same]
    rw [if_neg same, if_neg fun due => same due.1, record]

theorem implausibleResult_frame (s : State) : implausibleResult .frame l s
    = causeIf (3 ≤ (s.sampler l).implausible + 1) l .implausible
        (putSampler l { s.sampler l with implausible := min 3 ((s.sampler l).implausible + 1) } s) := by
  have reached : min Config.implausibleLimit ((s.sampler l).implausible + 1) = Config.implausibleLimit
      ↔ 3 ≤ (s.sampler l).implausible + 1 := by
    simp only [Config.implausibleLimit]
    omega
  unfold implausibleResult causeIf
  dsimp only
  simp only [reached]
  rfl

theorem overtempStep_eq (t : Int) (s : State) :
    overtempStep l t s = causeIf (2 * (s.copies.overtempC : Int) ≤ t) l .overtemp s := rfl

end

/-! ### The first cause (R150 to R153) -/

/-- The sampler record after a reading with fields, put in place. -/
abbrev recorded (k : PollKind) (l : Locker) (x : Sense) (s : State) : State :=
  putSampler l (judgedSampler k s.copies.staleLimit (s.sampler l) x) s

/-- The sequence of a frame poll makes the locker STALE. -/
abbrev SeenStale (l : Locker) (x : Sense) (s : State) : Prop :=
  (s.sampler l).lastSeq = some x.seq ∧ s.copies.staleLimit ≤ (s.sampler l).stale + 1

section
variable {s : State} {l : Locker} {k : PollKind} {x : Sense} {r : Reason}

theorem pollJudged_fast (valid : plausibleTemp x.temp) : pollJudged .fast l x s
    = causeIf (2 * (s.copies.overtempC : Int) ≤ x.temp) l .overtemp (recorded .fast l x s) := by
  rw [pollJudged, if_pos (plausible_iff.mpr valid), overtempStep_eq]
  have record : judgedSampler .fast s.copies.staleLimit (s.sampler l) x = { s.sampler l with latest := some x.temp } := by
    dsimp only [judgedSampler]
    rw [if_pos valid]
  rw [recorded, record]
  rfl

theorem pollJudged_fast_implausible (other : ¬ plausibleTemp x.temp) :
    pollJudged .fast l x s = recorded .fast l x s := by
  rw [pollJudged, if_neg fun valid => other (plausible_iff.mp valid)]
  have record : judgedSampler .fast s.copies.staleLimit (s.sampler l) x = s.sampler l := by
    dsimp only [judgedSampler]
    rw [if_neg other]
  rw [recorded, record, putSampler_self]
  rfl

theorem pollJudged_frame (valid : plausibleTemp x.temp) : pollJudged .frame l x s
    = causeIf (2 * (s.copies.overtempC : Int) ≤ x.temp) l .overtemp
        (causeIf (SeenStale l x s) l .stale (recorded .frame l x s)) := by
  let q : SamplerRec := { s.sampler l with latest := some x.temp, implausible := 0 }
  have first : plausibleResult .frame l x.temp s = putSampler l q s := rfl
  have record : sequenced s.copies.staleLimit q x.seq = judgedSampler .frame s.copies.staleLimit (s.sampler l) x := by
    dsimp only [judgedSampler, sequenced, q]
    rw [if_pos valid, if_pos valid]
  have copies (u : State) (p : Prop) [Decidable p] : (causeIf p l .stale u).copies = u.copies := by
    unfold causeIf
    split
    · exact quarantineCause_within.copies
    · rfl
  rw [pollJudged, if_pos (plausible_iff.mpr valid), overtempStep_eq, staleStep_frame, copies, first, putSampler_putSampler,
    putSampler_sampler, putSampler_copies, putSampler_copies, record]

theorem pollJudged_frame_implausible (other : ¬ plausibleTemp x.temp) : pollJudged .frame l x s
    = staleStep .frame l x.seq (causeIf (3 ≤ (s.sampler l).implausible + 1) l .implausible
        (putSampler l { s.sampler l with implausible := min 3 ((s.sampler l).implausible + 1) } s)) := by
  rw [pollJudged, if_neg fun valid => other (plausible_iff.mp valid), implausibleResult_frame]

theorem implausible_recorded (other : ¬ plausibleTemp x.temp) : sequenced s.copies.staleLimit
    { s.sampler l with implausible := min 3 ((s.sampler l).implausible + 1) } x.seq
      = judgedSampler .frame s.copies.staleLimit (s.sampler l) x := by
  dsimp only [judgedSampler, sequenced]
  rw [if_neg other, if_neg other]

theorem pollJudged_frame_few (other : ¬ plausibleTemp x.temp) (few : ¬ 3 ≤ (s.sampler l).implausible + 1) :
    pollJudged .frame l x s = causeIf (SeenStale l x s) l .stale (recorded .frame l x s) := by
  rw [pollJudged_frame_implausible other, causeIf_neg few, staleStep_frame, putSampler_putSampler, putSampler_sampler,
    putSampler_copies, implausible_recorded other]

/-- Without a cause a result leaves the sampler record alone. -/
theorem pollJudged_of_none (none : pollCause k s.copies (s.sampler l) x = none) :
    pollJudged k l x s = recorded k l x s := by
  by_cases valid : plausibleTemp x.temp
  · cases k with
    | fast =>
      rw [pollJudged_fast valid, causeIf_neg]
      intro hot
      simp [pollCause, valid, hot] at none
    | frame =>
      have fresh : ¬ SeenStale l x s := fun stale => by simp [pollCause, valid, stale.1, stale.2] at none
      rw [pollJudged_frame valid, causeIf_neg fresh, causeIf_neg]
      intro hot
      have order : ¬ ((s.sampler l).lastSeq = some x.seq ∧ s.copies.staleLimit ≤ (s.sampler l).stale + 1) := fresh
      simp [pollCause, valid, order, hot] at none
  · cases k with
    | fast => exact pollJudged_fast_implausible valid
    | frame =>
      have few : ¬ 3 ≤ (s.sampler l).implausible + 1 := fun many => by simp [pollCause, valid, many] at none
      rw [pollJudged_frame_few valid few, causeIf_neg]
      intro stale
      simp [pollCause, valid, few, stale.1, stale.2] at none

theorem CauseTaken.causeIf_last {t : State} {q : Reason} {p : Prop} [Decidable p] (c : CauseTaken r l s t)
    (mode : s.mode = .operating) : causeIf p l q t = t := by
  unfold causeIf
  split
  · exact c.last mode
  · rfl

variable (mode : s.mode = .operating) (used : (s.ctx l).life ≠ .vacant) (still : NoRelease l s)
include mode used still

/-- A cause handed on once the sampler record is in place. -/
theorem recorded_cause (q : SamplerRec) (r : Reason) : CauseTaken r l s (quarantineCause l r (putSampler l q s))
    ∧ (quarantineCause l r (putSampler l q s)).sampler l = q := by
  have ready : (putSampler l q s).mode = .operating := mode
  have life : ((putSampler l q s).ctx l).life ≠ .vacant := by rwa [putSampler_ctx]
  have rest : NoRelease l (putSampler l q s) := .of_latches (putSampler_latches ..) still
  refine ⟨(quarantineCause_taken ready (.inr life) rest).of_recs putSampler_within, ?_⟩
  rw [quarantineCause_sampler ready (.inr life) rest, putSampler_sampler]

/-- The first cause that a result hands on is taken; those after it find the locker QUARANTINE. -/
theorem pollJudged_of_cause (cause : pollCause k s.copies (s.sampler l) x = some r) :
    CauseTaken r l s (pollJudged k l x s)
      ∧ (pollJudged k l x s).sampler l = judgedSampler k s.copies.staleLimit (s.sampler l) x := by
  have taken (r : Reason) := recorded_cause mode used still (judgedSampler k s.copies.staleLimit (s.sampler l) x) r
  unfold pollCause at cause
  split at cause
  · next many =>
    obtain ⟨rfl, other, many⟩ := many
    cases cause
    let q : SamplerRec := { s.sampler l with implausible := min 3 ((s.sampler l).implausible + 1) }
    obtain ⟨first, sampler⟩ := recorded_cause mode used still q .implausible
    have copies : (quarantineCause l .implausible (putSampler l q s)).copies = s.copies := first.kept.copies
    have record : sequenced s.copies.staleLimit q x.seq = judgedSampler .frame s.copies.staleLimit (s.sampler l) x :=
      implausible_recorded other
    have second := first.then_recs (t := putSampler l (judgedSampler .frame s.copies.staleLimit (s.sampler l) x)
      (quarantineCause l .implausible (putSampler l q s))) putSampler_within
    rw [pollJudged_frame_implausible other, causeIf_pos many, staleStep_frame, sampler, copies, record,
      second.causeIf_last mode]
    exact ⟨second, putSampler_sampler ..⟩
  · next few =>
    split at cause
    · next stale =>
      obtain ⟨rfl, stale⟩ := stale
      cases cause
      have seen : SeenStale l x s := stale
      by_cases valid : plausibleTemp x.temp
      · rw [pollJudged_frame valid, causeIf_pos seen, (taken .stale).1.causeIf_last mode]
        exact taken .stale
      · rw [pollJudged_frame_few valid fun many => few ⟨rfl, valid, many⟩, causeIf_pos seen]
        exact taken .stale
    · next fresh =>
      split at cause
      · next hot =>
        obtain ⟨valid, hot⟩ := hot
        cases cause
        cases k with
        | fast =>
          rw [pollJudged_fast valid, causeIf_pos hot]
          exact taken .overtemp
        | frame =>
          rw [pollJudged_frame valid, causeIf_pos hot, causeIf_neg fun seen => fresh ⟨rfl, seen⟩]
          exact taken .overtemp
      · cases cause

end

end Sys2Proof.Machine
end

section
/-! PROOFS. What acts on a judged poll result: the upper limit, the queues, LKE and the readings of closed hatches (R47, R88,
R107, R108, R116, R150, R154, R155). -/

-- One theorem after the other: a thread for each would ask for more stack space than a build may have.
set_option Elab.async false

namespace Sys2Proof.Machine

/-! ### The completion of a poll (R149, R150) -/

/-- The state in which a poll's result is judged. -/
def pollRead (k : PollKind) (l : Locker) (p : List PortWrite) (s : State) : State :=
  match k with
  | .frame => leaveSweep l (probeRead p s)
  | .fast => probeRead p s

section
variable {s : State} {l : Locker} {k : PollKind} {x : Txn} {p : List PortWrite} {w : Word}

theorem pollRead_within : Within [.mpi, .mem, .sweep] s (pollRead k l p s) := by
  cases k
  · exact probeRead_within.widen.next leaveSweep_within
  · exact probeRead_within.widen

theorem exec_poll (poll : PollOf k l w x p s) (used : (s.ctx l).life ≠ .vacant) : exec (pollComplete k p false) s
    = .next (settle (ltcReading l (senseOf w) (pollActed k l (senseOf w) (pollRead k l p s)))) := by
  obtain ⟨-, port, word⟩ := poll
  have life : ((pollRead k l p s).ctx l).life ≠ .vacant := by
    rwa [(pollRead_within (k := k) (l := l) (p := p) (s := s)).ctx l]
  rw [← pollResult_of_reading life]
  cases k with
  | frame =>
    change execFramePollComplete p false s = _
    rw [execFramePollComplete, port]
    dsimp only [readBack]
    rw [word]
    rfl
  | fast =>
    change execFastPollComplete p false s = _
    rw [execFastPollComplete, port]
    dsimp only [readBack]
    rw [word]
    rfl

end

/-! ### Late grants and attached channels (R102, R114) -/

section
variable {s : State} {l : Locker} {i : Chan}

theorem freeChan_ne (free : s.freeChan = some i) {j : Chan} (attached : (s.chan j).st.attached = some l) : j ≠ i := by
  rintro rfl
  rw [freeChan_free free] at attached
  cases attached

theorem nextUnserved_ne {k : Locker} (next : s.nextUnserved = some k) (attached : (s.chan i).st.attached = some l) :
    l ≠ k := by
  rintro rfl
  have unserved := List.find?_some next
  rw [Option.isNone_iff_eq_none] at unserved
  exact attachedChan_eq_none_iff.mp unserved i attached

/-- A late grant leaves an attached channel and the paths of its locker. -/
theorem lateGrantLoop_attached (n : Nat) (attached : (s.chan i).st.attached = some l) :
    (lateGrantLoop n s).chan i = s.chan i ∧ (lateGrantLoop n s).paths l = s.paths l := by
  induction n generalizing s with
  | zero => exact ⟨rfl, rfl⟩
  | succ n ih =>
    unfold lateGrantLoop
    split
    · split
      · next j k free next_ =>
        have chan : (allocateChan j k s).chan i = s.chan i := by
          rw [allocateChan_chan, if_neg (freeChan_ne free attached)]
        have unheld : (s.chan j).st.attached ≠ some k := by
          rw [freeChan_free free]
          exact nofun
        have path : (allocateChan j k s).paths l = s.paths l :=
          (allocateChan_allocated unheld).paths l (nextUnserved_ne next_ attached)
        obtain ⟨chan', path'⟩ := ih (s := allocateChan j k s) (by rw [chan, attached])
        exact ⟨chan'.trans chan, path'.trans path⟩
      · exact ⟨rfl, rfl⟩
    · exact ⟨rfl, rfl⟩

theorem lateGrant_attached (attached : (s.chan i).st.attached = some l) :
    (lateGrant s).chan i = s.chan i ∧ (lateGrant s).paths l = s.paths l := by
  unfold lateGrant
  split
  · exact lateGrantLoop_attached 16 attached
  · exact ⟨rfl, rfl⟩

end

/-! ### A valid sample at HSC (R107, R108) -/

section
variable {s : State} {l : Locker} {t : Int}

theorem sampleHq_of_high (high : (s.opts l).midpoint ≤ t) : sampleHq l t s = dropHq l s := if_neg (Int.not_lt.mpr high)

theorem sampleWq_of_high (high : (s.opts l).load ≤ t) : sampleWq l t s = dropWq l s := if_neg (Int.not_lt.mpr high)

theorem sampleHq_of_low (low : t < (s.opts l).midpoint) :
    sampleHq l t s = if s.qualifiesHq l = true ∧ l ∉ s.ranking then postHq l s else s := by
  rw [sampleHq, if_pos low]
  simp [State.queued]

theorem sampleWq_of_low (low : t < (s.opts l).load) :
    sampleWq l t s = if s.qualifiesWq l = true ∧ l ∉ s.ranking then postWq l s else s := by
  rw [sampleWq, if_pos low]
  simp [State.queued]

/-- What a sample does to one queue: nothing, an entry taken out, or an entry posted with a late grant. -/
theorem hscSample_forms {P : State → State → Prop} (trans : ∀ {u v w}, P u v → P v w → P u w) (same : ∀ u, P u u)
    (entries : ∀ u h w, P u { u with hsc := { u.hsc with hq := h, wq := w } }) (grant : ∀ u, P u (lateGrant u)) :
    P s (hscSample l t s) := by
  have hold (u : State) : P u (sampleHq l t u) := by
    unfold sampleHq
    split
    · split
      · exact trans (entries u _ _) (grant _)
      · exact same u
    · exact entries u _ _
  have warm (u : State) : P u (sampleWq l t u) := by
    unfold sampleWq
    split
    · split
      · exact trans (entries u _ _) (grant _)
      · exact same u
    · exact entries u _ _
  exact trans (hold s) (warm _)

theorem hscSample_marksKept : MarksKept s (hscSample l t s) :=
  hscSample_forms (fun h k => h.trans k) (fun _ => .refl) (fun _ _ _ => marksKept_of_mrw rfl) fun _ => lateGrant_marksKept

theorem hscSample_latchPathsKept : LatchPathsKept s (hscSample l t s) :=
  hscSample_forms (fun h k => h.trans k) (fun _ _ => rfl) (fun _ _ _ _ => rfl) fun _ => lateGrant_latchPathsKept

/-- A sample leaves an attached channel and the paths of its locker. -/
theorem hscSample_attached {i : Chan} {k : Locker} (attached : (s.chan i).st.attached = some k) :
    (hscSample l t s).chan i = s.chan i ∧ (hscSample l t s).paths k = s.paths k := by
  refine hscSample_forms (P := fun u v => (u.chan i).st.attached = some k → v.chan i = u.chan i ∧ v.paths k = u.paths k)
    (fun h g attached => ?_) (fun _ _ => ⟨rfl, rfl⟩) (fun _ _ _ _ => ⟨rfl, rfl⟩) (fun _ => lateGrant_attached) attached
  obtain ⟨chan, path⟩ := h attached
  obtain ⟨chan', path'⟩ := g (by rw [chan, attached])
  exact ⟨chan'.trans chan, path'.trans path⟩

theorem sampleHq_within : Within [.chans, .paths, .marks, .entries] s (sampleHq l t s) := by
  unfold sampleHq
  exact .ite (.ite postHq_within .refl) dropHq_within.widen

theorem sampleHq_wq : (sampleHq l t s).hsc.wq = s.hsc.wq := by
  unfold sampleHq
  split
  · split
    · exact (lateGrant_within.entries (by decide)).2
    · rfl
  · rfl

theorem sampleWq_hq : (sampleWq l t s).hsc.hq = s.hsc.hq := by
  unfold sampleWq
  split
  · split
    · exact (lateGrant_within.entries (by decide)).1
    · rfl
  · rfl

theorem opts_congr {s v : State} (copies : v.copies = s.copies) (cls : (v.ctx l).cls = (s.ctx l).cls) :
    v.opts l = s.opts l := by simp only [State.opts, copies, cls]

theorem sampleHq_opts : (sampleHq l t s).opts l = s.opts l :=
  opts_congr sampleHq_within.copies (congrArg (·.cls) (sampleHq_within.ctx l))

/-- A sample at or above its limit leaves the locker no entry (R108). -/
theorem hscSample_hq_of_high (high : (s.opts l).midpoint ≤ t) :
    (hscSample l t s).hsc.hq = s.hsc.hq.filter (· ≠ l) := by
  rw [hscSample, sampleWq_hq, sampleHq_of_high high, dropHq_hq]

theorem hscSample_wq_of_high (high : (s.opts l).load ≤ t) :
    (hscSample l t s).hsc.wq = s.hsc.wq.filter (· ≠ l) := by
  rw [hscSample, sampleWq_of_high (by rwa [sampleHq_opts]), dropWq_wq, sampleHq_wq]

theorem not_mem_filter_ne {q : List Locker} : l ∉ q.filter (· ≠ l) := by simp

/-- A sample that finds the locker qualified for an entry only at or above that queue's limit posts none. -/
theorem hscSample_of_unposted (hold : s.qualifiesHq l = true → (s.opts l).midpoint ≤ t)
    (warm : s.qualifiesWq l = true → (s.opts l).load ≤ t) :
    Within [.entries] s (hscSample l t s) ∧ EntriesShrunk s (hscSample l t s) := by
  have first : Within [.entries] s (sampleHq l t s) ∧ EntriesShrunk s (sampleHq l t s) := by
    rcases Int.lt_or_le t (s.opts l).midpoint with low | high
    · rw [sampleHq_of_low low, if_neg fun posts => Int.not_le.mpr low (hold posts.1)]
      exact ⟨.refl, .refl⟩
    · rw [sampleHq_of_high high]
      exact ⟨dropHq_within, List.filter_sublist.subset, List.Subset.refl _⟩
  obtain ⟨within_, shrunk⟩ := first
  have still : (sampleHq l t s).qualifiesWq l = s.qualifiesWq l :=
    qualifiesWq_congr (congrArg (·.life) (within_.ctx l)) (within_.latches l)
  rcases Int.lt_or_le t ((sampleHq l t s).opts l).load with low | high
  · rw [hscSample, sampleWq_of_low low, if_neg]
    · exact ⟨within_, shrunk⟩
    · rw [sampleHq_opts] at low
      exact fun posts => Int.not_le.mpr low (warm (still ▸ posts.1))
  · rw [hscSample, sampleWq_of_high high]
    exact ⟨within_.next dropWq_within, shrunk.trans ⟨List.Subset.refl _, List.filter_sublist.subset⟩⟩

theorem hscSample_of_unqualified (hold : s.qualifiesHq l = false) (warm : s.qualifiesWq l = false) :
    Within [.entries] s (hscSample l t s) ∧ EntriesShrunk s (hscSample l t s) :=
  hscSample_of_unposted (by simp [hold]) (by simp [warm])

theorem unqualified_of_quarantine (life : (s.ctx l).life = .quarantine) :
    s.qualifiesHq l = false ∧ s.qualifiesWq l = false := by simp [State.qualifiesHq, State.qualifiesWq, life]

/-! ### A valid sample at LKE (R47) -/

/-- A sample makes an ASSIGNED locker LOADABLE. -/
abbrev MakesReady (l : Locker) (t : Int) (s : State) : Prop := (s.ctx l).life = .assigned ∧ (s.opts l).load ≤ t

theorem lkeSample_of_other (other : ¬ MakesReady l t s) : lkeSample l t s = s := if_neg other

/-- The state after a locker has become LOADABLE with its record. -/
theorem lkeSample_of_ready (ready : MakesReady l t s) : lkeSample l t s
    = handRecord (recordOf s l .ready (BitVec.ofNat 16 (s.ctx l).cls.val) (BitVec.ofInt 32 t))
        (putCtx l { s.ctx l with life := .loadable, reason := .none } s) := if_pos ready

theorem lkeSample_kept : Within [.lke, .marks, .counts, .entries, .queue] s (lkeSample l t s)
    ∧ OtherLockersKept l s (lkeSample l t s) ∧ MarksKept s (lkeSample l t s)
    ∧ EntriesShrunk s (lkeSample l t s) := by
  by_cases ready : MakesReady l t s
  · rw [lkeSample_of_ready ready]
    exact ⟨putCtx_within.widen.next handRecord_within, Others.trans putCtx_others (handRecord_within.others rfl l),
      putCtx_marksKept.trans (marksKept_of_mrw (handRecord_within.marks (by decide))),
      putCtx_entriesShrunk.trans handRecord_within.entriesShrunk⟩
  · rw [lkeSample_of_other ready]
    exact ⟨.refl, Others.refl, .refl, .refl⟩

/-! ### Closed hatches behind LATCHED latches (R88, R95) -/

theorem readHatch_of_closed {h : Hatch} {tray : Bool} (latched : (s.latch l h).st = .latched) :
    readHatch l h true tray s = putLatch l h { s.latch l h with note := false } s := by
  simp only [readHatch, if_true, seenClosed, latched]

/-- A latch record that changes in its forced-open note alone. -/
theorem putLatch_noted {h : Hatch} {b : Bool} :
    Within [.ltc, .fast] s (putLatch l h { s.latch l h with note := b } s) := by
  let r : LatchRec := { s.latch l h with note := b }
  have put : Within [.ltc, .fast] s { s with ltc := s.ltc.set l.val ((s.latches l).set h r) } := by constructor <;> simp
  have same : ¬ (s.latch l h).st ≠ r.st := fun other => other rfl
  have unmarked (u : State) : markIf (decide ((s.latch l h).st ≠ r.st)) l .state u = u := by
    rw [decide_eq_false same]
    rfl
  change Within [.ltc, .fast] s (putLatch l h r s)
  unfold putLatch
  dsimp only
  rw [if_neg same, unmarked]
  exact put.next setFastPoll_within

/-- A reading of two closed hatches behind LATCHED latches. -/
theorem ltcReading_of_closed {x : Sense} (both : s.bothLatched l = true) (front : x.frontClosed = true)
    (rear : x.rearClosed = true) : Within [.ltc, .fast] s (ltcReading l x s)
      ∧ (∀ h, (ltcReading l x s).latch l h = { s.latch l h with note := false })
      ∧ OtherLockersKept l s (ltcReading l x s) := by
  obtain ⟨latchedFront, latchedRear⟩ := (State.bothLatched_iff s l).mp both
  let u : State := putLatch l .front { s.latch l .front with note := false } s
  have latch : u.latch l .rear = s.latch l .rear := putLatch_latch_ne (by decide)
  have noted : ltcReading l x s = putLatch l .rear { u.latch l .rear with note := false } u := by
    rw [ltcReading, front, rear, readHatch_of_closed latchedFront, readHatch_of_closed (by rw [latch, latchedRear])]
  rw [noted]
  refine ⟨putLatch_noted.next putLatch_noted, fun h => ?_, Others.trans putLatch_others putLatch_others⟩
  cases h with
  | front => rw [putLatch_latch_ne (by decide), show u.latch l .front = _ from putLatch_latch_self]
  | rear => rw [putLatch_latch_self, latch]

end

end Sys2Proof.Machine
end

section
/-! PROOFS. Polls judged before anything acts on them: faults, implausible and stale results, the limits (R45, R108, R116,
R150 to R154). -/

-- One theorem after the other: a thread for each would ask for more stack space than a build may have.
set_option Elab.async false

namespace Sys2Proof.Machine

/-! ### A frame poll with a parity fault (R151) -/

/-- The sampler record after a frame poll with a fault. -/
abbrev faulted (r : SamplerRec) : SamplerRec := { r with implausible := min 3 (r.implausible + 1) }

/-- The state in which the cause of a faulty frame poll is handed on. -/
def faultRecorded (l : Locker) (p : List PortWrite) (s : State) : State :=
  putSampler l (faulted (s.sampler l)) (pollRead .frame l p s)

section
variable {s : State} {l : Locker} {x : Txn} {p : List PortWrite}

theorem faultRecorded_within : Within [.mpi, .mem, .sweep, .recs] s (faultRecorded l p s) :=
  pollRead_within.widen.next putSampler_within

theorem exec_faultyPoll (port : s.mpi.port = some ⟨.poll .frame l, x⟩) (used : (s.ctx l).life ≠ .vacant) :
    exec (.framePollComplete p true) s = .next (settle
      (causeIf (3 ≤ (s.sampler l).implausible + 1) l .implausible (faultRecorded l p s))) := by
  have other : (pollRead .frame l p s).isVacant l = false := by
    have life : ((pollRead .frame l p s).ctx l).life = (s.ctx l).life := by
      rw [(pollRead_within (k := .frame) (l := l) (p := p) (s := s)).ctx l]
    simpa [State.isVacant, life] using used
  have sampler : (pollRead .frame l p s).sampler l = s.sampler l := pollRead_within.sampler l
  have result : pollResult .frame l none (pollRead .frame l p s) = causeIf (3 ≤ (s.sampler l).implausible + 1) l .implausible
      (faultRecorded l p s) := by
    unfold pollResult
    rw [if_neg (by simp [other])]
    exact (implausibleResult_frame _).trans (by rw [sampler]; rfl)
  rw [← result]
  change execFramePollComplete p true s = _
  rw [execFramePollComplete, port]
  rfl

end

theorem quarantined_count {s : State} {l : Locker} {r : Reason} (life : (s.ctx l).life ≠ .quarantine) :
    (quarantined l r s).rpw.quarantined = s.rpw.quarantined + 1 := by
  rw [quarantined, (handRecord_within.counts (by decide)).1, enterHalting_quarantined, countQuarantine, if_pos ⟨life, rfl⟩]

theorem faultyFramePolls : FaultyFramePolls := by
  intro s x l p mode port used free
  have v : Within [.mpi, .mem, .sweep, .recs] s (faultRecorded l p s) := faultRecorded_within
  have sampler : (faultRecorded l p s).sampler l = faulted (s.sampler l) := putSampler_sampler ..
  have ran := exec_faultyPoll (p := p) port used
  by_cases many : 3 ≤ (s.sampler l).implausible + 1
  · have ready : (faultRecorded l p s).mode = .operating := v.mode.trans mode
    have life : ((faultRecorded l p s).ctx l).life ≠ .quarantine := by rwa [v.ctx l]
    have taken : CauseTaken .implausible l (faultRecorded l p s) (quarantined l .implausible (faultRecorded l p s)) :=
      quarantined_taken life
    rw [causeIf_pos many, quarantineCause_of_taken ready life (.inr (by rwa [v.ctx l])), quarantine_eq] at ran
    have kept : Within (lockerParts ++ [.mpi, .mem, .sweep, .recs]) s
        (withdraw l .quarantine (quarantined l .implausible (faultRecorded l p s))) :=
      (v.widen.next taken.kept).next withdraw_within
    refine ⟨_, ran, ?_, otherLockersKept_settle ?_, clockKept_settle (kept.clockKept (by decide) (by decide)),
      fun few => absurd many (by omega), fun _ => ⟨?_, ?_⟩⟩
    · rw [settle_sampler, withdraw_sampler, quarantined, handRecord_sampler, enterHalting_sampler, sampler]
    · exact Others.trans (Others.trans (v.others rfl l) taken.others) withdraw_others
    · have entered : (quarantined l .implausible (faultRecorded l p s)).ctx l = _ := taken.ctx
      rw [settle_ctx, withdraw_ctx, entered, if_neg life, v.ctx l]
    · rw [settle_quarantined, (withdraw_within.counts (by decide)).1, quarantined_count life, (v.counts (by decide)).1]
  · rw [causeIf_neg many] at ran
    refine ⟨_, ran, (settle_sampler _ l).trans sampler, otherLockersKept_settle (v.others rfl l),
      clockKept_settle (v.clockKept (by decide) (by decide)), fun _ => ⟨lockersKept_settle (v.lockersKept (by decide) (by decide)),
        heatKept_settle (v.heatKept (by decide) (by decide) (by decide) (by decide))⟩, fun reached => absurd reached many⟩

/-! ### What acts on a judged result (R107, R108, R116, R154) -/

/-- What the judgement of a result keeps, whether or not it hands a cause on. -/
structure JudgedKept (l : Locker) (s t : State) : Prop where
  kept : Within [.lke, .marks, .counts, .entries, .chans, .paths, .queue, .recs] s t
  others : OtherLockersKept l s t
  marks : MarksKept s t
  eases : Eases s t
  heat : ∀ i : Chan, (s.chan i).st.energised = some l → ChannelsDistinct s →
    t.chan i = { s.chan i with st := .offPending l } ∧ HeatCommanded l false s t
      ∨ t.chan i = s.chan i ∧ t.paths l = s.paths l

theorem CauseTaken.judgedKept {r : Reason} {l : Locker} {s t : State} (c : CauseTaken r l s t) : JudgedKept l s t :=
  ⟨c.kept, c.others, c.marks, c.eases, c.heat⟩

theorem recorded_judgedKept {k : PollKind} {l : Locker} {x : Sense} {s : State} : JudgedKept l s (recorded k l x s) where
  kept := putSampler_within.widen
  others := putSampler_within.others rfl l
  marks := marksKept_of_mrw rfl
  eases := .of_chans fun _ => rfl
  heat := fun _ _ _ => .inr ⟨rfl, rfl⟩

/-- The state in which a sample reaches LKE. -/
def pollSampled (k : PollKind) (l : Locker) (x : Sense) (s : State) : State :=
  if plausible x.temp then hscSample l x.temp (upperStep l x.temp (pollJudged k l x s)) else pollJudged k l x s

section
variable {s v : State} {l : Locker} {k : PollKind} {x : Sense} {t : Int}

theorem upperStep_within : Within [.chans, .paths, .marks] s (upperStep l t s) := by
  unfold upperStep
  exact .ite haltLocker_within .refl

theorem upperStep_marksKept : MarksKept s (upperStep l t s) := by
  unfold upperStep
  split
  · exact haltLocker_marksKept
  · exact .refl

theorem upperStep_eases : Eases s (upperStep l t s) := by
  unfold upperStep
  split
  · exact haltLocker_eases
  · exact .of_chans fun _ => rfl

theorem pollSampled_within : Within [.chans, .paths, .marks, .entries] (pollJudged k l x s) (pollSampled k l x s) := by
  unfold pollSampled
  exact .ite (upperStep_within.widen.next hscSample_within) .refl

theorem pollSampled_marksKept : MarksKept (pollJudged k l x s) (pollSampled k l x s) := by
  unfold pollSampled
  split
  · exact upperStep_marksKept.trans hscSample_marksKept
  · exact .refl

theorem pollActed_eq : pollActed k l x s
    = if plausible x.temp then lkeSample l x.temp (pollSampled k l x s) else pollSampled k l x s := by
  unfold pollActed pollSampled
  split <;> rfl

theorem pollActed_kept : Within [.lke, .marks, .counts, .entries, .queue] (pollSampled k l x s) (pollActed k l x s)
    ∧ OtherLockersKept l (pollSampled k l x s) (pollActed k l x s) ∧ MarksKept (pollSampled k l x s) (pollActed k l x s)
    ∧ EntriesShrunk (pollSampled k l x s) (pollActed k l x s) := by
  rw [pollActed_eq]
  split
  · exact lkeSample_kept
  · exact ⟨.refl, Others.refl, .refl, .refl⟩

/-- A result that makes no locker LOADABLE ends at HSC. -/
theorem pollActed_of_unready (unready : plausibleTemp x.temp → ¬ MakesReady l x.temp (pollJudged k l x s)) :
    pollActed k l x s = pollSampled k l x s := by
  rw [pollActed_eq]
  split
  · next valid =>
    have ctx : (pollSampled k l x s).ctx l = (pollJudged k l x s).ctx l := pollSampled_within.ctx l
    refine lkeSample_of_other ?_
    rw [MakesReady, ctx, opts_congr pollSampled_within.copies (congrArg (·.cls) ctx)]
    exact unready (plausible_iff.mp valid)
  · rfl

/-- A result that finds the locker QUARANTINE, or makes it so, takes its entries and heat away only. -/
theorem pollSampled_of_quarantine (life : ((pollJudged k l x s).ctx l).life = .quarantine) :
    EntriesShrunk (pollJudged k l x s) (pollSampled k l x s) ∧ Eases (pollJudged k l x s) (pollSampled k l x s) := by
  unfold pollSampled
  split
  · have after : Within [.chans, .paths, .marks] _ (upperStep l x.temp (pollJudged k l x s)) := upperStep_within
    obtain ⟨hold, warm⟩ := unqualified_of_quarantine (s := upperStep l x.temp (pollJudged k l x s)) (l := l)
      (by rw [after.ctx l, life])
    obtain ⟨within_, shrunk⟩ := hscSample_of_unqualified (t := x.temp) hold warm
    exact ⟨after.entriesShrunk.trans shrunk, upperStep_eases.trans (.of_chans fun i => within_.chan i)⟩
  · exact ⟨.refl, .of_chans fun _ => rfl⟩

/-- At the upper limit the locker's channel is turned off, by the limit or by a cause before it (R154). -/
theorem pollSampled_upper (valid : plausibleTemp x.temp) (upper : (s.opts l).upper ≤ x.temp)
    (judged : JudgedKept l s (pollJudged k l x s)) (cls : ((pollJudged k l x s).ctx l).cls = (s.ctx l).cls)
    (distinct : ChannelsDistinct s) {i : Chan} (on : (s.chan i).st.energised = some l) :
    (pollSampled k l x s).chan i = { s.chan i with st := .offPending l }
      ∧ HeatCommanded l false s (pollSampled k l x s) := by
  let j : State := pollJudged k l x s
  let u : State := haltLocker l j
  have apart : ChannelsDistinct j := judged.eases.channelsDistinct distinct
  have halted : u.chan i = { s.chan i with st := .offPending l } ∧ HeatCommanded l false s u := by
    rcases judged.heat i on distinct with ⟨chan, commanded⟩ | ⟨chan, path⟩
    · have still : turnOff i j = j := turnOff_of_idle (by rw [show j.chan i = _ from chan]; rfl)
      have same : u = j := by
        rw [← still]
        exact haltLocker_of_attached apart (by rw [show j.chan i = _ from chan]; rfl)
      rw [same]
      exact ⟨chan, commanded⟩
    · have energised : (j.chan i).st.energised = some l := by rw [show j.chan i = _ from chan, on]
      obtain ⟨off, writing, seq, mark⟩ := turnOff_commanded energised
      rw [show j.paths l = _ from path] at seq
      have same : u = turnOff i j := haltLocker_of_energised apart energised
      rw [same]
      exact ⟨by rw [turnOff_chan_self energised, show j.chan i = _ from chan], off, writing, seq, mark⟩
  have limit : (j.opts l).upper ≤ x.temp := by rwa [opts_congr judged.kept.copies cls]
  have sampled : pollSampled k l x s = hscSample l x.temp u := by
    rw [pollSampled, if_pos (plausible_iff.mpr valid), upperStep, if_pos limit]
  have attached : (u.chan i).st.attached = some l := by rw [halted.1]; rfl
  obtain ⟨chan, path⟩ := hscSample_attached (l := l) (t := x.temp) attached
  obtain ⟨off, writing, seq, mark⟩ := halted.2
  rw [sampled]
  refine ⟨chan.trans halted.1, ?_, ?_, ?_, hscSample_marksKept l .heat mark⟩
  · rw [path, off]
  · rw [path, writing]
  · rw [path, seq]

/-- At or above its limits a valid result leaves the locker no entry (R108). -/
theorem pollSampled_entries (valid : plausibleTemp x.temp) (opts : (pollJudged k l x s).opts l = s.opts l) :
    ((s.opts l).midpoint ≤ x.temp → l ∉ (pollSampled k l x s).hsc.hq)
      ∧ ((s.opts l).load ≤ x.temp → l ∉ (pollSampled k l x s).hsc.wq) := by
  let u : State := upperStep l x.temp (pollJudged k l x s)
  have same : u.opts l = s.opts l := by
    have after : Within [.chans, .paths, .marks] (pollJudged k l x s) u := upperStep_within
    rw [opts_congr after.copies (congrArg (·.cls) (after.ctx l)), opts]
  rw [pollSampled, if_pos (plausible_iff.mpr valid)]
  refine ⟨fun high => ?_, fun high => ?_⟩
  · rw [hscSample_hq_of_high (by rwa [show (upperStep l x.temp (pollJudged k l x s)).opts l = _ from same])]
    exact not_mem_filter_ne
  · rw [hscSample_wq_of_high (by rwa [show (upperStep l x.temp (pollJudged k l x s)).opts l = _ from same])]
    exact not_mem_filter_ne

end

/-! ### Polls that return fields (R150 to R154) -/

/-- The judgement of a result with fields, with or without a cause. -/
theorem pollJudged_kept {s : State} {l : Locker} {k : PollKind} {x : Sense} (mode : s.mode = .operating)
    (used : (s.ctx l).life ≠ .vacant) (still : NoRelease l s) : JudgedKept l s (pollJudged k l x s)
      ∧ (pollJudged k l x s).sampler l = judgedSampler k s.copies.staleLimit (s.sampler l) x
      ∧ ((pollJudged k l x s).ctx l).cls = (s.ctx l).cls := by
  cases cause : pollCause k s.copies (s.sampler l) x with
  | none =>
    rw [pollJudged_of_none cause]
    exact ⟨recorded_judgedKept, putSampler_sampler .., rfl⟩
  | some r =>
    obtain ⟨taken, sampler⟩ := pollJudged_of_cause mode used still cause
    have by_ : (pollJudged k l x s).ctx l = _ := taken.ctx
    refine ⟨taken.judgedKept, sampler, ?_⟩
    rw [by_]
    split <;> rfl

/-- The state after a poll's result. -/
abbrev pollDone (k : PollKind) (l : Locker) (x : Sense) (p : List PortWrite) (s : State) : State :=
  ltcReading l x (pollActed k l x (pollRead k l p s))

theorem pollsJudged : PollsJudged := by
  intro s x l k p w y poll used both front rear room distinct
  let v : State := pollRead k l p s
  let j : State := pollJudged k l y v
  let a : State := pollActed k l y v
  have read : Within [.mpi, .mem, .sweep] s v := pollRead_within
  have mode : v.mode = .operating := read.mode.trans poll.1
  have life : (v.ctx l).life ≠ .vacant := by rwa [read.ctx l]
  have still : NoRelease l v := .of_latches (read.latches l) (.of_bothLatched both)
  have apart : ChannelsDistinct v := by simpa only [ChannelsDistinct, read.chan] using distinct
  obtain ⟨judged, sampler, cls⟩ := pollJudged_kept (k := k) (x := y) mode life still
  have sampled : Within [.chans, .paths, .marks, .entries] j (pollSampled k l y v) := pollSampled_within
  obtain ⟨acted, actedOthers, actedMarks, actedShrunk⟩ := pollActed_kept (s := v) (l := l) (k := k) (x := y)
  have before : Within [.lke, .marks, .counts, .entries, .chans, .paths, .queue, .recs, .mpi, .mem, .sweep] s a :=
    ((read.widen.next judged.kept).next sampled).next acted
  obtain ⟨noted, -, notedOthers⟩ := ltcReading_of_closed ((before.bothLatched l).trans both) front rear
  have whole : Within (lockerParts ++ [.mpi, .mem, .sweep]) s (pollDone k l y p s) := before.widen.next noted
  have toReading : Within [.chans, .paths, .marks, .entries, .lke, .counts, .queue, .ltc, .fast] j (pollDone k l y p s) :=
    (sampled.widen.next acted).next noted
  rw [read.sampler l, read.copies] at sampler
  have shrunk : EntriesShrunk (pollSampled k l y v) (pollDone k l y p s) := actedShrunk.trans noted.entriesShrunk
  have marks : MarksKept (pollSampled k l y v) (pollDone k l y p s) := 
    actedMarks.trans (marksKept_of_mrw (noted.marks (by decide)))
  have chan (i : Chan) : (settle (pollDone k l y p s)).chan i = (pollSampled k l y v).chan i := by
    rw [settle_chan, noted.chan i, acted.chan i]
  have path : (settle (pollDone k l y p s)).paths l = (pollSampled k l y v).paths l := by
    rw [settle_paths, noted.pathsAt l, acted.pathsAt l]
  refine ⟨_, exec_poll poll used, ?_, fun r cause => ?_, fun none unready => ?_, fun valid upper => ⟨fun i on => ?_, ?_⟩,
    otherLockersKept_settle ?_, clockKept_settle (whole.clockKept (by decide) (by decide))⟩
  · rw [settle_sampler, toReading.sampler l, sampler]
  · have causeV : pollCause k v.copies (v.sampler l) y = some r := by rwa [read.copies, read.sampler l]
    obtain ⟨taken, -⟩ := pollJudged_of_cause mode life still causeV
    have quarantine : (j.ctx l).life = .quarantine := taken.quarantine
    have unready : a = pollSampled k l y v := pollActed_of_unready fun _ ready =>
      nomatch ready.1.symm.trans quarantine
    have after : Within [.chans, .paths, .marks, .entries, .ltc, .fast] j (pollDone k l y p s) := by
      have noted' : Within [.ltc, .fast] a (pollDone k l y p s) := noted
      rw [unready] at noted'
      exact sampled.widen.next noted'
    obtain ⟨by_, handed⟩ := taken.after (read.ctx l) (read.tmb (by decide)) read.unhanded
    obtain ⟨fewer, eases⟩ := pollSampled_of_quarantine (k := k) (x := y) quarantine
    refine ⟨?_, handedAll_settle ?_ (whole.ringFull.trans room), fun free => ⟨?_, ?_, fun i on => ?_⟩⟩
    · rw [QuarantinedBy, settle_ctx, after.ctx l]
      exact by_
    · simpa using handedAll_trans handed after.unhanded
    · rw [settle_hsc]
      exact fun listed => (taken.entries (by rwa [read.ctx l])).1 (fewer.1 (shrunk.1 listed))
    · rw [settle_hsc]
      exact fun listed => (taken.entries (by rwa [read.ctx l])).2 (fewer.2 (shrunk.2 listed))
    · rw [chan] at on
      exact taken.off apart (by rwa [read.ctx l]) i (eases.energised on)
  · have noneV : pollCause k v.copies (v.sampler l) y = .none := by rwa [read.copies, read.sampler l]
    have record : j = recorded k l y v := pollJudged_of_none noneV
    have opts : j.opts l = s.opts l := by rw [record]; exact opts_congr read.copies (congrArg (·.cls) (read.ctx l))
    have ctx : j.ctx l = s.ctx l := by rw [record, putSampler_ctx, read.ctx l]
    have same : a = pollSampled k l y v := pollActed_of_unready fun valid ready => by
      rw [MakesReady, show (pollJudged k l y v).ctx l = _ from ctx, show (pollJudged k l y v).opts l = _ from opts] at ready
      rcases unready with other | implausible | low
      · exact other ready.1
      · exact implausible valid
      · exact absurd ready.2 (Int.not_le.mpr low)
    have small : Within [.mpi, .mem, .sweep, .recs, .chans, .paths, .marks, .entries, .ltc, .fast] s (pollDone k l y p s) := by
      have noted' : Within [.ltc, .fast] a (pollDone k l y p s) := noted
      have put : Within [.recs] v j := by rw [record]; exact putSampler_within
      rw [same] at noted'
      exact ((read.widen.next put).next sampled).next noted'
    exact ⟨by rw [settle_ctx, small.ctx l], queue_of_unhanded (handedAll_settle small.unhanded (whole.ringFull.trans room))⟩
  · have on' : (v.chan i).st.energised = some l := by rw [read.chan i, on]
    have limit : (v.opts l).upper ≤ y.temp := by rwa [opts_congr read.copies (congrArg (·.cls) (read.ctx l))]
    obtain ⟨off, cold, writing, seq, mark⟩ := pollSampled_upper valid limit judged cls apart on'
    refine ⟨by rw [chan, off, read.chan i], ?_, ?_, ?_, ?_⟩
    · rw [path, cold]
    · rw [path, writing]
    · rw [path, seq, read.pathsAt l]
    · rw [settle_marks]
      exact marks l .heat mark
  · have opts : j.opts l = v.opts l := opts_congr judged.kept.copies cls
    have optsV : v.opts l = s.opts l := opts_congr read.copies (congrArg (·.cls) (read.ctx l))
    obtain ⟨hold, warm⟩ := pollSampled_entries valid opts
    rw [optsV] at hold warm
    rw [settle_hsc]
    exact ⟨fun high listed => hold high (shrunk.1 listed), fun high listed => warm high (shrunk.2 listed)⟩
  · exact Others.trans (Others.trans (Others.trans (Others.trans (read.others rfl l) judged.others) (sampled.others rfl l))
      actedOthers) notedOthers

/-- Settles O47: polls with a fault, and polls with fields. -/
theorem implausiblePollsQuarantine : Obligations.ImplausiblePollsQuarantine := ⟨faultyFramePolls, pollsJudged⟩

end Sys2Proof.Machine
end

section
/-! PROOFS. Valid samples: READY, the entries posted and taken out, and the late grants that follow (R47, R107, R108, R114). -/

-- One theorem after the other: a thread for each would ask for more stack space than a build may have.
set_option Elab.async false

namespace Sys2Proof.Machine

/-! ### A valid sample, up to what it does (R150 to R155) -/

/-- The state in which a valid frame sample reaches HSC: its record stands. -/
def sampleRead (l : Locker) (x : Sense) (p : List PortWrite) (s : State) : State :=
  recorded .frame l x (pollRead .frame l p s)

section
variable {s : State} {l : Locker} {temp : Int}

theorem sampleRead_within {x : Sense} {p : List PortWrite} : Within [.mpi, .mem, .sweep, .recs] s (sampleRead l x p s) :=
  pollRead_within.widen.next putSampler_within

/-- What a valid sample does is what HSC and LKE make of it; the readings of closed hatches change notes alone. -/
theorem validSample_of {after : State → Prop} (used : (s.ctx l).life ≠ .vacant)
    (ends : ∀ r t, s.mode = .operating → Within [.mpi, .mem, .sweep, .recs] s r → s.bothLatched l = true →
      Within [.ltc, .fast] (lkeSample l temp (hscSample l temp r)) t → t.ringFull = false → after (settle t)) :
    ValidSample l temp s after := by
  intro x p w poll reading both room low high upper cool fresh front rear
  let y : Sense := senseOf w
  let v : State := pollRead .frame l p s
  let r : State := sampleRead l y p s
  have valid : plausibleTemp y.temp := by
    rw [← reading]
    exact ⟨low, high⟩
  have read : Within [.mpi, .mem, .sweep] s v := pollRead_within
  have sampler : v.sampler l = s.sampler l := read.sampler l
  have none : pollCause .frame v.copies (v.sampler l) y = none := by
    have calm : ¬ (plausibleTemp y.temp ∧ 2 * (s.copies.overtempC : Int) ≤ y.temp) := fun hot =>
      Int.not_le.mpr (reading ▸ cool) hot.2
    rw [read.copies, sampler, pollCause, if_neg fun many => many.2.1 valid, if_neg fun stale => fresh stale.2.1, if_neg calm]
  have record : pollJudged .frame l y v = r := pollJudged_of_none none
  have kept : Within [.mpi, .mem, .sweep, .recs] s r := sampleRead_within
  have acted : pollActed .frame l y v = lkeSample l temp (hscSample l temp r) := by
    have below : ¬ (r.opts l).upper ≤ y.temp := by
      rw [opts_congr kept.copies (congrArg (·.cls) (kept.ctx l)), ← reading]
      exact Int.not_le.mpr upper
    rw [pollActed, if_pos (plausible_iff.mpr valid), record, upperStep, if_neg below, sampleStep, ← reading]
  obtain ⟨lke, lkeOthers, -, -⟩ := lkeSample_kept (l := l) (t := temp) (s := hscSample l temp r)
  have hsc : Within [.chans, .paths, .marks, .entries] r (hscSample l temp r) := hscSample_within
  have before : Within [.mpi, .mem, .sweep, .recs, .chans, .paths, .marks, .entries, .lke, .counts, .queue] s
      (pollActed .frame l y v) := by
    rw [acted]
    exact (kept.widen.next hsc).next lke
  obtain ⟨noted, latch, notedOthers⟩ := ltcReading_of_closed ((before.bothLatched l).trans both) front rear
  have whole : Within (lockerParts ++ [.mpi, .mem, .sweep]) s (pollDone .frame l y p s) := before.widen.next noted
  refine ⟨_, exec_poll poll used, ?_, otherLockersKept_settle ?_, ?_, ends r _ poll.1 kept both (acted ▸ noted)
    (whole.ringFull.trans room)⟩
  · rw [settle_sampler, noted.sampler l, acted, lke.sampler l, hsc.sampler l]
    refine (putSampler_sampler ..).trans ?_
    have stands : ¬ (s.sampler l).lastSeq = some y.seq := fresh
    dsimp only [judgedSampler]
    rw [if_pos valid, if_pos valid, sampler, if_neg stands, reading]
  · refine Others.trans (Others.trans (kept.others rfl l) ?_) notedOthers
    rw [acted]
    exact Others.trans (hsc.others rfl l) lkeOthers
  · obtain ⟨latchedFront, latchedRear⟩ := (State.bothLatched_iff s l).mp both
    have latched (h : Hatch) : ((pollDone .frame l y p s).latch l h).st = (s.latch l h).st := by
      rw [latch h, before.latch l h]
    rw [settle_bothLatched, both]
    exact ((State.bothLatched_iff _ l).mpr ⟨(latched .front).trans latchedFront, (latched .rear).trans latchedRear⟩).symm

end

/-! ### READY (R47) -/

section
variable {s r t : State} {l : Locker} {temp : Int}

theorem qualifiesHq_of_life (other : (s.ctx l).life ≠ .holding) : s.qualifiesHq l = false := by
  simp [State.qualifiesHq, other]

theorem qualifiesWq_of_life (other : (s.ctx l).life ≠ .assigned ∧ (s.ctx l).life ≠ .loadable) :
    s.qualifiesWq l = false := by simp [State.qualifiesWq, other]

theorem sampleRead_opts (kept : Within [.mpi, .mem, .sweep, .recs] s r) : r.opts l = s.opts l :=
  opts_congr kept.copies (congrArg (·.cls) (kept.ctx l))

end

theorem sampleMakesLoadable : SampleMakesLoadable := by
  intro s l temp life high
  refine validSample_of (by rw [life]; decide) fun r t _ kept _ noted room => ?_
  have ctx : r.ctx l = s.ctx l := kept.ctx l
  have limit : (r.opts l).load ≤ temp := by rwa [sampleRead_opts kept]
  obtain ⟨dropped, -⟩ := hscSample_of_unposted (l := l) (t := temp) (s := r)
    (by simp [qualifiesHq_of_life (s := r) (l := l) (by rw [ctx, life]; decide)]) fun _ => limit
  have ctx' : (hscSample l temp r).ctx l = s.ctx l := (dropped.ctx l).trans ctx
  have ready : MakesReady l temp (hscSample l temp r) :=
    ⟨by rw [ctx', life], by rwa [opts_congr dropped.copies (congrArg (·.cls) (dropped.ctx l))]⟩
  rw [lkeSample_of_ready ready, ctx'] at noted
  let c : Context := { s.ctx l with life := .loadable, reason := .none }
  have free : ((hscSample l temp r).ctx l).life ≠ .quarantine := by rw [ctx', life]; decide
  have put : Within [.lke, .marks, .entries] (hscSample l temp r) (putCtx l c (hscSample l temp r)) :=
    putCtx_within_of_free free nofun
  have changed : ((hscSample l temp r).ctx l).life ≠ c.life := by rw [ctx', life]; exact nofun
  have shrunk : EntriesShrunk (putCtx l c (hscSample l temp r)) t :=
    handRecord_within.entriesShrunk.trans noted.entriesShrunk
  have small : Within [.mpi, .mem, .sweep, .recs, .entries, .lke, .marks, .queue, .ltc, .fast] s t :=
    (((kept.widen.next dropped).next put).next handRecord_within).next noted
  have unhanded : HandedAll [] s (putCtx l c (hscSample l temp r)) :=
    ((kept.widen.next dropped).next put : Within [.mpi, .mem, .sweep, .recs, .entries, .lke, .marks] s _).unhanded
  have tmb : (hscSample l temp r).tmb = s.tmb := (dropped.tmb (by decide)).trans (kept.tmb (by decide))
  have handed := handedAll_trans (handedAll_trans unhanded (handRecord_handed _ _)) noted.unhanded
  rw [recordOf, ctx', tmb] at handed
  refine ⟨?_, fun listed => ?_, fun listed => ?_, ?_, ?_, ?_⟩
  · rw [settle_ctx, noted.ctx l, handRecord_ctx, putCtx_ctx_self]
  · rw [settle_hsc] at listed
    have before := putCtx_entriesShrunk.2 (shrunk.2 listed)
    rw [hscSample_wq_of_high limit] at before
    exact not_mem_filter_ne before
  · rw [settle_hsc] at listed
    exact putCtx_hq_dropped changed nofun (shrunk.1 listed)
  · rw [settle_hsc, (small.chans (by decide)).1]
  · rw [settle_ahu_paths, small.paths (by decide)]
  · exact handedAll_settle handed room

/-! ### Entries taken out (R108) -/

theorem sampleRemoves : SampleRemoves := by
  intro s l temp
  refine ⟨fun life high => validSample_of (by rw [life]; decide) fun r t _ kept _ noted _ => ?_,
    fun life high => validSample_of (by rw [life]; decide) fun r t _ kept _ noted _ => ?_⟩
  · have ctx : (r.ctx l).life = .holding := by rw [kept.ctx l, life]
    have limit : (r.opts l).midpoint ≤ temp := by rwa [sampleRead_opts kept]
    obtain ⟨dropped, -⟩ := hscSample_of_unposted (l := l) (t := temp) (s := r) (fun _ => limit)
      (by simp [qualifiesWq_of_life (s := r) (l := l) (by rw [ctx]; decide)])
    rw [lkeSample_of_other fun ready => by rw [MakesReady, dropped.ctx l, ctx] at ready; cases ready.1] at noted
    have small : Within [.mpi, .mem, .sweep, .recs, .entries, .ltc, .fast] s t := (kept.widen.next dropped).next noted
    refine ⟨by rw [settle_ctx, small.ctx l], ?_, by rw [settle_hsc, (small.chans (by decide)).1],
      by rw [settle_ahu_paths, small.paths (by decide)]⟩
    rw [settle_hsc, (noted.entries (by decide)).1, hscSample_hq_of_high limit, (kept.entries (by decide)).1]
  · have ctx : (r.ctx l).life = .loadable := by rw [kept.ctx l, life]
    have limit : (r.opts l).load ≤ temp := by rwa [sampleRead_opts kept]
    obtain ⟨dropped, -⟩ := hscSample_of_unposted (l := l) (t := temp) (s := r)
      (by simp [qualifiesHq_of_life (s := r) (l := l) (by rw [ctx]; decide)]) fun _ => limit
    rw [lkeSample_of_other fun ready => by rw [MakesReady, dropped.ctx l, ctx] at ready; cases ready.1] at noted
    have small : Within [.mpi, .mem, .sweep, .recs, .entries, .ltc, .fast] s t := (kept.widen.next dropped).next noted
    refine ⟨by rw [settle_ctx, small.ctx l], ?_, by rw [settle_hsc, (small.chans (by decide)).1],
      by rw [settle_ahu_paths, small.paths (by decide)]⟩
    rw [settle_hsc, (noted.entries (by decide)).2, hscSample_wq_of_high limit, (kept.entries (by decide)).2]

/-! ### Entries posted (R107, R114) -/

section
variable {s r t : State} {l : Locker} {temp : Int}

theorem dropHq_of_absent (absent : l ∉ s.hsc.hq) : dropHq l s = s := by rw [dropHq, filter_ne_of_absent absent]

theorem dropWq_of_absent (absent : l ∉ s.hsc.wq) : dropWq l s = s := by rw [dropWq, filter_ne_of_absent absent]

/-- A sample leaves a hold queue that the locker is neither in nor qualifies for. -/
theorem sampleHq_of_apart (unqualified : s.qualifiesHq l = false) (absent : l ∉ s.hsc.hq) : sampleHq l temp s = s := by
  rcases Int.lt_or_le temp (s.opts l).midpoint with low | high
  · rw [sampleHq_of_low low, if_neg (by simp [unqualified])]
  · rw [sampleHq_of_high high, dropHq_of_absent absent]

theorem sampleWq_of_apart (unqualified : s.qualifiesWq l = false) (absent : l ∉ s.hsc.wq) : sampleWq l temp s = s := by
  rcases Int.lt_or_le temp (s.opts l).load with low | high
  · rw [sampleWq_of_low low, if_neg (by simp [unqualified])]
  · rw [sampleWq_of_high high, dropWq_of_absent absent]

theorem qualifiesHq_iff : s.qualifiesHq l = true ↔ (s.ctx l).life = .holding ∧ s.bothLatched l = true := by
  simp [State.qualifiesHq]

theorem qualifiesWq_iff : s.qualifiesWq l = true
    ↔ ((s.ctx l).life = .assigned ∨ (s.ctx l).life = .loadable) ∧ s.bothLatched l = true := by
  simp [State.qualifiesWq]

/-- A HOLDING locker without an entry, below its midpoint, is posted in the hold queue. -/
theorem hscSample_posts_hq (life : (s.ctx l).life = .holding) (both : s.bothLatched l = true)
    (low : temp < (s.opts l).midpoint) (absent : l ∉ s.ranking) : hscSample l temp s = postHq l s := by
  have posted : Within [.chans, .paths, .marks, .entries] s (postHq l s) := postHq_within
  have wq : (postHq l s).hsc.wq = s.hsc.wq := (lateGrant_within.entries (by decide)).2
  rw [hscSample, sampleHq_of_low low, if_pos ⟨qualifiesHq_iff.mpr ⟨life, both⟩, absent⟩]
  refine sampleWq_of_apart (qualifiesWq_of_life ?_) ?_
  · rw [posted.ctx l, life]
    decide
  · rw [wq]
    exact fun listed => absent (List.mem_append_right _ listed)

/-- A HOLDING locker below its midpoint keeps its entry and its place. -/
theorem hscSample_keeps_hq (life : (s.ctx l).life = .holding) (low : temp < (s.opts l).midpoint) (listed : l ∈ s.hsc.hq)
    (distinct : QueuesDistinct s) : hscSample l temp s = s := by
  have absent : l ∉ s.hsc.wq := fun again => (List.nodup_append.mp distinct).2.2 l listed l again rfl
  rw [hscSample, sampleHq_of_low low, if_neg fun posts => posts.2 (List.mem_append_left _ listed)]
  exact sampleWq_of_apart (qualifiesWq_of_life (by rw [life]; decide)) absent

/-- A warming locker without an entry, below the load threshold, is posted in the warm-up queue. -/
theorem hscSample_posts_wq (life : (s.ctx l).life = .assigned ∨ (s.ctx l).life = .loadable)
    (both : s.bothLatched l = true) (low : temp < (s.opts l).load) (absent : l ∉ s.ranking) :
    hscSample l temp s = postWq l s := by
  have other : (s.ctx l).life ≠ .holding := by rcases life with life | life <;> rw [life] <;> decide
  have noHq : l ∉ s.hsc.hq := fun listed => absent (List.mem_append_left _ listed)
  rw [hscSample, sampleHq_of_apart (qualifiesHq_of_life other) noHq, sampleWq_of_low low,
    if_pos ⟨qualifiesWq_iff.mpr ⟨life, both⟩, absent⟩]

theorem hscSample_keeps_wq (life : (s.ctx l).life = .assigned ∨ (s.ctx l).life = .loadable)
    (low : temp < (s.opts l).load) (listed : l ∈ s.hsc.wq) (distinct : QueuesDistinct s) : hscSample l temp s = s := by
  have other : (s.ctx l).life ≠ .holding := by rcases life with life | life <;> rw [life] <;> decide
  have noHq : l ∉ s.hsc.hq := fun again => (List.nodup_append.mp distinct).2.2 l again l listed rfl
  rw [hscSample, sampleHq_of_apart (qualifiesHq_of_life other) noHq, sampleWq_of_low low,
    if_neg fun posts => posts.2 (List.mem_append_right _ listed)]

theorem posted_hq_nodup (distinct : QueuesDistinct s) (absent : l ∉ s.ranking) :
    ((s.hsc.hq ++ [l]) ++ s.hsc.wq).Nodup := by
  have moved : (l :: s.ranking).Perm ((s.hsc.hq ++ [l]) ++ s.hsc.wq) := by
    rw [List.append_assoc]
    exact List.perm_middle.symm
  exact moved.nodup (List.nodup_cons.mpr ⟨absent, distinct⟩)

theorem posted_wq_nodup (distinct : QueuesDistinct s) (absent : l ∉ s.ranking) :
    (s.hsc.hq ++ (s.hsc.wq ++ [l])).Nodup := by
  have moved : (l :: s.ranking).Perm (s.ranking ++ [l]) := (List.perm_append_singleton l s.ranking).symm
  rw [← List.append_assoc]
  exact moved.nodup (List.nodup_cons.mpr ⟨absent, distinct⟩)

/-- A late grant after a posting, seen from the state before the poll. -/
theorem posted_lateGranted {h w : List Locker} (mode : s.mode = .operating)
    (kept : Within [.mpi, .mem, .sweep, .recs] s r) (distinct : (h ++ w).Nodup)
    (noted : Within [.ltc, .fast] (lateGrant { r with hsc := { r.hsc with hq := h, wq := w } }) t) :
    LateGranted { s with hsc := { s.hsc with hq := h, wq := w } } (settle t) := by
  let u : State := { r with hsc := { r.hsc with hq := h, wq := w } }
  have ready : u.mode = .operating := kept.mode.trans mode
  have hsc : r.hsc = s.hsc := kept.hsc_eq (by decide) (by decide) (by decide)
  obtain ⟨granted, -⟩ := lateGrant_spec (s := u) ready distinct
  refine LateGranted.congr (s' := u) (by simp only [u, hsc]) (fun k => ?_) kept.copies ⟨?_, ?_, ?_⟩ granted
  · exact congrArg (·.heat.seq) (kept.pathsAt k)
  · rw [settle_hsc, noted.hsc_eq (by decide) (by decide) (by decide)]
  · rw [settle_ahu_paths, noted.paths (by decide)]
  · rw [settle_mrw_marks, noted.marks (by decide)]

/-- A sample that HSC has nothing to do for. -/
theorem sampled_kept (kept : Within [.mpi, .mem, .sweep, .recs] s r) (noted : Within [.ltc, .fast] r t) :
    (settle t).hsc = s.hsc ∧ (settle t).ahu.paths = s.ahu.paths := by
  have small : Within [.mpi, .mem, .sweep, .recs, .ltc, .fast] s t := kept.widen.next noted
  exact ⟨by rw [settle_hsc, small.hsc_eq (by decide) (by decide) (by decide)],
    by rw [settle_ahu_paths, small.paths (by decide)]⟩

end

theorem samplePosts : SamplePosts := by
  intro s l temp _ distinct
  refine ⟨fun life low => validSample_of (by rw [life]; decide) fun r t mode kept both noted _ => ?_,
    fun life low => validSample_of (by rcases life with e | e <;> rw [e] <;> decide) fun r t mode kept both noted _ => ?_⟩
  all_goals
    have hsc : r.hsc = s.hsc := kept.hsc_eq (by decide) (by decide) (by decide)
    have ranking : r.ranking = s.ranking := by rw [State.ranking, hsc]; rfl
    have both' : r.bothLatched l = true := (kept.bothLatched l).trans both
    have opts : r.opts l = s.opts l := sampleRead_opts kept
    have sampled : Within [.chans, .paths, .marks, .entries] r (hscSample l temp r) := hscSample_within
  · have ctx : (r.ctx l).life = .holding := by rw [kept.ctx l, life]
    rw [lkeSample_of_other fun ready => by rw [MakesReady, sampled.ctx l, ctx] at ready; cases ready.1] at noted
    refine ⟨by rw [settle_ctx, noted.ctx l, sampled.ctx l, kept.ctx l], fun absent => ?_, fun listed => ?_⟩
    · rw [hscSample_posts_hq ctx both' (by rwa [opts]) (by rwa [ranking])] at noted
      refine posted_lateGranted (h := s.hsc.hq ++ [l]) (w := s.hsc.wq) mode kept (posted_hq_nodup distinct absent) ?_
      rw [postHq, hsc] at noted
      rw [hsc]
      exact noted
    · rw [hscSample_keeps_hq ctx (by rwa [opts]) (by rwa [hsc]) (by rwa [QueuesDistinct, ranking])] at noted
      exact sampled_kept kept noted
  · have ctx : (r.ctx l).life = .assigned ∨ (r.ctx l).life = .loadable := by rwa [kept.ctx l]
    have unready : ¬ MakesReady l temp (hscSample l temp r) := fun ready => by
      rw [MakesReady, opts_congr sampled.copies (congrArg (·.cls) (sampled.ctx l)), opts] at ready
      exact absurd ready.2 (Int.not_le.mpr low)
    rw [lkeSample_of_other unready] at noted
    refine ⟨by rw [settle_ctx, noted.ctx l, sampled.ctx l, kept.ctx l], fun absent => ?_, fun listed => ?_⟩
    · rw [hscSample_posts_wq ctx both' (by rwa [opts]) (by rwa [ranking])] at noted
      refine posted_lateGranted (h := s.hsc.hq) (w := s.hsc.wq ++ [l]) mode kept (posted_wq_nodup distinct absent) ?_
      rw [postWq, hsc] at noted
      rw [hsc]
      exact noted
    · rw [hscSample_keeps_wq ctx (by rwa [opts]) (by rwa [hsc]) (by rwa [QueuesDistinct, ranking])] at noted
      exact sampled_kept kept noted

/-- Settles O48: READY, posting and removal, by the locker's state and the limits. -/
theorem sampleAtThresholdMakesLoadable : Obligations.SampleAtThresholdMakesLoadable :=
  ⟨sampleMakesLoadable, samplePosts, sampleRemoves⟩

end Sys2Proof.Machine
end

section
/-! PROOFS. A poll that follows one hatch: openings, closings and forced hatches (R45, R54, R88 to R90, R93 to R95, R97). -/

-- One theorem after the other: a thread for each would ask for more stack space than a build may have.
set_option Elab.async false

namespace Sys2Proof.Machine

/-! ### Results without a cause, up to their reading (R47, R150) -/

section
variable {s : State} {l : Locker} {k : PollKind} {x : Sense}

theorem lkeSample_ctx {t : Int} : (lkeSample l t s).ctx l = s.ctx l
    ∨ (s.ctx l).life = .assigned ∧ (lkeSample l t s).ctx l = { s.ctx l with life := .loadable, reason := .none } := by
  by_cases ready : MakesReady l t s
  · rw [lkeSample_of_ready ready, handRecord_ctx, putCtx_ctx_self]
    exact .inr ⟨ready.1, rfl⟩
  · exact .inl (by rw [lkeSample_of_other ready])

variable (none : pollCause k s.copies (s.sampler l) x = none)
include none

/-- Up to LKE a result without a cause changes neither contexts nor latches. -/
theorem pollSampled_of_none : Within [.recs, .chans, .paths, .marks, .entries] s (pollSampled k l x s) := by
  have put : Within [.recs] s (pollJudged k l x s) := by
    rw [pollJudged_of_none none]
    exact putSampler_within
  exact put.widen.next pollSampled_within

/-- A result without a cause changes a context only by READY. -/
theorem pollActed_ctx_of_none : (pollActed k l x s).ctx l = s.ctx l
    ∨ (s.ctx l).life = .assigned
      ∧ (pollActed k l x s).ctx l = { s.ctx l with life := .loadable, reason := .none } := by
  rw [pollActed_eq, ← (pollSampled_of_none none).ctx l]
  split
  · exact lkeSample_ctx
  · exact .inl rfl

theorem pollActed_of_calm
    (calm : (s.ctx l).life ≠ .assigned ∨ 300 < x.temp ∨ x.temp < (s.opts l).load) :
    pollActed k l x s = pollSampled k l x s := by
  refine pollActed_of_unready fun valid ready => ?_
  rw [pollJudged_of_none none] at ready
  have limit : (s.opts l).load ≤ x.temp := ready.2
  rcases calm with other | hot | low
  · exact other ready.1
  · exact absurd valid.2 (Int.not_le.mpr hot)
  · exact absurd limit (Int.not_le.mpr low)

theorem pollActed_latchPaths : LatchPathsKept s (pollActed k l x s) := by
  obtain ⟨acted, -⟩ := pollActed_kept (s := s) (l := l) (k := k) (x := x)
  refine LatchPathsKept.trans ?_ (.of_paths (acted.paths (by decide)))
  have judged : LatchPathsKept s (pollJudged k l x s) := by
    rw [pollJudged_of_none none]
    exact fun _ => rfl
  unfold pollSampled
  split
  · refine judged.trans (LatchPathsKept.trans ?_ hscSample_latchPathsKept)
    unfold upperStep
    split
    · exact haltLocker_latchPathsKept
    · exact fun _ => rfl
  · exact judged

theorem pollActed_sampler :
    (pollActed k l x s).sampler l = judgedSampler k s.copies.staleLimit (s.sampler l) x := by
  obtain ⟨acted, -⟩ := pollActed_kept (s := s) (l := l) (k := k) (x := x)
  have sampled : Within [.chans, .paths, .marks, .entries] (pollJudged k l x s) (pollSampled k l x s) := pollSampled_within
  rw [acted.sampler l, sampled.sampler l, pollJudged_of_none none, putSampler_sampler]

end

/-! ### One hatch of a reading (R88 to R95) -/

section
variable {s : State} {l : Locker} {h : Hatch} {tray : Bool}

/-- What a hatch seen in OPERATING can do, the other latch LATCHED: nothing, one record with a latch command, a late
opening, or a forced hatch that leaves no release. -/
theorem readHatch_forms {P : State → Prop} (closed : Bool) (same : P s) (put : ∀ r, P (putLatch l h r s))
    (issued : ∀ r, P (issueLatch l false false (putLatch l h r s)))
    (late : ∀ r, P (lateOpening l h (putLatch l h r s)))
    (forced : ∀ r was, r.st = .latched ∨ r.st = .opened → P (forcedHatch l h was (putLatch l h r s))) :
    P (readHatch l h closed tray s) := by
  unfold readHatch
  split
  · unfold seenClosed
    dsimp only
    split
    · exact put _
    · exact issued _
    all_goals exact same
  · unfold seenOpen
    dsimp only
    split
    · next latched =>
      split
      · exact same
      · exact forced _ _ (.inl latched)
    · exact forced _ _ (.inr rfl)
    · exact forced _ _ (.inr rfl)
    · exact put _
    · split
      · exact put _
      · exact late _
      all_goals exact same
    all_goals exact same

/-- What every reading of one hatch leaves. -/
structure HatchRead (l : Locker) (h : Hatch) (s t : State) : Prop where
  otherLatch : ∀ g : Hatch, g ≠ h → t.latch l g = s.latch l g
  customer : (t.ctx l).customer = (s.ctx l).customer
  sampler : t.sampler l = s.sampler l
  lockers : OtherLockersKept l s t
  kept : Within lockerParts s t

theorem HatchRead.refl : HatchRead l h s s := ⟨fun _ _ => rfl, rfl, rfl, Others.refl, .refl⟩

theorem putLatch_read {r : LatchRec} : HatchRead l h s (putLatch l h r s) :=
  ⟨fun _ other => putLatch_latch_ne other, by rw [putLatch_ctx], putLatch_sampler .., putLatch_others, putLatch_within.widen⟩

theorem HatchRead.next {t u : State} (first : HatchRead l h s t) (second : HatchRead l h t u) : HatchRead l h s u :=
  ⟨fun g other => (second.otherLatch g other).trans (first.otherLatch g other), second.customer.trans first.customer,
    second.sampler.trans first.sampler, Others.trans first.lockers second.lockers, first.kept.next second.kept⟩

theorem issueLatch_read {a b : Bool} : HatchRead l h s (issueLatch l a b s) :=
  ⟨fun g _ => issueLatch_latch .., by rw [issueLatch_ctx], issueLatch_sampler .., issueLatch_within.others rfl l,
    issueLatch_within.widen⟩

theorem lateOpening_read : HatchRead l h s (lateOpening l h s) := by
  unfold lateOpening
  dsimp only
  split
  · exact ⟨fun g _ => putCtx_latch .., by rw [putCtx_ctx_self], putCtx_sampler .., putCtx_others, putCtx_within.widen⟩
  all_goals exact .refl

/-- The state after a forced hatch and its record. -/
def forcedSeen (l : Locker) (h : Hatch) (was : LatchState) (s : State) : State :=
  handRecord (recordOf s l .forced (BitVec.ofNat 16 was.code) (hatchWord h)) s

theorem forcedHatch_eq {was : LatchState} :
    forcedHatch l h was s = quarantineCause l .forced (forcedSeen l h was s) := by
  rw [forcedHatch, hatchCode_word]
  rfl

/-- A forced hatch is one record and one cause, where no release of the locker is left. -/
theorem forcedHatch_taken {was : LatchState} (mode : s.mode = .operating) (used : (s.ctx l).life ≠ .vacant)
    (still : NoRelease l s) : CauseTaken .forced l (forcedSeen l h was s) (forcedHatch l h was s)
      ∧ (forcedHatch l h was s).sampler l = s.sampler l := by
  have seen : Within [.queue] s (forcedSeen l h was s) := handRecord_within
  have ready : (forcedSeen l h was s).mode = .operating := seen.mode.trans mode
  have life : ((forcedSeen l h was s).ctx l).life ≠ .vacant := by rwa [seen.ctx l]
  have rest : NoRelease l (forcedSeen l h was s) := .of_latches (seen.latches l) still
  rw [forcedHatch_eq]
  exact ⟨quarantineCause_taken ready (.inr life) rest, by rw [quarantineCause_sampler ready (.inr life) rest, seen.sampler l]⟩

theorem forcedHatch_read {was : LatchState} (mode : s.mode = .operating) (used : (s.ctx l).life ≠ .vacant)
    (still : NoRelease l s) : HatchRead l h s (forcedHatch l h was s) := by
  have seen : Within [.queue] s (forcedSeen l h was s) := handRecord_within
  obtain ⟨taken, sampler⟩ := forcedHatch_taken (h := h) (was := was) mode used still
  have by_ : (forcedHatch l h was s).ctx l = _ := taken.ctx
  refine ⟨fun g _ => by rw [taken.kept.latch l g, seen.latch l g], ?_, sampler,
    Others.trans (seen.others rfl l) taken.others, seen.widen.next taken.kept⟩
  rw [by_, seen.ctx l]
  split <;> rfl

/-- A latch put to rest or to OPEN, the other LATCHED, leaves no release. -/
theorem putLatch_noRelease {r : LatchRec} (still : r.st = .latched ∨ r.st = .opened)
    (others : ∀ g, g ≠ h → (s.latch l g).st = .latched) : NoRelease l (putLatch l h r s) := fun g => by
  by_cases same : g = h
  · subst same
    rw [putLatch_latch_self]
    exact still.elim (fun latched => .inr (.inl latched)) .inl
  · rw [putLatch_latch_ne same]
    exact .inr (.inl (others g same))

theorem readHatch_read {closed : Bool} (mode : s.mode = .operating) (used : (s.ctx l).life ≠ .vacant)
    (others : ∀ g, g ≠ h → (s.latch l g).st = .latched) : HatchRead l h s (readHatch l h closed tray s) := by
  refine readHatch_forms (P := HatchRead l h s) closed .refl (fun _ => putLatch_read)
    (fun _ => putLatch_read.next issueLatch_read) (fun _ => putLatch_read.next lateOpening_read)
    fun r was still => putLatch_read.next (forcedHatch_read ?_ ?_ (putLatch_noRelease still others))
  · rw [putLatch_mode, mode]
  · rwa [putLatch_ctx]

end

/-! ### The reading of one hatch beside a closed one (R88) -/

/-- The state in which one hatch is read, after a result without a cause, the other hatch LATCHED. -/
structure HatchReady (l : Locker) (h : Hatch) (x : Sense) (s a : State) : Prop where
  kept : Within [.recs, .chans, .paths, .marks, .entries, .lke, .counts, .queue, .mpi, .mem, .sweep, .ltc, .fast] s a
  latch : a.latch l h = s.latch l h
  mode : a.mode = .operating
  used : (a.ctx l).life ≠ .vacant
  others : ∀ g : Hatch, g ≠ h → (a.latch l g).st = .latched
  ctx : (s.ctx l).life ≠ .assigned → a.ctx l = s.ctx l
  calm : (s.ctx l).life ≠ .assigned ∨ 300 < x.temp ∨ x.temp < (s.opts l).load → a.ctx l = s.ctx l ∧ HandedAll [] s a
  latchPath : LatchPathsKept s a

/-- The state after the reading: the other hatch's note at most has changed since. -/
structure HatchSeen (l : Locker) (h : Hatch) (r t : State) : Prop where
  kept : Within [.ltc, .fast] r t
  latch : t.latch l h = r.latch l h
  lockers : OtherLockersKept l r t
  fast : (r.latch l h).st.inSeq = true → r.smp.fastPoll[l.val] = true → t.smp.fastPoll[l.val] = true

section
variable {s : State} {l : Locker} {h : Hatch} {k : PollKind} {x : Txn} {p : List PortWrite} {w : Word}

/-- The result of a poll without a cause, before its reading. -/
theorem pollActed_ready (poll : PollOf k l w x p s) (used : (s.ctx l).life ≠ .vacant)
    (others : ∀ g : Hatch, g ≠ h → (s.latch l g).st = .latched)
    (none : pollCause k s.copies (s.sampler l) (senseOf w) = none) :
    HatchReady l h (senseOf w) s (pollActed k l (senseOf w) (pollRead k l p s)) := by
  let y : Sense := senseOf w
  let v : State := pollRead k l p s
  have read : Within [.mpi, .mem, .sweep] s v := pollRead_within
  have noneV : pollCause k v.copies (v.sampler l) y = .none := by rwa [read.copies, read.sampler l]
  have sampled : Within [.recs, .chans, .paths, .marks, .entries] v (pollSampled k l y v) := pollSampled_of_none noneV
  obtain ⟨acted, -⟩ := pollActed_kept (s := v) (l := l) (k := k) (x := y)
  have kept : Within [.recs, .chans, .paths, .marks, .entries, .lke, .counts, .queue, .mpi, .mem, .sweep, .ltc, .fast] s
      (pollActed k l y v) := (read.widen.next sampled).next acted
  have latch (g : Hatch) : (pollActed k l y v).latch l g = s.latch l g := by
    rw [acted.latch l g, sampled.latch l g, read.latch l g]
  have ctx := pollActed_ctx_of_none noneV
  rw [read.ctx l] at ctx
  refine ⟨kept, latch h, kept.mode.trans poll.1, ?_, fun g other => by rw [latch, others g other], fun other => ?_,
    fun calm => ?_, LatchPathsKept.trans (.of_paths (read.paths (by decide))) (pollActed_latchPaths noneV)⟩
  · rcases ctx with same | ⟨-, ready⟩
    · rwa [show (pollActed k l (senseOf w) (pollRead k l p s)).ctx l = _ from same]
    · rw [show (pollActed k l (senseOf w) (pollRead k l p s)).ctx l = _ from ready]
      exact nofun
  · exact ctx.resolve_right fun ready => other ready.1
  · have opts : v.opts l = s.opts l := opts_congr read.copies (congrArg (·.cls) (read.ctx l))
    have same : pollActed k l y v = pollSampled k l y v :=
      pollActed_of_calm noneV (by rwa [read.ctx l, opts])
    have small : Within [.recs, .chans, .paths, .marks, .entries, .mpi, .mem, .sweep] s (pollActed k l y v) := by
      rw [same]
      exact read.widen.next sampled
    exact ⟨small.ctx l, small.unhanded⟩

/-- A note taken off a latch, before or after another hatch is read. -/
theorem HatchReady.noted {y : Sense} {a : State} {g : Hatch} (ready : HatchReady l h y s a) (other : g ≠ h) :
    HatchReady l h y s (putLatch l g { a.latch l g with note := false } a) := by
  obtain ⟨kept, latch, mode, used, others, ctx, calm, latchPath⟩ := ready
  have noted : Within [.ltc, .fast] a (putLatch l g { a.latch l g with note := false } a) := putLatch_noted
  refine ⟨kept.next noted, (putLatch_latch_ne other.symm).trans latch, noted.mode.trans mode, by rwa [noted.ctx l],
    fun f away => ?_, fun life => (noted.ctx l).trans (ctx life), fun free => ?_,
    latchPath.trans (.of_paths (noted.paths (by decide)))⟩
  · by_cases same : f = g
    · subst same
      rw [putLatch_latch_self]
      exact others f away
    · rw [putLatch_latch_ne same, others f away]
  · obtain ⟨same, unhanded⟩ := calm free
    exact ⟨(noted.ctx l).trans same, handedAll_trans unhanded noted.unhanded⟩

theorem hatchSeen_noted {r : State} {g : Hatch} (other : g ≠ h) :
    HatchSeen l h r (putLatch l g { r.latch l g with note := false } r) := by
  refine ⟨putLatch_noted, putLatch_latch_ne other.symm, putLatch_others, fun running _ => ?_⟩
  rw [putLatch_fastPoll, if_pos rfl]
  cases h <;> cases g
  · exact absurd rfl other
  · exact Bool.or_eq_true_iff.mpr (.inl running)
  · exact Bool.or_eq_true_iff.mpr (.inr running)
  · exact absurd rfl other

/-- A reading of one hatch, the other closed behind a LATCHED latch. -/
theorem ltcReading_seen {y : Sense} {a : State} (ready : HatchReady l h y s a)
    (closed : ∀ g : Hatch, g ≠ h → closedAt y g = true) : ∃ b, HatchReady l h y s b
      ∧ HatchSeen l h (readHatch l h (closedAt y h) y.tray b) (ltcReading l y a)
      ∧ (b = a ∨ ∃ g, g ≠ h ∧ b = putLatch l g { a.latch l g with note := false } a)
      ∧ ∀ g : Hatch, g ≠ h → (ltcReading l y a).latch l g = { a.latch l g with note := false } := by
  cases h with
  | front =>
    let r : State := readHatch l .front y.frontClosed y.tray a
    have rear : y.rearClosed = true := closed .rear (by decide)
    have read : HatchRead l .front a r := readHatch_read ready.mode ready.used ready.others
    have latch : r.latch l .rear = a.latch l .rear := read.otherLatch .rear (by decide)
    have same : ltcReading l y a = putLatch l .rear { r.latch l .rear with note := false } r := by
      rw [ltcReading, rear, readHatch_of_closed (by rw [latch, ready.others .rear (by decide)])]
    refine ⟨a, ready, same ▸ hatchSeen_noted (by decide), .inl rfl, fun g other => ?_⟩
    obtain rfl : g = .rear := by cases g <;> simp_all
    rw [same, putLatch_latch_self, latch]
  | rear =>
    let b : State := putLatch l .front { a.latch l .front with note := false } a
    have front : y.frontClosed = true := closed .front (by decide)
    have before : HatchReady l .rear y s b := ready.noted (by decide)
    have same : ltcReading l y a = readHatch l .rear y.rearClosed y.tray b := by
      rw [ltcReading, front, readHatch_of_closed (ready.others .front (by decide))]
    have read : HatchRead l .rear b (ltcReading l y a) := by
      rw [same]
      exact readHatch_read before.mode before.used before.others
    refine ⟨b, before, ?_, .inr ⟨.front, by decide, rfl⟩, fun g other => ?_⟩
    · rw [same]
      exact ⟨.refl, rfl, Others.refl, fun _ fast => fast⟩
    · obtain rfl : g = .front := by cases g <;> simp_all
      rw [read.otherLatch .front (by decide)]
      exact putLatch_latch_self

/-- What becomes of the hatch that a poll follows is what its own reading makes of it. -/
theorem hatchReading_of {after : Sense → State → Prop}
    (ends : ∀ x a t, HatchReady l h x s a → HatchSeen l h (readHatch l h (closedAt x h) x.tray a) t →
      s.ringFull = false → t.ringFull = false → after x (settle t)) : HatchReading l h s after := by
  intro x k p w poll used room others none
  let y : Sense := senseOf w
  let v : State := pollRead k l p s
  let a : State := pollActed k l y v
  have read : Within [.mpi, .mem, .sweep] s v := pollRead_within
  have noneV : pollCause k v.copies (v.sampler l) y = .none := by rwa [read.copies, read.sampler l]
  have ready : HatchReady l h y s a := pollActed_ready poll used (fun g other => (others g other).1) none
  obtain ⟨b, before, seen, form, latches⟩ := ltcReading_seen ready fun g other => (others g other).2
  have hatch : HatchRead l h b (readHatch l h (closedAt y h) y.tray b) :=
    readHatch_read before.mode before.used before.others
  have same : (b.ctx l).customer = (a.ctx l).customer ∧ b.sampler l = a.sampler l ∧ OtherLockersKept l a b := by
    rcases form with rfl | ⟨g, -, rfl⟩
    · exact ⟨rfl, rfl, Others.refl⟩
    · exact ⟨by rw [putLatch_ctx], putLatch_sampler .., putLatch_others⟩
  obtain ⟨customer, sampler, lockers⟩ := same
  have judged : JudgedKept l v (pollJudged k l y v) := by
    rw [pollJudged_of_none noneV]
    exact recorded_judgedKept
  have sampled : Within [.chans, .paths, .marks, .entries] (pollJudged k l y v) (pollSampled k l y v) := pollSampled_within
  obtain ⟨acted, actedOthers, -⟩ := pollActed_kept (s := v) (l := l) (k := k) (x := y)
  have whole : Within (lockerParts ++ [.mpi, .mem, .sweep]) s (pollDone k l y p s) :=
    (before.kept.widen.next hatch.kept).next seen.kept
  have latch (g : Hatch) : a.latch l g = s.latch l g := by
    rw [acted.latch l g, sampled.latch l g, judged.kept.latch l g, read.latch l g]
  refine ⟨_, exec_poll poll used, ?_, otherLockersKept_settle ?_, ?_, fun g other => ?_,
    ends y b _ before seen room (whole.ringFull.trans room)⟩
  · rw [settle_ctx, seen.kept.ctx l, hatch.customer, customer]
    rcases pollActed_ctx_of_none noneV with kept | ⟨-, kept⟩
    · rw [show a.ctx l = _ from kept, read.ctx l]
    · rw [show a.ctx l = _ from kept, read.ctx l]
  · have acts : OtherLockersKept l s a := Others.trans (Others.trans (Others.trans (read.others rfl l) judged.others)
      (sampled.others rfl l)) actedOthers
    exact Others.trans (Others.trans acts lockers) (Others.trans hatch.lockers seen.lockers)
  · rw [settle_sampler, seen.kept.sampler l, hatch.sampler, sampler, show a.sampler l = _ from pollActed_sampler noneV,
      read.sampler l, read.copies]
  · rw [settle_latch, latches g other, latch]

end

end Sys2Proof.Machine
end

section
/-! PROOFS. Openings, closings and forced hatches, by the state of the latch (R45, R54, R88 to R90, R93 to R95, R97). -/

-- One theorem after the other: a thread for each would ask for more stack space than a build may have.
set_option Elab.async false

namespace Sys2Proof.Machine

/-! ### Openings (R54, R89, R93, R94) -/

section
variable {s : State} {l : Locker} {h : Hatch} {tray : Bool}

theorem readHatch_of_openWait (st : (s.latch l h).st = .openWait) :
    readHatch l h false tray s = putLatch l h ((s.latch l h).openTo s.copies.hatchHeld) s := by
  simp only [readHatch, Bool.false_eq_true, if_false, seenOpen, st]

theorem readHatch_of_reopened (st : (s.latch l h).st = .relatchPending) (kind : (s.latch l h).kind = .opened) :
    readHatch l h false tray s = putLatch l h ((s.latch l h).openTo s.copies.hatchHeld) s := by
  simp only [readHatch, Bool.false_eq_true, if_false, seenOpen, st, kind]

theorem readHatch_of_late (st : (s.latch l h).st = .relatchPending) (kind : (s.latch l h).kind = .notOpened) :
    readHatch l h false tray s = lateOpening l h (putLatch l h ((s.latch l h).openTo s.copies.hatchHeld) s) := by
  simp only [readHatch, Bool.false_eq_true, if_false, seenOpen, st, kind]

theorem lateOpening_of_expired (life : (s.ctx l).life = .expired) : lateOpening l .front s = putCtx l
    { s.ctx l with life := .collecting, ret := .holding, collExp := (s.ctx l).reason.expiry, reason := .none } s := by
  simp only [lateOpening, life]

theorem lateOpening_of_other (other : ¬ (h = .front ∧ (s.ctx l).life = .expired)) : lateOpening l h s = s := by
  unfold lateOpening
  dsimp only
  split
  · next life => exact absurd ⟨rfl, life⟩ other
  all_goals rfl

/-- A late opening changes a context at most. -/
theorem lateOpening_small : Within [.lke, .marks, .counts, .entries] s (lateOpening l h s) := by
  unfold lateOpening
  dsimp only
  split
  · exact putCtx_within
  all_goals exact .refl

/-- An expected opening leaves the latch OPEN and the locker in the fast-poll set. -/
theorem putLatch_opened {u : State} (small : Within [.lke, .marks, .counts, .entries]
    (putLatch l h ((s.latch l h).openTo s.copies.hatchHeld) s) u) :
    u.latch l h = openedFrom s (s.latch l h) ∧ u.smp.fastPoll[l.val] = true := by
  rw [small.latch l h, small.fastPollAt l, putLatch_latch_self, putLatch_fastPoll, if_pos rfl, LatchPair.inSeq_set rfl]
  exact ⟨rfl, rfl⟩

end

theorem hatchOpens : HatchOpens := by
  intro s l h c r expected
  refine hatchReading_of fun x b t ready seen _ _ opening => ?_
  have latch : b.latch l h = r := ready.latch
  have copies : b.copies = s.copies := ready.kept.copies
  let u : State := readHatch l h (closedAt x h) x.tray b
  let o : State := putLatch l h ((b.latch l h).openTo b.copies.hatchHeld) b
  have form : u = o ∨ (r.st = .relatchPending ∧ r.kind = .notOpened) ∧ u = lateOpening l h o := by
    simp only [u, opening]
    rcases expected with st | ⟨st, kind | kind⟩
    · exact .inl (readHatch_of_openWait (by rw [latch, st]))
    · exact .inl (readHatch_of_reopened (by rw [latch, st]) (by rw [latch, kind]))
    · exact .inr ⟨⟨st, kind⟩, readHatch_of_late (by rw [latch, st]) (by rw [latch, kind])⟩
  have small : Within [.lke, .marks, .counts, .entries] o u := by
    rcases form with same | ⟨-, same⟩ <;> rw [same]
    · exact .refl
    · exact lateOpening_small
  obtain ⟨opened, fast⟩ := putLatch_opened small
  rw [latch] at opened
  have ctx (kept : (s.ctx l).life ≠ .assigned) : o.ctx l = c := by rw [putLatch_ctx, ready.ctx kept]
  refine ⟨?_, ?_, fun st kind front life => ?_, fun kept other => ?_⟩
  · rw [settle_latch, seen.latch, show (readHatch l h (closedAt x h) x.tray b).latch l h = _ from opened, openedFrom, copies]
  · rw [settle_fastPoll]
    refine seen.fast ?_ fast
    rw [show (readHatch l h (closedAt x h) x.tray b).latch l h = _ from opened]
    rfl
  · subst front
    have expired : (o.ctx l).life = .expired := by rw [ctx (by rw [life]; decide), life]
    have late : u = lateOpening l .front o := by
      simp only [u, opening]
      exact readHatch_of_late (by rw [latch, st]) (by rw [latch, kind])
    rw [settle_ctx, seen.kept.ctx l, show readHatch l .front (closedAt x .front) x.tray b = _ from late,
      lateOpening_of_expired expired, putCtx_ctx_self, ctx (by rw [life]; decide)]
    cases c.reason <;> rfl
  · have same : u = o := by
      rcases form with same | ⟨⟨st, kind⟩, same⟩
      · exact same
      · rw [same]
        refine lateOpening_of_other fun late => other ⟨st, kind, late.1, ?_⟩
        rw [← ctx kept]
        exact late.2
    rw [settle_ctx, seen.kept.ctx l, show readHatch l h (closedAt x h) x.tray b = _ from same, ctx kept]

/-! ### Closings (R88, R90) -/

section
variable {s : State} {l : Locker} {h : Hatch} {tray : Bool}

theorem readHatch_of_closing (st : (s.latch l h).st = .opened) : readHatch l h true tray s
    = issueLatch l false false (putLatch l h ((s.latch l h).relatch .opened tray) s) := by
  simp only [readHatch, if_true, seenClosed, st]

theorem readHatch_of_closed_other (opened : (s.latch l h).st ≠ .opened) (latched : (s.latch l h).st ≠ .latched) :
    readHatch l h true tray s = s := by
  rw [readHatch, if_pos rfl]
  unfold seenClosed
  dsimp only
  split <;> simp_all

/-- A closing changes no context. -/
theorem readHatch_closed_ctx : (readHatch l h true tray s).ctx l = s.ctx l := by
  by_cases opened : (s.latch l h).st = .opened
  · rw [readHatch_of_closing opened, issueLatch_ctx, putLatch_ctx]
  · by_cases latched : (s.latch l h).st = .latched
    · rw [readHatch_of_closed latched, putLatch_ctx]
    · rw [readHatch_of_closed_other opened latched]

end

theorem hatchCloses : HatchCloses := by
  intro s l h r
  refine hatchReading_of fun x b t ready seen _ _ closed => ?_
  have latch : b.latch l h = r := ready.latch
  rw [closed] at seen
  refine ⟨fun st => ?_, fun st => ?_, fun opened latched => ?_, fun life => ?_⟩
  · have closing := readHatch_of_closing (tray := x.tray) (latch ▸ st : (b.latch l h).st = .opened)
    rw [closing, latch] at seen
    let o : State := putLatch l h (r.relatch .opened x.tray) b
    obtain ⟨front, rear, writing, seq, mark⟩ := issueLatch_commanded l false false o
    have relatched : (issueLatch l false false o).latch l h = r.relatch .opened x.tray := by
      rw [issueLatch_latch]
      exact putLatch_latch_self
    rw [LatchCommanded, settle_latch, settle_paths, settle_marks, settle_fastPoll, seen.kept.pathsAt l, seen.kept.marksAt l]
    refine ⟨?_, ⟨front, rear, writing, ?_, mark⟩, seen.fast ?_ ?_⟩
    · rw [seen.latch]
      exact relatched
    · refine seq.trans ?_
      rw [show o.paths l = b.paths l from putLatch_paths .., ready.latchPath l]
    · rw [show (issueLatch l false false (putLatch l h (r.relatch .opened x.tray) b)).latch l h = _ from relatched]
      rfl
    · rw [issueLatch_within.fastPollAt l, putLatch_fastPoll, if_pos rfl, LatchPair.inSeq_set rfl]
  · have noting := readHatch_of_closed (tray := x.tray) (latch ▸ st : (b.latch l h).st = .latched)
    rw [settle_latch, seen.latch, noting, putLatch_latch_self, latch]
  · have still := readHatch_of_closed_other (tray := x.tray) (latch ▸ opened : (b.latch l h).st ≠ .opened)
      (latch ▸ latched : (b.latch l h).st ≠ .latched)
    rw [settle_latch, seen.latch, still, latch]
  · rw [settle_ctx, seen.kept.ctx l, readHatch_closed_ctx, ready.ctx life]

/-! ### Forced hatches (R45, R88, R95) -/

/-- The record of a latch whose hatch was forced: a LATCHED one takes the note, one about to open is OPEN. -/
abbrev forcedRecord (s : State) (r : LatchRec) : LatchRec :=
  if r.st = .latched then { r with note := true } else openedFrom s r

section
variable {s : State} {l : Locker} {h : Hatch} {tray : Bool}

theorem readHatch_of_forced (forced : (s.latch l h).st = .latched ∧ (s.latch l h).note = false
      ∨ (s.latch l h).st = .haltWait ∨ (s.latch l h).st = .unlatchPending) : readHatch l h false tray s
    = forcedHatch l h (s.latch l h).st (putLatch l h (forcedRecord s (s.latch l h)) s) := by
  rw [readHatch, if_neg Bool.false_ne_true]
  unfold seenOpen
  dsimp only
  rcases forced with ⟨st, note⟩ | st | st
  · simp only [st, note, Bool.false_eq_true, if_false, forcedRecord, if_true]
  · simp only [st, forcedRecord]
    rfl
  · simp only [st, forcedRecord]
    rfl

/-- A hatch seen open again with its note standing, at OPEN or at FAILED. -/
theorem readHatch_of_known (known : (s.latch l h).st = .latched ∧ (s.latch l h).note = true
      ∨ (s.latch l h).st = .opened ∨ (s.latch l h).st = .failed) : readHatch l h false tray s = s := by
  rw [readHatch, if_neg Bool.false_ne_true]
  unfold seenOpen
  dsimp only
  rcases known with ⟨st, note⟩ | st | st
  · simp only [st, note, if_true]
  · simp only [st]
  · simp only [st]

theorem forcedRecord_atRest {r : LatchRec} : (forcedRecord s r).st = .latched ∨ (forcedRecord s r).st = .opened := by
  by_cases latched : r.st = .latched
  · rw [forcedRecord, if_pos latched]
    exact .inl latched
  · rw [forcedRecord, if_neg latched]
    exact .inr rfl

end

theorem hatchForced : HatchForced := by
  intro s l h r
  refine hatchReading_of fun x b t ready seen _ room opening calm => ?_
  have latch : b.latch l h = r := ready.latch
  have copies : b.copies = s.copies := ready.kept.copies
  obtain ⟨ctx, unhanded⟩ := ready.calm calm
  rw [opening] at seen
  refine ⟨fun forced => ?_, fun known => ?_⟩
  · rw [readHatch_of_forced (by rwa [latch]), latch] at seen
    let o : State := putLatch l h (forcedRecord b r) b
    have put : Within [.ltc, .marks, .fast, .entries] b o := putLatch_within
    have still : NoRelease l o := putLatch_noRelease forcedRecord_atRest ready.others
    obtain ⟨taken, -⟩ := forcedHatch_taken (h := h) (was := r.st) (put.mode.trans ready.mode)
      (by rw [put.ctx l]; exact ready.used) still
    have record : Within [.queue] o (forcedSeen l h r.st o) := handRecord_within
    have same : o.ctx l = s.ctx l := (put.ctx l).trans ctx
    have tmb : o.tmb = s.tmb := (put.tmb (by decide)).trans (ready.kept.tmb (by decide))
    have report : HandedAll [recordOf o l .forced (BitVec.ofNat 16 r.st.code) (hatchWord h)] o (forcedSeen l h r.st o) :=
      handRecord_handed _ _
    rw [recordOf, same, tmb] at report
    obtain ⟨by_, handed⟩ := taken.after ((record.ctx l).trans same) ((record.tmb (by decide)).trans tmb)
      (handedAll_trans (handedAll_trans unhanded put.unhanded) report)
    refine ⟨?_, ?_, handedAll_settle ?_ room⟩
    · rw [settle_latch, seen.latch, taken.kept.latch l h, record.latch l h, show o.latch l h = _ from putLatch_latch_self,
        forcedRecord, openedFrom, openedFrom, copies]
    · rw [QuarantinedBy, settle_ctx, seen.kept.ctx l]
      exact by_
    · simpa using handedAll_trans handed seen.kept.unhanded
  · rw [readHatch_of_known (by rwa [latch])] at seen
    refine ⟨by rw [settle_latch, seen.latch, latch], by rw [settle_ctx, seen.kept.ctx l, ctx],
      queue_of_unhanded (handedAll_settle (handedAll_trans unhanded seen.kept.unhanded) room)⟩

/-- Settles O49: openings, closings and forced hatches, front and rear alike. -/
theorem fastPollFollowsTheHatch : Obligations.FastPollFollowsTheHatch := ⟨hatchOpens, hatchCloses, hatchForced⟩

end Sys2Proof.Machine
end

section
/-! PROOFS. The walk of the ranking at a frame start (R102, R103, R106, R111). -/

-- One theorem after the other: a thread for each would ask for more stack space than a build may have.
set_option Elab.async false

namespace Sys2Proof.Machine

/-! ### What a walk comes to (R111) -/

/-- An entry that a walk leaves: passed over for want of a channel, or beyond the capacity, with nothing granted after. -/
def LeftStanding (l : Locker) (after new : List Locker) (granted : Nat) (s t : State) : Prop :=
  PassedOver l s t ∨ granted = s.hsc.capacity ∧ ∀ k ∈ after, k ∉ new

/-- A granted locker keeps its energised channel, or has a FREE one with an on command. -/
def Served (l : Locker) (s t : State) : Prop :=
  (∃ i : Chan, (s.chan i).st.energised = some l)
    ∨ (∀ i : Chan, (s.chan i).st.attached ≠ some l) ∧ HeatCommanded l true s t
      ∧ ∃ i ∈ freeChans s, (t.chan i).st = .onPending l

/-- What a walk of a list of entries comes to; `new` are the lockers it has granted, in their order. -/
structure Walked (s : State) (ls g new : List Locker) (w : Walk) : Prop where
  granted : w.granted = new.reverse ++ g
  sublist : new.Sublist ls
  stay : w.stay = ls.filter (· ∉ new)
  chan : ∀ i : Chan, w.s.chan i = s.chan i
    ∨ i ∈ freeChans s ∧ ∃ l ∈ new, (∀ j : Chan, (s.chan j).st.attached ≠ some l) ∧ (w.s.chan i).st = .onPending l
  served : ∀ l ∈ new, Served l s w.s
  left : ∀ before l after, ls = before ++ l :: after → l ∉ new → LeftStanding l after new (g.length + new.length) s w.s
  paths : ∀ l : Locker, l ∉ new → w.s.paths l = s.paths l
  marks : MarksKept s w.s

section
variable {s u : State} {l : Locker} {ls rest g new : List Locker} {w : Walk}

/-- An entry that the capacity leaves no room for ends the walk. -/
theorem Walked.full (full : g.length = s.hsc.capacity) : Walked s ls g [] ⟨s, ls, g⟩ where
  granted := rfl
  sublist := List.nil_sublist _
  stay := by simp
  chan := fun _ => .inl rfl
  served := nofun
  left := fun _ _ _ _ _ => .inr ⟨full, fun _ _ => List.not_mem_nil⟩
  paths := fun _ _ => rfl
  marks := .refl

/-- No FREE channel comes about in a walk. -/
theorem Walked.free_before (walked : Walked s ls g new w) (copies : w.s.copies = s.copies) {i : Chan}
    (free : i ∈ freeChans w.s) : i ∈ freeChans s := by
  rcases walked.chan i with same | ⟨before, -⟩
  · rw [freeChans, List.mem_filter] at free ⊢
    rwa [same, copies] at free
  · exact before

theorem filter_fresh (fresh : l ∉ rest) :
    (l :: rest).filter (· ∉ l :: new) = rest.filter (· ∉ new) := by
  rw [List.filter_cons_of_neg (by simp)]
  refine List.filter_congr fun k listed => ?_
  have ne : k ≠ l := fun same => fresh (same ▸ listed)
  simp [ne]

/-- An entry passed over, before the walk of the rest. -/
theorem Walked.pass (fresh : l ∉ rest) (walked : Walked s rest g new w) (skipped : PassedOver l s w.s) :
    Walked s (l :: rest) g new { w with stay := l :: w.stay } := by
  obtain ⟨granted, sublist, stay, chan, served, left, paths, marks⟩ := walked
  have other : l ∉ new := fun listed => fresh (sublist.subset listed)
  refine ⟨granted, sublist.cons l, ?_, chan, served, fun before k after split out => ?_, paths, marks⟩
  · rw [List.filter_cons_of_pos (by simpa using other), stay]
  · rcases List.cons_eq_append_iff.mp split with ⟨-, head⟩ | ⟨before', -, tail⟩
    · obtain ⟨rfl, -⟩ := List.cons.inj head
      exact .inl skipped
    · exact left before' k after tail out

/-- A locker that keeps its energised channel, before the walk of the rest. -/
theorem Walked.keep {i : Chan} (fresh : l ∉ rest) (on : (s.chan i).st.energised = some l)
    (walked : Walked s rest (l :: g) new w) : Walked s (l :: rest) g (l :: new) w := by
  obtain ⟨granted, sublist, stay, chan, served, left, paths, marks⟩ := walked
  refine ⟨?_, sublist.cons_cons l, ?_, fun j => ?_, fun k listed => ?_, fun before k after split out => ?_, fun k out => ?_, marks⟩
  · rw [granted]
    simp
  · rw [filter_fresh fresh, stay]
  · exact (chan j).imp_right fun ⟨free, k, listed, rest⟩ => ⟨free, k, List.mem_cons_of_mem _ listed, rest⟩
  · rcases List.mem_cons.mp listed with rfl | later
    · exact .inl ⟨i, on⟩
    · exact served k later
  · obtain ⟨ne, out⟩ := not_or.mp fun listed => out (List.mem_cons.mpr listed)
    rcases List.cons_eq_append_iff.mp split with ⟨-, head⟩ | ⟨before', -, tail⟩
    · exact absurd (List.cons.inj head).1.symm fun same => ne same.symm
    · refine (left before' k after tail out).imp_right fun ⟨full, later⟩ => ⟨?_, fun j listed => ?_⟩
      · simp only [List.length_cons] at full ⊢
        omega
      · have inRest : j ∈ rest := tail ▸ List.mem_append_right _ (List.mem_cons_of_mem _ listed)
        exact List.not_mem_cons_of_ne_of_not_mem (fun same => fresh (same ▸ inRest)) (later j listed)
  · exact paths k (List.not_mem_of_not_mem_cons out)

/-- A locker given the lowest-numbered FREE channel, before the walk of the rest. -/
theorem Walked.allocate {i : Chan} (fresh : l ∉ rest) (free : i ∈ freeChans s)
    (unattached : ∀ j : Chan, (s.chan j).st.attached ≠ some l)
    (walked : Walked (allocateChan i l s) rest (l :: g) new w) : Walked s (l :: rest) g (l :: new) w := by
  obtain ⟨granted, sublist, stay, chan, served, left, paths, marks⟩ := walked
  have a : Allocated i l s (allocateChan i l s) := allocateChan_allocated (unattached i)
  have other : l ∉ new := fun listed => fresh (sublist.subset listed)
  have idle : (s.chan i).st = .free := freeChans_free free
  have fewer {j : Chan} (h : j ∈ freeChans (allocateChan i l s)) : j ∈ freeChans s ∧ j ≠ i := by
    have ne : j ≠ i := by
      rintro rfl
      have taken := freeChans_free h
      rw [a.chan] at taken
      cases taken
    rw [freeChans, List.mem_filter, a.others j ne, a.copies] at h
    exact ⟨List.mem_filter.mpr h, ne⟩
  have loose {k : Locker} (h : ∀ j : Chan, ((allocateChan i l s).chan j).st.attached ≠ some k) (j : Chan) :
      (s.chan j).st.attached ≠ some k := by
    by_cases same : j = i
    · rw [same, idle]
      exact nofun
    · rw [← a.others j same]
      exact h j
  have commanded {k : Locker} (ne : k ≠ l) (h : HeatCommanded k true (allocateChan i l s) w.s) : HeatCommanded k true s w.s := by
    rwa [HeatCommanded, a.paths k ne] at h
  refine ⟨?_, sublist.cons_cons l, ?_, fun j => ?_, fun k listed => ?_, fun before k after split out => ?_, fun k out => ?_,
    a.marks.trans marks⟩
  · rw [granted]
    simp
  · rw [filter_fresh fresh, stay]
  · rcases chan j with same | ⟨freed, k, listed, unheld, pending⟩
    · by_cases first : j = i
      · subst first
        exact .inr ⟨free, l, List.mem_cons_self, unattached, by rw [same, a.chan]⟩
      · exact .inl (same.trans (a.others j first))
    · exact .inr ⟨(fewer freed).1, k, List.mem_cons_of_mem _ listed, loose unheld, pending⟩
  · rcases List.mem_cons.mp listed with rfl | later
    · refine .inr ⟨unattached, ?_, i, free, ?_⟩
      · obtain ⟨on, writing, seq, mark⟩ := a.commanded
        rw [← paths k other] at on writing seq
        exact ⟨on, writing, seq, marks k .heat mark⟩
      · rcases chan i with same | ⟨freed, -⟩
        · rw [same, a.chan]
        · exact absurd rfl (fewer freed).2
    · have ne : k ≠ l := fun same => other (same ▸ later)
      rcases served k later with ⟨j, on⟩ | ⟨unheld, heat, j, freed, pending⟩
      · have first : j ≠ i := by
          rintro rfl
          rw [a.chan] at on
          exact ne (Option.some.inj on).symm
        exact .inl ⟨j, by rwa [← a.others j first]⟩
      · exact .inr ⟨loose unheld, commanded ne heat, j, (fewer freed).1, pending⟩
  · obtain ⟨ne, out⟩ := not_or.mp fun listed => out (List.mem_cons.mpr listed)
    rcases List.cons_eq_append_iff.mp split with ⟨-, head⟩ | ⟨before', -, tail⟩
    · exact absurd (List.cons.inj head).1.symm fun same => ne same.symm
    · refine (left before' k after tail out).imp (fun skipped => ?_) fun ⟨full, later⟩ => ⟨?_, fun j listed => ?_⟩
      · rcases skipped with ⟨j, off⟩ | ⟨unheld, none⟩
        · have first : j ≠ i := by
            rintro rfl
            rw [a.chan] at off
            cases off
          exact .inl ⟨j, by rwa [← a.others j first]⟩
        · exact .inr ⟨loose unheld, none⟩
      · rw [a.capacity] at full
        simp only [List.length_cons] at full ⊢
        omega
      · have inRest : j ∈ rest := tail ▸ List.mem_append_right _ (List.mem_cons_of_mem _ listed)
        exact List.not_mem_cons_of_ne_of_not_mem (fun same => fresh (same ▸ inRest)) (later j listed)
  · rw [paths k (List.not_mem_of_not_mem_cons out), a.paths k (List.ne_of_not_mem_cons out)]

theorem freeChan_mem {i : Chan} (free : s.freeChan = some i) : i ∈ freeChans s := by
  rw [freeChan_eq] at free
  exact List.mem_of_mem_head? free

theorem freeChans_of_none (none : s.freeChan = none) : freeChans s = [] := by
  rw [freeChan_eq] at none
  exact List.head?_eq_none_iff.mp none

/-- A channel attached but not energised is going off. -/
theorem offPending_of_attached {i : Chan} (attached : (s.chan i).st.attached = some l)
    (off : (s.chan i).st.energised.isSome ≠ true) : (s.chan i).st = .offPending l := by
  revert attached off
  cases (s.chan i).st <;> simp [ChanState.attached, ChanState.energised]

/-- What a walk comes to, entry by entry. -/
theorem walkQueue_walked (ls : List Locker) (s : State) (g : List Locker) (distinct : ls.Nodup)
    (room : g.length ≤ s.hsc.capacity) : ∃ new, Walked s ls g new (walkQueue ls s g) := by
  induction ls generalizing s g with
  | nil =>
    refine ⟨[], rfl, .slnil, rfl, fun _ => .inl rfl, nofun, fun before l after split => ?_, fun _ _ => rfl, .refl⟩
    exact absurd split.symm (by simp)
  | cons l rest ih =>
    obtain ⟨fresh, distinct⟩ := List.nodup_cons.mp distinct
    unfold walkQueue
    split
    · next below =>
      split
      · next i found =>
        have attached := State.attachedChan_attached found
        split
        · next on =>
          have energised : (s.chan i).st.energised = some l := by
            revert attached on
            cases (s.chan i).st <;> simp [ChanState.attached, ChanState.energised]
          obtain ⟨new, walked⟩ := ih s (l :: g) distinct below
          exact ⟨l :: new, walked.keep fresh energised⟩
        · next off =>
          obtain ⟨new, walked⟩ := ih s g distinct room
          exact ⟨new, walked.pass fresh (.inl ⟨i, offPending_of_attached attached off⟩)⟩
      · next unheld =>
        have unattached := attachedChan_eq_none_iff.mp unheld
        split
        · next i free =>
          obtain ⟨new, walked⟩ := ih (allocateChan i l s) (l :: g) distinct (by rw [allocateChan_capacity]; exact below)
          exact ⟨l :: new, walked.allocate fresh (freeChan_mem free) unattached⟩
        · next none =>
          obtain ⟨new, walked⟩ := ih s g distinct room
          refine ⟨new, walked.pass fresh (.inr ⟨unattached, ?_⟩)⟩
          refine List.eq_nil_iff_forall_not_mem.mpr fun i free => ?_
          have before := walked.free_before (walkQueue_within.copies) free
          rw [freeChans_of_none none] at before
          cases before
    · next full => exact ⟨[], .full (Nat.le_antisymm room (Nat.not_lt.mp full))⟩

end

end Sys2Proof.Machine
end

section
/-! PROOFS. A frame start at HSC: the ranking walked, the releases and the overrun judgement (R106, R111 to R113). -/

-- One theorem after the other: a thread for each would ask for more stack space than a build may have.
set_option Elab.async false

namespace Sys2Proof.Machine

/-! ### The ranking as one walk (R106, R111) -/

theorem walkQueue_full {s : State} {g : List Locker} (full : ¬ g.length < s.hsc.capacity) (ls : List Locker) :
    walkQueue ls s g = ⟨s, ls, g⟩ := by
  cases ls with
  | nil => rfl
  | cons l rest => rw [walkQueue, if_neg full]

/-- A walk of two lists one after the other is one walk. -/
theorem walkQueue_append (a b : List Locker) (s : State) (g : List Locker) :
    let first := walkQueue a s g
    (walkQueue (a ++ b) s g).s = (walkQueue b first.s first.granted).s
      ∧ (walkQueue (a ++ b) s g).granted = (walkQueue b first.s first.granted).granted := by
  induction a generalizing s g with
  | nil => exact ⟨rfl, rfl⟩
  | cons l rest ih =>
    rw [List.cons_append]
    by_cases below : g.length < s.hsc.capacity
    · simp only [walkQueue, if_pos below]
      split
      · split <;> exact ih ..
      · split <;> exact ih ..
    · simp only [walkQueue, if_neg below]
      rw [walkQueue_full below b]
      exact ⟨rfl, rfl⟩

/-- What the walk of the ranking comes to. -/
structure Rationed (s : State) (new : List Locker) (w : Walk) (t : State) : Prop where
  walked : Walked s s.ranking [] new w
  kept : Within [.entries] w.s t
  hq : t.hsc.hq = s.hsc.hq.filter (· ∉ new)
  wq : t.hsc.wq = s.hsc.wq.filter (· ∉ new)

theorem filter_append_of_apart {q a b : List Locker} (apart : ∀ l ∈ q, l ∉ b) :
    q.filter (· ∉ a ++ b) = q.filter (· ∉ a) := by
  refine List.filter_congr fun l listed => ?_
  simp [apart l listed]

theorem filter_append_of_apart_left {q a b : List Locker} (apart : ∀ l ∈ q, l ∉ a) :
    q.filter (· ∉ a ++ b) = q.filter (· ∉ b) := by
  refine List.filter_congr fun l listed => ?_
  simp [apart l listed]

theorem walkRanking_rationed {s : State} (distinct : QueuesDistinct s) : ∃ new w,
    (walkRanking s).2 = new.reverse ∧ Rationed s new w (walkRanking s).1 := by
  obtain ⟨hqDistinct, wqDistinct, apart⟩ := List.nodup_append.mp distinct
  let h : Walk := walkQueue s.hsc.hq s []
  let w : Walk := walkQueue s.hsc.wq h.s h.granted
  have capacity : h.s.hsc.capacity = s.hsc.capacity := walkQueue_capacity ..
  have wq : h.s.hsc.wq = s.hsc.wq := (walkQueue_within.entries (by decide)).2
  have room : h.granted.length ≤ h.s.hsc.capacity := by
    rw [capacity]
    exact walkQueue_granted_length (Nat.zero_le _)
  obtain ⟨newH, held⟩ := walkQueue_walked s.hsc.hq s [] hqDistinct (Nat.zero_le _)
  obtain ⟨newW, warmed⟩ := walkQueue_walked s.hsc.wq h.s h.granted wqDistinct room
  obtain ⟨new, walked⟩ := walkQueue_walked s.ranking s [] distinct (Nat.zero_le _)
  obtain ⟨sameState, sameGranted⟩ := walkQueue_append s.hsc.hq s.hsc.wq s []
  have ranked : walkRanking s = ({ w.s with hsc := { w.s.hsc with hq := h.stay, wq := w.stay } }, w.granted) := by
    unfold walkRanking
    dsimp only
    rw [show (walkQueue s.hsc.hq s []).s.hsc.wq = _ from wq]
  have granted : w.granted = new.reverse := by
    have all := walked.granted
    rw [State.ranking, sameGranted, List.append_nil] at all
    exact all
  have split : new = newH ++ newW := by
    have both : w.granted = newW.reverse ++ (newH.reverse ++ []) := by
      rw [← held.granted]
      exact warmed.granted
    rw [List.append_nil, ← List.reverse_append, granted] at both
    exact List.reverse_injective both
  refine ⟨new, walkQueue s.ranking s [], by rw [ranked, granted], walked, ?_, ?_, ?_⟩
  · rw [ranked, State.ranking, sameState]
    constructor <;> simp [w, h]
  · rw [ranked, split, filter_append_of_apart fun l listed later => apart l listed l (warmed.sublist.subset later) rfl]
    exact held.stay
  · rw [ranked, split, filter_append_of_apart_left fun l listed first => apart l (held.sublist.subset first) l listed rfl]
    exact warmed.stay

/-! ### The clock does not enter the walk -/

theorem allocateChan_hsc_congr {s t : State} (hsc : t.hsc = s.hsc) (i : Chan) (l : Locker) :
    (allocateChan i l t).hsc = (allocateChan i l s).hsc := by
  have form (u : State) : (allocateChan i l u).hsc = { u.hsc with
      grants := u.hsc.grants + 1
      chans := u.hsc.chans.set i.val { st := .onPending l, stamp := u.hsc.grants + 1 } } := by
    unfold allocateChan
    dsimp only
    rw [issueHeat_within.hsc_eq (by decide) (by decide) (by decide), putChan_hsc]
  rw [form, form, hsc]

theorem walkQueue_congr {ls : List Locker} {s t : State} {g : List Locker} (hsc : t.hsc = s.hsc)
    (copies : t.copies = s.copies) : (walkQueue ls t g).granted = (walkQueue ls s g).granted
      ∧ (walkQueue ls t g).s.hsc = (walkQueue ls s g).s.hsc := by
  induction ls generalizing s t g with
  | nil => exact ⟨rfl, hsc⟩
  | cons l rest ih =>
    have chan (i : Chan) : t.chan i = s.chan i := by simp only [State.chan, hsc]
    have attached : t.attachedChan l = s.attachedChan l := by simp only [State.attachedChan, chan]
    have free : t.freeChan = s.freeChan := by simp only [State.freeChan, chan, copies]
    simp only [walkQueue, attached, free, chan, hsc]
    split
    · split
      · split
        · exact ih hsc copies
        · exact ih hsc copies
      · split
        · exact ih (allocateChan_hsc_congr hsc _ l) (allocateChan_within.copies.trans (copies.trans allocateChan_within.copies.symm))
        · exact ih hsc copies
    · exact ⟨rfl, hsc⟩

theorem walkRanking_granted_congr {s t : State} (hsc : t.hsc = s.hsc) (copies : t.copies = s.copies) :
    (walkRanking t).2 = (walkRanking s).2 := by
  obtain ⟨granted, after⟩ := walkQueue_congr (ls := s.hsc.hq) (g := []) hsc copies
  have kept : (walkQueue s.hsc.hq t []).s.copies = (walkQueue s.hsc.hq s []).s.copies :=
    walkQueue_within.copies.trans (copies.trans walkQueue_within.copies.symm)
  unfold walkRanking
  dsimp only
  rw [hsc, after, granted]
  exact (walkQueue_congr after kept).1

/-! ### Releases (R112) -/

section
variable {s : State} {g : List Locker} {is : List Chan} {i : Chan} {l : Locker}

theorem releaseUngranted_marksKept : MarksKept s (releaseUngranted g s i) := by
  rw [releaseUngranted_eq]
  split
  · exact turnOff_marksKept
  · exact .refl

theorem allChans_nodup : allChans.Nodup := List.nodup_finRange 16

theorem releases_marksKept : MarksKept s (is.foldl (releaseUngranted g) s) := by
  induction is generalizing s with
  | nil => exact .refl
  | cons j rest ih => exact releaseUngranted_marksKept.trans ih

/-- A release leaves the paths of a locker that it does not turn off. -/
theorem releaseUngranted_paths (kept : (s.chan i).st.energised = some l → l ∈ g) :
    (releaseUngranted g s i).paths l = s.paths l := by
  rw [releaseUngranted_eq]
  split
  · next out =>
    obtain ⟨k, away, on⟩ := out
    refine turnOff_paths_ne fun same => away ?_
    rw [on] at same
    exact Option.some.inj same ▸ kept (same ▸ on)
  · rfl

theorem releases_paths (distinct : is.Nodup) (kept : ∀ i ∈ is, (s.chan i).st.energised = some l → l ∈ g) :
    (is.foldl (releaseUngranted g) s).paths l = s.paths l := by
  induction is generalizing s with
  | nil => rfl
  | cons j rest ih =>
    obtain ⟨fresh, apart⟩ := List.nodup_cons.mp distinct
    rw [List.foldl_cons, ih apart fun i listed on => ?_, releaseUngranted_paths (kept j List.mem_cons_self)]
    have ne : i ≠ j := fun same => fresh (same ▸ listed)
    rw [releaseUngranted_chan_ne ne] at on
    exact kept i (List.mem_cons_of_mem _ listed) on

/-- A channel released has its off command issued. -/
theorem releases_commanded (distinct : is.Nodup) (channels : ChannelsDistinct s) (listed : i ∈ is)
    (on : (s.chan i).st.energised = some l) (away : l ∉ g) :
    HeatCommanded l false s (is.foldl (releaseUngranted g) s) := by
  induction is generalizing s with
  | nil => cases listed
  | cons j rest ih =>
    obtain ⟨fresh, apart⟩ := List.nodup_cons.mp distinct
    rw [List.foldl_cons]
    have alone {k : Chan} (again : (s.chan k).st.energised = some l) : k = i :=
      channels k i l (ChanState.attached_of_energised again) (ChanState.attached_of_energised on)
    by_cases first : i = j
    · subst first
      have off : releaseUngranted g s i = turnOff i s := by
        rw [releaseUngranted_eq, if_pos ⟨l, away, on⟩]
      obtain ⟨cold, writing, seq, mark⟩ := turnOff_commanded on
      have path : (rest.foldl (releaseUngranted g) (turnOff i s)).paths l = (turnOff i s).paths l :=
        releases_paths apart fun k later again => by
          have ne : k ≠ i := fun same => fresh (same ▸ later)
          rw [turnOff_chan_ne ne] at again
          exact absurd (alone again) ne
      rw [off, HeatCommanded, path]
      exact ⟨cold, writing, seq, releases_marksKept l .heat mark⟩
    · have chan : (releaseUngranted g s j).chan i = s.chan i := releaseUngranted_chan_ne first
      have path : (releaseUngranted g s j).paths l = s.paths l :=
        releaseUngranted_paths fun again => absurd (alone again).symm first
      have later : i ∈ rest := (List.mem_cons.mp listed).resolve_left first
      have commanded := ih apart (releaseUngranted_eases.channelsDistinct channels) later (by rw [chan, on])
      rwa [HeatCommanded, path] at commanded

theorem frameReleases_of_granted (granted : ∀ l, (s.chan i).st.energised = some l → l ∈ g) :
    (allChans.foldl (releaseUngranted g) s).chan i = s.chan i := by
  rw [frameReleases_chan, releaseUngranted_eq, if_neg]
  rintro ⟨l, away, on⟩
  exact away (granted l on)

theorem frameReleases_of_ungranted (on : (s.chan i).st.energised = some l) (away : l ∉ g) :
    (allChans.foldl (releaseUngranted g) s).chan i = { s.chan i with st := .offPending l } := by
  rw [frameReleases_chan, releaseUngranted_eq, if_pos ⟨l, away, on⟩, turnOff_chan_self on]

end

/-! ### The energised count (R105) -/

/-- Lockers of a list without repetition, each with an energised channel, are at most as many as the energised count. -/
theorem length_le_energisedCount {s : State} {ls : List Locker} (distinct : ls.Nodup)
    (on : ∀ l ∈ ls, ∃ i : Chan, (s.chan i).st.energised = some l) : ls.length ≤ s.energisedCount := by
  have listed : ls ⊆ allChans.filterMap fun i => (s.chan i).st.energised := fun l member => by
    obtain ⟨i, energised⟩ := on l member
    exact List.mem_filterMap.mpr ⟨i, List.mem_finRange i, energised⟩
  have count : s.energisedCount = (allChans.filterMap fun i => (s.chan i).st.energised).length :=
    (List.length_filterMap_eq_countP ..).symm
  rw [count]
  exact (List.subperm_of_subset distinct listed).length_le

/-! ### What a frame start comes to (R111, R112) -/

/-- The channels, entries and commands after a frame start, by the lockers granted. -/
structure FrameRationed (g : List Locker) (s t : State) : Prop where
  count : g.length = t.energisedCount
  capacity : g.length ≤ s.hsc.capacity
  granted : ∀ l : Locker, l ∈ g ↔ ∃ i : Chan, (t.chan i).st.energised = some l
  ranked : ∀ l ∈ g, l ∈ s.ranking
  hq : t.hsc.hq = s.hsc.hq.filter (· ∉ g)
  wq : t.hsc.wq = s.hsc.wq.filter (· ∉ g)
  left : ∀ before l after, s.ranking = before ++ l :: after → l ∉ g → LeftStanding l after g g.length s t
  kept : ∀ i l, (s.chan i).st.energised = some l → l ∈ g → t.chan i = s.chan i
  released : ∀ i l, (s.chan i).st.energised = some l → l ∉ g →
    t.chan i = { s.chan i with st := .offPending l } ∧ HeatCommanded l false s t
  served : ∀ l ∈ g, (∀ i : Chan, (s.chan i).st.attached ≠ some l) →
    HeatCommanded l true s t ∧ ∃ i ∈ freeChans s, (t.chan i).st = .onPending l
  others : ∀ i : Chan, (s.chan i).st.energised = none → i ∉ freeChans s → t.chan i = s.chan i

/-- The state at the overrun judgement of a frame start. -/
def frameReleased (s : State) : State :=
  allChans.foldl (releaseUngranted (walkRanking s).2) (walkRanking s).1

theorem hscFrameStart_eq (s : State) : hscFrameStart s = judgeOverrun (walkRanking s).2.length (frameReleased s) := rfl

section
variable {s : State} {i : Chan} {l : Locker}

theorem frameReleased_commanded (channels : ChannelsDistinct (walkRanking s).1)
    (on : ((walkRanking s).1.chan i).st.energised = some l) (away : l ∉ (walkRanking s).2) :
    HeatCommanded l false (walkRanking s).1 (frameReleased s) := by
  unfold frameReleased
  exact releases_commanded allChans_nodup channels (List.mem_finRange i) on away

theorem frameReleased_paths (granted : l ∈ (walkRanking s).2) :
    (frameReleased s).paths l = (walkRanking s).1.paths l := by
  unfold frameReleased
  exact releases_paths allChans_nodup fun _ _ _ => granted

theorem frameReleased_marksKept : MarksKept (walkRanking s).1 (frameReleased s) := by
  unfold frameReleased
  exact releases_marksKept

theorem frameReleased_eases : Eases (walkRanking s).1 (frameReleased s) := by
  unfold frameReleased
  exact frameReleases_eases _ _

theorem frameReleased_energised (on : ((frameReleased s).chan i).st.energised = some l) : l ∈ (walkRanking s).2 := by
  unfold frameReleased at on
  exact frameReleases_energised on

theorem frameReleased_of_granted
    (granted : ∀ l, ((walkRanking s).1.chan i).st.energised = some l → l ∈ (walkRanking s).2) :
    (frameReleased s).chan i = (walkRanking s).1.chan i := by
  unfold frameReleased
  exact frameReleases_of_granted granted

theorem frameReleased_of_ungranted (on : ((walkRanking s).1.chan i).st.energised = some l)
    (away : l ∉ (walkRanking s).2) :
    (frameReleased s).chan i = { (walkRanking s).1.chan i with st := .offPending l } := by
  unfold frameReleased
  exact frameReleases_of_ungranted on away

theorem frameReleased_within : Within [.chans, .paths, .marks] (walkRanking s).1 (frameReleased s) := by
  unfold frameReleased
  exact frameReleases_within

end

section
variable {s : State} {new : List Locker} {w : Walk} {i : Chan} {l : Locker}

theorem Walked.chan_of_other (walked : Walked s s.ranking [] new w) (other : i ∉ freeChans s) :
    w.s.chan i = s.chan i := (walked.chan i).resolve_right fun taken => other taken.1

theorem not_free_of_energised (on : (s.chan i).st.energised = some l) : i ∉ freeChans s := fun free => by
  rw [freeChans_free free] at on
  cases on

/-- Each locker granted has an energised channel after the walk. -/
theorem Walked.energised (walked : Walked s s.ranking [] new w) (listed : l ∈ new) :
    ∃ i : Chan, (w.s.chan i).st.energised = some l := by
  rcases walked.served l listed with ⟨i, on⟩ | ⟨-, -, i, -, pending⟩
  · exact ⟨i, by rw [walked.chan_of_other (not_free_of_energised on), on]⟩
  · exact ⟨i, by rw [pending]; rfl⟩

end

/-- The walk and the releases of a frame start. -/
theorem frameReleased_rationed {s : State} (channels : ChannelsDistinct s) (distinct : QueuesDistinct s) :
    FrameRationed (walkRanking s).2 s (frameReleased s) := by
  obtain ⟨new, w, granted, walked, kept, hq, wq⟩ := walkRanking_rationed distinct
  let v : State := (walkRanking s).1
  have members (l : Locker) : l ∈ (walkRanking s).2 ↔ l ∈ new := by rw [granted, List.mem_reverse]
  have nodup : new.Nodup := List.Nodup.sublist walked.sublist distinct
  have apart : ChannelsDistinct v := walkRanking_trail.keeps edit_channelsDistinct channels
  have chan (i : Chan) : v.chan i = w.s.chan i := kept.chan i
  have path (l : Locker) : v.paths l = w.s.paths l := kept.pathsAt l
  have entries : Within [.chans, .paths, .marks] v (frameReleased s) := frameReleased_within
  have sameFilter (q : List Locker) : q.filter (· ∉ new) = q.filter (· ∉ (walkRanking s).2) :=
    List.filter_congr fun l _ => by simp only [members]
  have stays {i : Chan} (all : ∀ l, (v.chan i).st.energised = some l → l ∈ new) : (frameReleased s).chan i = w.s.chan i := by
    rw [← chan i]
    exact frameReleased_of_granted fun l on => (members l).mpr (all l on)
  have heated {l : Locker} (listed : l ∈ new) {i : Chan} (on : (w.s.chan i).st.energised = some l) :
      (frameReleased s).chan i = w.s.chan i := stays fun k again => by
    rw [chan, on] at again
    exact Option.some.inj again ▸ listed
  have energised (l : Locker) : l ∈ (walkRanking s).2 ↔ ∃ i : Chan, ((frameReleased s).chan i).st.energised = some l := by
    refine ⟨fun listed => ?_, fun ⟨i, on⟩ => frameReleased_energised on⟩
    obtain ⟨i, on⟩ := walked.energised ((members l).mp listed)
    exact ⟨i, by rw [heated ((members l).mp listed) on, on]⟩
  have noFree {i : Chan} (free : i ∈ freeChans (frameReleased s)) : i ∈ freeChans w.s := by
    have copies : (frameReleased s).copies = w.s.copies := entries.copies.trans kept.copies
    have same : (frameReleased s).chan i = w.s.chan i := stays fun l on => by
      by_contra away
      have off := frameReleased_of_ungranted on fun listed => away ((members l).mp listed)
      have idle := freeChans_free free
      rw [show (frameReleased s).chan i = _ from off] at idle
      cases idle
    rw [freeChans, List.mem_filter] at free ⊢
    rwa [same, copies] at free
  constructor
  · refine Nat.le_antisymm (length_le_energisedCount ?_ fun l listed => (energised l).mp listed)
      (energisedCount_le_length (frameReleased_eases.channelsDistinct apart) fun i l on => (energised l).mpr ⟨i, on⟩)
    rw [granted]
    exact List.nodup_reverse.mpr nodup
  · exact walkRanking_granted_length s
  · exact energised
  · exact fun l listed => walked.sublist.subset ((members l).mp listed)
  · rw [(entries.entries (by decide)).1, ← sameFilter]
    exact hq
  · rw [(entries.entries (by decide)).2, ← sameFilter]
    exact wq
  · intro before l after split out
    have count : ([] : List Locker).length + new.length = (walkRanking s).2.length := by
      rw [granted, List.length_reverse, List.length_nil, Nat.zero_add]
    have left := walked.left before l after split fun listed => out ((members l).mpr listed)
    rw [count] at left
    refine left.imp (Or.imp_right fun ⟨unheld, empty⟩ => ⟨unheld, ?_⟩) fun ⟨full, later⟩ =>
      ⟨full, fun k listed granted => later k listed ((members k).mp granted)⟩
    refine List.eq_nil_iff_forall_not_mem.mpr fun i free => ?_
    have before := noFree free
    rw [empty] at before
    cases before
  · intro i l on listed
    have walkedChan : w.s.chan i = s.chan i := walked.chan_of_other (not_free_of_energised on)
    rw [heated ((members l).mp listed) (by rw [walkedChan, on]), walkedChan]
  · intro i l on away
    have walkedChan : v.chan i = s.chan i := (chan i).trans (walked.chan_of_other (not_free_of_energised on))
    have still : v.paths l = s.paths l := (path l).trans (walked.paths l fun listed => away ((members l).mpr listed))
    have on' : (v.chan i).st.energised = some l := by rw [walkedChan, on]
    have commanded : HeatCommanded l false v (frameReleased s) := frameReleased_commanded apart on' away
    rw [HeatCommanded, still] at commanded
    refine ⟨?_, commanded⟩
    rw [← walkedChan]
    exact frameReleased_of_ungranted on' away
  · intro l listed unheld
    rcases walked.served l ((members l).mp listed) with ⟨i, on⟩ | ⟨-, ⟨on, writing, seq, mark⟩, i, free, pending⟩
    · exact absurd (ChanState.attached_of_energised on) (unheld i)
    · have still : (frameReleased s).paths l = w.s.paths l := by
        rw [← path l]
        exact frameReleased_paths listed
      have marked : (v.marks l).heat = true := by
        rw [kept.marksAt l]
        exact mark
      refine ⟨⟨by rw [still, on], by rw [still, writing], by rw [still, seq], frameReleased_marksKept l .heat marked⟩, i, free, ?_⟩
      rw [heated ((members l).mp listed) (by rw [pending]; rfl), pending]
  · intro i off other
    have walkedChan : w.s.chan i = s.chan i := walked.chan_of_other other
    rw [stays fun l on => ?_, walkedChan]
    rw [chan, walkedChan, off] at on
    cases on

end Sys2Proof.Machine
end

section
/-! PROOFS. A frame start as one event: heat rationed, the overrun judged, a sweep begun or owed (R111 to R113, R147). -/

-- One theorem after the other: a thread for each would ask for more stack space than a build may have.
set_option Elab.async false

namespace Sys2Proof.Machine

/-! ### The overrun judgement (R113) -/

/-- What the judgement of the hold queue left makes of the overrun flag, with its records. -/
structure OverrunJudged (granted : Nat) (s t : State) : Prop where
  kept : Within [.limit, .queue] s t
  capacity : t.hsc.capacity = s.hsc.capacity
  empty : s.hsc.hq = [] → t.hsc.overrun = false
  full : s.hsc.hq ≠ [] → granted = s.hsc.capacity → t.hsc.overrun = true
  short : s.hsc.hq ≠ [] → granted < s.hsc.capacity → t.hsc.overrun = s.hsc.overrun
  begins : s.hsc.overrun = false → t.hsc.overrun = true → HandedAll [recordOfNone s .holdOverrun
    (BitVec.ofNat 16 s.hsc.capacity) (BitVec.ofNat 32 s.hsc.hq.length)] s t
  ends : s.hsc.overrun = true → t.hsc.overrun = false →
    HandedAll [recordOfNone s .holdOverrunEnd (BitVec.ofNat 16 s.hsc.capacity) 0] s t
  stands : t.hsc.overrun = s.hsc.overrun → HandedAll [] s t

section
variable {s : State} {n : Nat}

/-- A judgement that leaves the flag as it was. -/
theorem OverrunJudged.still (empty : s.hsc.hq = [] → s.hsc.overrun = false)
    (full : s.hsc.hq ≠ [] → n = s.hsc.capacity → s.hsc.overrun = true) : OverrunJudged n s s where
  kept := .refl
  capacity := rfl
  empty := empty
  full := full
  short := fun _ _ => rfl
  begins := fun off on => absurd (off.symm.trans on) Bool.false_ne_true
  ends := fun on off => absurd (off.symm.trans on) Bool.false_ne_true
  stands := fun _ => ⟨rfl, rfl, rfl⟩

/-- The state after an overrun ends or begins, with its record. -/
def overrunTurned (kind : ReportKind) (data : Word) (on : Bool) (s : State) : State :=
  handRecord (recordOfNone s kind (BitVec.ofNat 16 s.hsc.capacity) data) { s with hsc := { s.hsc with overrun := on } }

theorem judgeOverrun_of_empty (empty : s.hsc.hq = []) (on : s.hsc.overrun = true) :
    judgeOverrun n s = overrunTurned .holdOverrunEnd 0 false s := by
  rw [judgeOverrun, if_pos (by simpa using empty), if_pos on]
  rfl

theorem judgeOverrun_of_full (some_ : s.hsc.hq ≠ []) (full : n = s.hsc.capacity) (off : s.hsc.overrun = false) :
    judgeOverrun n s = overrunTurned .holdOverrun (BitVec.ofNat 32 s.hsc.hq.length) true s := by
  rw [judgeOverrun, if_neg (by simpa using some_), if_pos (by simp [full, off])]
  rfl

theorem judgeOverrun_of_still (empty : s.hsc.hq = [] → s.hsc.overrun = false)
    (full : s.hsc.hq ≠ [] → n = s.hsc.capacity → s.hsc.overrun = true) : judgeOverrun n s = s := by
  by_cases none : s.hsc.hq = []
  · rw [judgeOverrun, if_pos (by simpa using none), if_neg (by simp [empty none])]
  · rw [judgeOverrun, if_neg (by simpa using none), if_neg]
    intro turns
    obtain ⟨reached, off⟩ := Bool.and_eq_true_iff.mp turns
    simp [full none (of_decide_eq_true reached)] at off

theorem judgeOverrun_judged : OverrunJudged n s (judgeOverrun n s) := by
  have kept : Within [.limit, .queue] s (judgeOverrun n s) := judgeOverrun_within
  have capacity : (judgeOverrun n s).hsc.capacity = s.hsc.capacity := judgeOverrun_capacity n s
  by_cases ends : s.hsc.hq = [] ∧ s.hsc.overrun = true
  · obtain ⟨empty, on⟩ := ends
    rw [judgeOverrun_of_empty empty on] at kept capacity ⊢
    exact ⟨kept, capacity, fun _ => rfl, fun other => absurd empty other, fun other => absurd empty other,
      fun off => absurd (off.symm.trans on) Bool.false_ne_true, fun _ _ => ⟨rfl, rfl, rfl⟩,
      fun same => absurd (Eq.trans (b := s.hsc.overrun) same on) Bool.false_ne_true⟩
  · by_cases begins : s.hsc.hq ≠ [] ∧ n = s.hsc.capacity ∧ s.hsc.overrun = false
    · obtain ⟨some_, full, off⟩ := begins
      rw [judgeOverrun_of_full some_ full off] at kept capacity ⊢
      exact ⟨kept, capacity, fun empty => absurd empty some_, fun _ _ => rfl, fun _ less => absurd full less.ne,
        fun _ _ => ⟨rfl, rfl, rfl⟩, fun on => absurd (off.symm.trans on) Bool.false_ne_true,
        fun same => absurd (off.symm.trans (Eq.symm (b := s.hsc.overrun) same)) Bool.false_ne_true⟩
    · have empty (none : s.hsc.hq = []) : s.hsc.overrun = false := Bool.eq_false_iff.mpr fun on => ends ⟨none, on⟩
      have full (some_ : s.hsc.hq ≠ []) (reached : n = s.hsc.capacity) : s.hsc.overrun = true :=
        Bool.of_not_eq_false fun off => begins ⟨some_, reached, off⟩
      rw [judgeOverrun_of_still empty full]
      exact .still empty full

end

/-! ### The sweep (R147) -/

/-- While a poll is in flight the sweep stands (log 31). -/
theorem settle_sweep_of_flying {s : State} (mode : s.mode = .operating) (flies : s.pollFlying = true) :
    (settle s).smp.sweep = s.smp.sweep ∧ (settle s).smp.owed = s.smp.owed := by
  obtain ⟨u, kept, smp⟩ := settle_smp mode
  have flies' : (smpWithdraw u).pollFlying = true := by
    rw [pollFlying_congr (smpWithdraw_within.mpi (by decide)), pollFlying_congr (kept.mpi (by decide)), flies]
  have withdrawn : (smpWithdraw u).smp.sweep = u.smp.sweep ∧ (smpWithdraw u).smp.owed = u.smp.owed := by
    unfold smpWithdraw
    split
    · split <;> exact ⟨rfl, rfl⟩
    · split <;> exact ⟨rfl, rfl⟩
    · exact ⟨rfl, rfl⟩
  have ended : smpSettle u = smpWithdraw u := by
    rw [smpSettle]
    exact if_neg (by simp [flies'])
  obtain ⟨sweep, owed, -⟩ := kept.sweep (by decide)
  rw [smp, ended, withdrawn.1, withdrawn.2]
  exact ⟨sweep, owed⟩

/-! ### The whole of a frame start (R111 to R113, R147) -/

/-- What a frame start does to heat stands where channels, entries, paths and marks stand. -/
theorem FrameRationed.congr {g : List Locker} {s u t : State} (f : FrameRationed g s u)
    (chans : t.hsc.chans = u.hsc.chans) (entries : t.hsc.hq = u.hsc.hq ∧ t.hsc.wq = u.hsc.wq)
    (ahu : t.ahu.paths = u.ahu.paths) (mrw : t.mrw.marks = u.mrw.marks) (copies : t.copies = u.copies) :
    FrameRationed g s t := by
  have chan (i : Chan) : t.chan i = u.chan i := chan_of_hsc chans i
  have path (l : Locker) : t.paths l = u.paths l := paths_of_ahu ahu l
  have mark (l : Locker) : t.marks l = u.marks l := marks_of_mrw mrw l
  have count : t.energisedCount = u.energisedCount := by simp only [State.energisedCount, chan]
  have free : freeChans t = freeChans u := by simp only [freeChans, chan, copies]
  obtain ⟨fewer, capacity, granted, ranked, hq, wq, left, kept, released, served, others⟩ := f
  refine ⟨fewer.trans count.symm, capacity, by simpa only [chan] using granted, ranked, entries.1.trans hq, entries.2.trans wq,
    ?_, by simpa only [chan] using kept, by simpa only [chan, HeatCommanded, path, mark] using released,
    by simpa only [chan, HeatCommanded, path, mark] using served, by simpa only [chan] using others⟩
  simpa only [LeftStanding, PassedOver, free] using left

/-- What a frame start does to heat reads channels, entries, paths and the copies alone. -/
theorem FrameRationed.rebase {g : List Locker} {s v t : State} (f : FrameRationed g v t) (hsc : v.hsc = s.hsc)
    (ahu : v.ahu.paths = s.ahu.paths) (copies : v.copies = s.copies) : FrameRationed g s t := by
  have chan (i : Chan) : v.chan i = s.chan i := by simp only [State.chan, hsc]
  have path (l : Locker) : v.paths l = s.paths l := paths_of_ahu ahu l
  have ranking : v.ranking = s.ranking := by simp only [State.ranking, hsc]
  have free : freeChans v = freeChans s := by simp only [freeChans, chan, copies]
  obtain ⟨fewer, capacity, granted, ranked, hq, wq, left, kept, released, served, others⟩ := f
  refine ⟨fewer, by rwa [← hsc], granted, by rwa [← ranking], by rwa [← hsc], by rwa [← hsc], ?_,
    by simpa only [chan] using kept, by simpa only [chan, HeatCommanded, path] using released,
    by simpa only [chan, HeatCommanded, path, free] using served, by simpa only [chan, free] using others⟩
  simpa only [LeftStanding, PassedOver, chan, ranking, hsc] using left

/-- The state in which a frame start reaches HSC: the clock has taken it. -/
def frameTaken (s : State) : State := { s with tmb := s.tmb.frameEvent s.copies.frameMs }

section
variable {s : State}

theorem frameTaken_within : Within [.tmb] s (frameTaken s) := by constructor <;> simp [frameTaken]

theorem exec_frameStart (runs : s.tmb.frame ≠ none) :
    exec .frameStart s = .next (settle (smpFrameStart (hscFrameStart (frameTaken s)))) := by
  change execFrameStart s = _
  rw [execFrameStart, if_neg (by simpa using runs)]
  rfl

theorem frameStart_granted : (walkRanking (frameTaken s)).2 = (walkRanking s).2 :=
  walkRanking_granted_congr rfl rfl

theorem frameReleased_taken_within :
    Within [.tmb, .chans, .paths, .marks, .entries] s (frameReleased (frameTaken s)) :=
  (frameTaken_within.widen.next walkRanking_within).next frameReleased_within

/-- The frame start's part in heat, seen from before the event and after its settling. -/
theorem frameStart_rationed (channels : ChannelsDistinct s) (distinct : QueuesDistinct s) :
    FrameRationed (walkRanking s).2 s (settle (smpFrameStart (hscFrameStart (frameTaken s)))) := by
  have taken : FrameRationed (walkRanking (frameTaken s)).2 (frameTaken s) (frameReleased (frameTaken s)) :=
    frameReleased_rationed channels distinct
  have rationed := taken.rebase (s := s) rfl rfl rfl
  rw [frameStart_granted] at rationed
  have judged : Within [.limit, .queue] (frameReleased (frameTaken s)) (hscFrameStart (frameTaken s)) := by
    rw [hscFrameStart_eq]
    exact judgeOverrun_within
  have after : Within [.limit, .queue, .sweep] (frameReleased (frameTaken s))
      (smpFrameStart (hscFrameStart (frameTaken s))) := judged.widen.next smpFrameStart_within
  refine rationed.congr ?_ ?_ ?_ ?_ ?_
  · rw [settle_hsc, (after.chans (by decide)).1]
  · rw [settle_hsc]
    exact after.entries (by decide)
  · rw [settle_ahu_paths, after.paths (by decide)]
  · rw [settle_mrw_marks, after.marks (by decide)]
  · rw [settle_copies, after.copies]

/-- The frame start's judgement of the hold queue left. -/
theorem frameStart_judged : OverrunJudged (walkRanking s).2.length (frameReleased (frameTaken s))
    (hscFrameStart (frameTaken s)) := by
  rw [hscFrameStart_eq, frameStart_granted]
  exact judgeOverrun_judged

/-- What a frame start asks of the sweep, seen from before HSC took the event: begin one, or owe one while one runs. -/
structure SweepAsked (s t : State) : Prop where
  running : s.smp.sweep ≠ none → t.smp.owed = true ∧ t.smp.sweep = s.smp.sweep
  idle : s.smp.sweep = none → t.smp.owed = s.smp.owed
    ∧ t.smp.sweep = some (s.lockers.filter fun l => (s.ctx l).life ≠ .vacant)

end

section
variable {s h : State}

theorem smpFrameStart_asked (kept : Within [.tmb, .chans, .paths, .marks, .entries, .limit, .queue] s h) :
    SweepAsked s (smpFrameStart h) := by
  obtain ⟨sweep, owed, -⟩ := kept.sweep (by decide)
  have lockers : h.lockers = s.lockers := by simp only [State.lockers, kept.copies]
  have listed : h.lockers.filter (fun l => !h.isVacant l) = s.lockers.filter fun l => (s.ctx l).life ≠ .vacant := by
    rw [lockers]
    refine List.filter_congr fun l _ => ?_
    simp [State.isVacant, kept.ctx l]
  refine ⟨fun runs => ?_, fun none => ?_⟩
  · rw [smpFrameStart, if_pos (by rw [sweep]; exact Option.isSome_iff_ne_none.mpr runs)]
    exact ⟨rfl, sweep⟩
  · rw [smpFrameStart, if_neg (by simp [sweep, none])]
    exact ⟨owed, congrArg some listed⟩

/-- The sweep that a frame start begins or owes stands while a poll is in flight. -/
theorem settle_smpFrameStart_asked (kept : Within [.tmb, .chans, .paths, .marks, .entries, .limit, .queue] s h)
    (mode : s.mode = .operating) (flies : s.pollFlying = true) : SweepAsked s (settle (smpFrameStart h)) := by
  have started : Within [.sweep] h (smpFrameStart h) := smpFrameStart_within
  obtain ⟨sweep, owed⟩ := settle_sweep_of_flying (s := smpFrameStart h)
    (started.mode.trans (kept.mode.trans mode))
    ((pollFlying_congr (started.mpi (by decide))).trans ((pollFlying_congr (kept.mpi (by decide))).trans flies))
  obtain ⟨running, idle⟩ := smpFrameStart_asked kept
  constructor
  · rwa [sweep, owed]
  · rwa [sweep, owed]

end

/-- What a frame start does besides heat: the overrun and its record, the sweep, and what it leaves alone. -/
structure FrameJudged (granted : Nat) (s t : State) : Prop where
  empty : t.hsc.hq = [] → t.hsc.overrun = false
  full : t.hsc.hq ≠ [] → granted = s.hsc.capacity → t.hsc.overrun = true
  short : t.hsc.hq ≠ [] → granted < s.hsc.capacity → t.hsc.overrun = s.hsc.overrun
  recorded : s.ringFull = false →
    (s.hsc.overrun = false → t.hsc.overrun = true → Handed (recordOfNone s .holdOverrun
      (BitVec.ofNat 16 s.hsc.capacity) (BitVec.ofNat 32 t.hsc.hq.length)) s t)
    ∧ (s.hsc.overrun = true → t.hsc.overrun = false → Handed (recordOfNone s .holdOverrunEnd
      (BitVec.ofNat 16 s.hsc.capacity) 0) s t)
    ∧ (t.hsc.overrun = s.hsc.overrun → t.rpw.queue = s.rpw.queue)
  capacity : t.hsc.capacity = s.hsc.capacity

/-- The judgement made of a state `u` after the releases, seen from before them and after the settling. -/
theorem OverrunJudged.settled {n : Nat} {s u h : State} (judged : OverrunJudged n u h)
    (before : Within [.tmb, .chans, .paths, .marks, .entries] s u) (seconds : u.tmb.seconds = s.tmb.seconds) :
    FrameJudged n s (settle (smpFrameStart h)) := by
  have started : Within [.sweep] h (smpFrameStart h) := smpFrameStart_within
  have whole : Within [.tmb, .chans, .paths, .marks, .entries, .limit, .queue, .sweep] s (smpFrameStart h) :=
    (before.widen.next judged.kept).next started
  have hsc : (settle (smpFrameStart h)).hsc = h.hsc := by
    rw [settle_hsc, started.hsc_eq (by decide) (by decide) (by decide)]
  have entries : h.hsc.hq = u.hsc.hq := (judged.kept.entries (by decide)).1
  obtain ⟨capacity, overrun⟩ := before.limit (by decide)
  have handed {records : List Record} (made : HandedAll records u h) (room : s.ringFull = false) :
      HandedAll records s (settle (smpFrameStart h)) := by
    have all := handedAll_trans (handedAll_trans before.unhanded made) started.unhanded
    rw [List.nil_append, List.append_nil] at all
    exact handedAll_settle all (whole.ringFull.trans room)
  obtain ⟨-, limit, empty, full, short, begins, ends, stands⟩ := judged
  rw [capacity, ← entries, ← hsc] at full
  rw [capacity, overrun, ← entries, ← hsc] at short
  rw [← entries, ← hsc] at empty
  rw [overrun, recordOfNone, seconds, capacity, ← entries, ← hsc] at begins
  rw [overrun, recordOfNone, seconds, capacity, ← hsc] at ends
  rw [overrun, ← hsc] at stands
  refine ⟨empty, full, short, fun room => ⟨fun off on => handed (begins off on) room,
    fun on off => handed (ends on off) room, fun same => queue_of_unhanded (handed (stands same) room)⟩, ?_⟩
  rw [hsc, limit, capacity]

section
variable {s : State}

theorem frameStart_within :
    Within [.tmb, .chans, .paths, .marks, .entries, .limit, .queue, .sweep] s
      (smpFrameStart (hscFrameStart (frameTaken s))) :=
  (frameTaken_within.widen.next hscFrameStart_within).next smpFrameStart_within

theorem frameStart_tmb :
    (settle (smpFrameStart (hscFrameStart (frameTaken s)))).tmb = s.tmb.frameEvent s.copies.frameMs := by
  have kept : Within [.chans, .paths, .marks, .entries, .limit, .queue, .sweep] (frameTaken s)
      (smpFrameStart (hscFrameStart (frameTaken s))) := hscFrameStart_within.widen.next smpFrameStart_within
  rw [settle_tmb, kept.tmb (by decide)]
  rfl

theorem frameReleased_taken_seconds : (frameReleased (frameTaken s)).tmb.seconds = s.tmb.seconds := by
  have kept : Within [.chans, .paths, .marks, .entries] (frameTaken s) (frameReleased (frameTaken s)) :=
    walkRanking_within.next frameReleased_within
  rw [kept.tmb (by decide)]
  rfl

end

/-- Settles O52: heat by the walk and the releases, then the overrun and the sweep. -/
theorem frameStartRationsHeat : Obligations.FrameStartRationsHeat := by
  intro s mode runs channels distinct granted
  obtain ⟨fewer, within, held, ranked, hq, wq, left, kept, released, served, others⟩ :=
    frameStart_rationed channels distinct
  obtain ⟨empty, full, short, recorded, capacity⟩ :=
    frameStart_judged.settled frameReleased_taken_within frameReleased_taken_seconds
  have asked (flies : s.pollFlying = true) :=
    settle_smpFrameStart_asked (frameTaken_within.widen.next hscFrameStart_within) mode flies
  have whole := frameStart_within (s := s)
  refine ⟨_, exec_frameStart runs, ⟨fewer, within, held⟩, ranked, hq, wq, left, kept, released, served, others, empty, full,
    short, recorded, capacity, fun flies => (asked flies).running, fun flies => (asked flies).idle, ?_, ?_, ?_, ?_, ?_⟩
  · exact congrArg Tmb.frame frameStart_tmb
  · rw [frameStart_tmb]
    rfl
  · exact lockersKept_settle (whole.lockersKept (by decide) (by decide))
  · exact samplesKept_settle (whole.samplesKept (by decide) (by decide))
  · exact outsideKept_settle (whole.outsideKept (by decide) (by decide))

end Sys2Proof.Machine
end
